-- ==== Sys2Proof/Word.lean ====
section
/-! DEFINITION. The word types of the engine (R5, R11, R12): bit vectors for what the manual numbers bit by bit. -/

namespace Sys2Proof

/-- Eight bits (R12). -/
abbrev Byte := BitVec 8
/-- A 32-bit register or lane (R139, R525). -/
abbrev Word := BitVec 32
/-- A 64-bit field (R38, R134). -/
abbrev DWord := BitVec 64
/-- One block or flit of 512 data bits (R33, R379). -/
abbrev Block := BitVec 512

end Sys2Proof
end

