-- ==== Sys2Proof/Syntax.lean ====
section
/-! DEFINITION. The commands of the block: one constructor of `Instr` per row of spec/opcode_table.json, and the plain
data their operands are made of. -/

namespace Sys2Proof

/-- A physical core site: `panel` is the panel index of PANEL_SEL (canopy × 96 + row × 12 + column, R436), `col` and
`row` the site S(col,row) inside the panel (R16). -/
structure Site where
  panel : Nat
  col : Nat
  row : Nat
  deriving DecidableEq, Repr

/-- The ports of a router in the order of R61. -/
inductive Port where
  | here | north | east | south | west | sixth
  deriving DecidableEq, Repr

/-- One flit of 512 data bits and 64 side bits (R33, R38), with the poison mark of R37. -/
structure Flit where
  data : Block
  side : DWord
  poisoned : Bool
  deriving DecidableEq, Repr

/-- The control sideband beside a flit (R33): its class, the detour bit, and the eight link-check bits (R37). -/
structure Sideband where
  cls : BitVec 2
  detour : Bool
  check : Byte
  deriving DecidableEq, Repr

/-- A guy-link frame (R379): header word, blocks (data blocks, then payload-word blocks), trailer word. -/
structure Frame where
  header : DWord
  blocks : List Block
  trailer : DWord
  deriving DecidableEq, Repr

/-- A Viumond datagram (R508): the port it arrived on, the header fields, and the body. -/
structure Datagram where
  port : Nat
  ver : Byte
  typ : Byte
  flags : BitVec 16
  reqid : Word
  session : DWord
  len : BitVec 16
  status : BitVec 16
  reserved : Word
  modid : DWord
  tag : BitVec 256
  body : List Byte
  deriving DecidableEq, Repr

/-- One failing vote of the pitching or neighbour tests (R518, R484): `tester` found that `unit` failed the router
loopback, or that its core failed. A pair for which no vote is listed passed. -/
structure Vote where
  tester : Site
  unit : Site
  loopback : Bool
  deriving DecidableEq, Repr

/-- What the silicon shows while it pitches (R517 to R519): the failing votes, the regulator cells that fail their
retest as (panel, domain, cell) (R414), the path resistances measured as (panel, domain, point, value) (R412), the
canopy temperatures its calibration stores (R450), and the duration in ms. -/
structure Pitch where
  votes : List Vote
  badCells : List (Nat × Nat × Nat)
  rho : List (Nat × Nat × Nat × Nat)
  temps : List Int
  ms : Nat
  deriving DecidableEq, Repr

/-- One governor sample (R419): input voltage in units of 10 mV, current in A, power in W, the demand estimate in W,
the mean power of the last 10 ms in W, and for each panel its measured current in mA and the estimated power in W of
one ballast step of two columns. `sector` holds the eight sector currents in A (R426); `work` is, for each panel,
the estimated power in W that a clock step of 25 MHz frees (R421). -/
structure GovSample where
  vin : Nat
  iin : Nat
  pin : Nat
  demand : Nat
  mean10ms : Nat
  panels : List (Nat × Nat × Nat × Nat)
  sectors : List Nat
  deriving DecidableEq, Repr

/-- One thermal sample (R442 to R444): for each panel its forecast in units of 0.25 degrees, and for each panel the
sensor readings (sensor, reading in units of 0.25 degrees). -/
structure ThermSample where
  forecasts : List (Nat × Int)
  sensors : List (Nat × Nat × Int)
  power : Nat
  deriving DecidableEq, Repr

/-- What a calibration measured (R449, R453, R454, R455): its time in µs, REFV as each canopy measured it in units of
0.1 mV, the canopy temperatures in units of 0.25 degrees, the path resistances (panel, domain, point, value), and the
sensors whose corrected reading departs by more than 5 degrees from the mean of their panel's others. -/
structure CalResult where
  us : Nat
  refv : List Nat
  temps : List Int
  rho : List (Nat × Nat × Nat × Nat)
  outliers : List (Nat × Nat)
  deriving DecidableEq, Repr

/-- Who sends a bivouac or wake request (R433, R434): PWR_CMD, or a Viumond POWER datagram. -/
inductive PowerSource where
  | register
  | viumond (d : Datagram)
  deriving DecidableEq, Repr

/-- How a codeword was found bad (R377). -/
inductive CodewordFault where
  | uncorrectable | cwcGap | badHeader
  deriving DecidableEq, Repr

/-- Every command of spec/opcode_table.json. A core's instruction names the site whose front end takes it and bits
[55:0] of its word: the major opcode in [63:56] is the constructor's own (R134, R201, R209). -/
inductive Instr where
  | aload (k : Site) (w : BitVec 56)
  | tileArrival (k : Site)
  | astrm (k : Site) (w : BitVec 56)
  | astrc (k : Site) (w : BitVec 56)
  | adrain (k : Site) (w : BitVec 56)
  | arrayIdle (k : Site)
  | vadd (k : Site) (w : BitVec 56)
  | vsub (k : Site) (w : BitVec 56)
  | vmul (k : Site) (w : BitVec 56)
  | vfma (k : Site) (w : BitVec 56)
  | vmax (k : Site) (w : BitVec 56)
  | vmin (k : Site) (w : BitVec 56)
  | vuna (k : Site) (w : BitVec 56)
  | vcmp (k : Site) (w : BitVec 56)
  | vsel (k : Site) (w : BitVec 56)
  | vbcst (k : Site) (w : BitVec 56)
  | vred (k : Site) (w : BitVec 56)
  | vcvt (k : Site) (w : BitVec 56)
  | vexp2 (k : Site) (w : BitVec 56)
  | vrcp (k : Site) (w : BitVec 56)
  | vrsq (k : Site) (w : BitVec 56)
  | vlog2 (k : Site) (w : BitVec 56)
  | vld (k : Site) (w : BitVec 56)
  | vst (k : Site) (w : BitVec 56)
  | vqnt (k : Site) (w : BitVec 56)
  | vdeq (k : Site) (w : BitVec 56)
  | vsplt (k : Site) (w : BitVec 56)
  | vrot (k : Site) (w : BitVec 56)
  | vrope (k : Site) (w : BitVec 56)
  | xmov (k : Site) (w : BitVec 56)
  | xtw (k : Site) (w : BitVec 56)
  | xfill (k : Site) (w : BitVec 56)
  | fsend (k : Site) (w : BitVec 56)
  | frecv (k : Site) (w : BitVec 56)
  | messageLanded (k : Site)
  | fred (k : Site) (w : BitVec 56)
  | fmrg (k : Site) (w : BitVec 56)
  | attend (k : Site) (w : BitVec 56)
  | gate (k : Site) (w : BitVec 56)
  | sampleFeed (k : Site) (w : BitVec 56)
  | seti (k : Site) (w : BitVec 56)
  | sop (k : Site) (w : BitVec 56)
  | loop (k : Site) (w : BitVec 56)
  | tok (k : Site) (w : BitVec 56)
  | tparm (k : Site) (w : BitVec 56)
  | barr (k : Site) (w : BitVec 56)
  | step (k : Site) (w : BitVec 56)
  | dtag (k : Site) (w : BitVec 56)
  | dtrace (k : Site) (w : BitVec 56)
  | dbrk (k : Site) (w : BitVec 56)
  /-- `port` is the input port the flit arrived on (R40). -/
  | routerFlitArrival (k : Site) (port : Port) (f : Flit) (sb : Sideband)
  | reduceCombine (k : Site) (tree : Nat)
  | mergeCombine (k : Site) (tree : Nat)
  | routerDeathDetect (k : Site)
  | dupCheck (k : Site)
  /-- An update to parity frame `frame` of `k`: from byte `off`, the old XOR new of the bytes that changed (R274). -/
  | guardUpdate (k : Site) (src : Site) (frame off : Nat) (delta : List Byte) (tick : Nat)
  | guardCloseMarker (k : Site) (src : Site) (tick : Nat)
  | tickRelease
  | cohortBuild
  | lanternListArrival (lantern : Nat) (flits : List Flit)
  | lanternDraw (lantern cohort row : Nat)
  /-- `silent` are the cores that do not answer the probe within 1 µs (R229, R488). -/
  | deadlineProbe (silent : List Site)
  | darningComplete
  | load (f : Nat)
  | unload (f : Nat)
  | zipOpen (f : Nat)
  | zipStage (f : Nat)
  | zipClose (f : Nat)
  | zipValidated (id : Nat)
  | zipExpiry (id : Nat)
  | cancel (f : Nat)
  | evict (f : Nat)
  | restore (f : Nat)
  | automaton (f : Nat)
  | source (f : Nat)
  | serve (f : Nat)
  | replace (f : Nat)
  | replaceDrainLimit
  | copyBuild (f : Nat)
  | copyDiscard (f : Nat)
  /-- The bytes, as carried, of shard record `rec` for `k`, as the source in use delivered them. -/
  | shardArrival (rec : Nat) (k : Site) (bytes : List Byte)
  | scrubShardHashed (rec : Nat) (k : Site)
  | request (f ring : Nat)
  | continue_ (f ring : Nat)
  | doorbellSnoop (f : Nat)
  | doorbellRead (f : Nat)
  | doorbellPoll
  | msixModeration (f vec : Nat)
  | functionLevelReset (f : Nat)
  | hostLinkDown
  | hostLinkUp
  /-- `low` is the asserted level; `ns` is how long the pin has held it (R549). -/
  | hostPerstN (low : Bool) (ns : Nat)
  | stageFrame (l : Nat) (fr : Frame)
  | guyAckFrame (l : Nat) (fr : Frame)
  | guyAckTimeout (l : Nat)
  | ackIdleTimer (l : Nat)
  | shardRequest (l : Nat) (fr : Frame)
  | shardData (l : Nat) (frs : List Frame)
  | notHeld (l : Nat) (fr : Frame)
  | tickMarker (l : Nat) (fr : Frame)
  | heldMarker (l : Nat) (fr : Frame)
  | markerRepeat (l : Nat)
  | heldMarkerTimer
  | tickMarkerTimeout (l : Nat)
  | hello (l : Nat) (fr : Frame)
  /-- `unsound` is the mask of lanes that failed training or the error-rate limit (R399). -/
  | laneErrorRate (l : Nat) (unsound : Byte)
  | group (l : Nat) (fr : Frame)
  | bivouac (l : Nat) (fr : Frame)
  | wake (l : Nat) (fr : Frame)
  | loss (l : Nat) (fr : Frame)
  | pwrEnAssert
  | startSlotOpen (p : Pitch)
  | pwrEnDeassert
  /-- `low` is the asserted level; deassertion pitches with what the silicon shows in `p`. -/
  | resetN (low : Bool) (p : Pitch)
  | inputUndervoltage (vin us : Nat)
  | inputOvervoltage (vin us : Nat)
  | governorSample (g : GovSample)
  | panelReady (panel : Nat)
  /-- The mean error of a domain's sense points in units of 0.1 mV, and the lowest reading and its point (R406, R411). -/
  | senseSample (panel dom : Nat) (err : Int) (vmin point : Nat)
  | droopTrip (panel point : Nat) (depth : Nat)
  | droopRecovery (panel : Nat)
  /-- The drop at a sense point beyond ρ times its current, in units of 0.1 mV, and for how long in µs (R413). -/
  | bondCheck (panel dom point excess us : Nat)
  | sectorLimitCheck (sector amps us : Nat)
  | regCellIsolation (panel dom cell : Nat)
  | converterFailure (conv : Nat)
  /-- The share of input current in percent of a lug pair, the input current in A, and for how long in ms (R543). -/
  | lugImbalanceCheck (pair share amps ms : Nat)
  | bivouacEntry (src : PowerSource)
  | wakeImmediate (src : PowerSource)
  | wakeStaggered (src : PowerSource)
  | thermalSample (t : ThermSample)
  /-- Bits [71:0] of the report after the vendor header, and whether its packet error check passed (R514, R515). -/
  | coolantReport (msg : BitVec 72) (pec : Bool)
  | coolantDataTimeout
  | coolantBalanceCheck (watts : Nat)
  /-- Bits [271:0] of the key-set message, and whether the flash write succeeds (R516). -/
  | operatorKeySet (msg : BitVec 272) (flashOk : Bool)
  | calTriggerEval (temps : List Int)
  | calibrationStart
  | calDone (c : CalResult)
  | calNow
  | neighbourTest (unit : Site) (isRouter : Bool) (testers : List Site) (votes : List Vote)
  | observationEnd (unit : Site) (isRouter : Bool)
  | darnOvr (value : Word)
  | supervisorChallenge (answer : Option Word)
  | controllerStart
  | firmwareTrial (good : Bool)
  | sessionOpen (d : Datagram)
  | sessionTimeout (id : DWord)
  | readReg (d : Datagram)
  | writeReg (d : Datagram)
  | readMem (d : Datagram)
  | events (d : Datagram)
  | eventAck (d : Datagram)
  | eventPushRepeat
  | holdPlace (d : Datagram)
  | holdLift (d : Datagram)
  | freezeTickAligned (d : Datagram)
  | freezeImmediate (d : Datagram)
  | freezeNAssert (ns : Nat)
  | freezeNDeassert
  | resume (d : Datagram)
  | freezeExpiry
  | reset (d : Datagram) (p : Pitch)
  | fwStage (d : Datagram)
  | fwActivate (d : Datagram)
  | quote (d : Datagram)
  | keyRotateGenerate (d : Datagram)
  | keyRotateConfirm (d : Datagram)
  | collectors (d : Datagram)
  | trace (d : Datagram)
  | scan (d : Datagram)
  | opkey (d : Datagram)
  | guardedPair (off : Nat) (value : Word)
  | guardPairTimeout (off : Nat)
  | sequenceClear (f off : Nat) (value : Word)
  | zpWrite (f off : Nat) (value : Word)
  | ringEnable (f ring : Nat) (value : Word)
  | ringDisable (f ring : Nat) (value : Word)
  | doorbellAddressWrite (f : Nat) (hi : Word)
  | cacheEnWrite (value : Word)
  | ptFetch (off : Nat) (value : Word)
  | ptWrite (value : Word)
  | extSel (value : Word)
  | registerWrite (f off : Nat) (value : Word)
  | powerOn
  | laneAlignmentLoss (l : Nat)
  | uncorrectableCodeword (l : Nat) (why : CodewordFault)
  | frameCrcError (l : Nat) (fr : Frame)
  deriving DecidableEq, Repr

end Sys2Proof
end

