-- ==== Sys2Proof/Decode.lean ====
section
/-! DEFINITION. The command a word spells by the bits of spec/opcode_table.json. No row of that table gives bits (every
`fields` list is empty), so no word spells a command. The decoding of a core's 64-bit instruction words (R134 to R211)
is Machine/Operands.lean's. -/

namespace Sys2Proof

/-- The command spelled by `nbits` bits of value `w` under the table's numbering: none, since no row gives bits. -/
def decodeTableWord (nbits w : Nat) : Option Instr :=
  match nbits, w with
  | _, _ => none

end Sys2Proof
end

