-- ==== Sys2Proof/Machine/Numeric.lean ====
section
/-! DEFINITION. Number formats and their arithmetic (R104 to R133, R161 to R167): exact values, one rounding at the end. -/

namespace Sys2Proof.Machine

/-! ### Exact values -/

/-- An exact extended value: a NaN, an infinity, or (−1)^neg × m × 2^e with m of any size. -/
inductive Fp where
  | nan
  | inf (neg : Bool)
  | fin (neg : Bool) (m : Nat) (e : Int)
  deriving DecidableEq, Repr

/-- An exact integer as a value; 0 is +0. -/
def Fp.ofInt (i : Int) : Fp := .fin (i < 0) i.natAbs 0

/-- An exact power of two. -/
def Fp.pow2 (e : Int) : Fp := .fin false 1 e

/-- The exact value of |x|. -/
def Fp.abs : Fp → Fp
  | .nan => .nan
  | .inf _ => .inf false
  | .fin _ m e => .fin false m e

/-- The exact value with its sign turned. -/
def Fp.neg : Fp → Fp
  | .nan => .nan
  | .inf n => .inf (!n)
  | .fin n m e => .fin (!n) m e

/-- The exact product (IEEE 754 for infinities and NaN). -/
def Fp.mul : Fp → Fp → Fp
  | .nan, _ => .nan
  | _, .nan => .nan
  | .inf a, .inf b => .inf (a != b)
  | .inf a, .fin b m _ => if m = 0 then .nan else .inf (a != b)
  | .fin a m _, .inf b => if m = 0 then .nan else .inf (a != b)
  | .fin a m e, .fin b n f => .fin (a != b) (m * n) (e + f)

/-- The signed significand of a finite value at exponent `f`, at or below its own. -/
def signedAt (neg : Bool) (m : Nat) (e f : Int) : Int :=
  let k : Int := (m : Int) * 2 ^ (e - f).toNat
  if neg then -k else k

/-- The exact sum; an exact zero is +0 unless both operands are −0 (round to nearest). -/
def Fp.add : Fp → Fp → Fp
  | .nan, _ => .nan
  | _, .nan => .nan
  | .inf a, .inf b => if a = b then .inf a else .nan
  | .inf a, .fin .. => .inf a
  | .fin .., .inf b => .inf b
  | .fin a m e, .fin b n f =>
    let g := min e f
    let s := signedAt a m e g + signedAt b n f g
    if s = 0 then .fin (a && b) 0 g else .fin (s < 0) s.natAbs g

/-- Comparison of two finite or infinite values as integers at a common exponent: negative, zero or positive. -/
def Fp.cmp : Fp → Fp → Int
  | .inf a, .inf b => if a = b then 0 else if a then -1 else 1
  | .inf a, _ => if a then -1 else 1
  | _, .inf b => if b then 1 else -1
  | .fin a m e, .fin b n f =>
    let g := min e f
    signedAt a m e g - signedAt b n f g
  | _, _ => 0

/-- Is the value a NaN? -/
def Fp.isNan : Fp → Bool
  | .nan => true
  | _ => false

/-- Is the value finite? -/
def Fp.isFin : Fp → Bool
  | .fin .. => true
  | _ => false

/-! ### Formats and rounding -/

/-- A binary format: significand bits, exponent of the smallest subnormal, largest exponent, width of the fraction. -/
structure Fmt where
  prec : Nat
  low : Int
  top : Int
  deriving DecidableEq, Repr

def fmtF32 : Fmt := ⟨24, -149, 127⟩
def fmtBF16 : Fmt := ⟨8, -133, 127⟩
def fmtE4M3 : Fmt := ⟨4, -9, 8⟩
def fmtE5M2 : Fmt := ⟨3, -16, 15⟩

/-- m × 2^e shifted to unit 2^u, to nearest with ties to even. -/
def rneShift (m : Nat) (e u : Int) : Nat :=
  if u ≤ e then m * 2 ^ (e - u).toNat
  else
    let d := (u - e).toNat
    let q := m / 2 ^ d
    let r := 2 * (m % 2 ^ d)
    if r > 2 ^ d ∨ (r = 2 ^ d ∧ q % 2 = 1) then q + 1 else q

/-- The unit of the last place of m × 2^e in the format, never below the smallest subnormal. -/
def ulpOf (f : Fmt) (m : Nat) (e : Int) : Int := max (e + (Nat.log2 m + 1 : Nat) - f.prec) f.low

/-- A finite value rounded once to the format (subnormals kept); an overflow gives an infinity (R110, R161). -/
def roundTo (f : Fmt) (neg : Bool) (m : Nat) (e : Int) : Fp :=
  if m = 0 then .fin neg 0 f.low
  else
    let u := ulpOf f m e
    let q := rneShift m e u
    if (Nat.log2 q : Int) + u > f.top ∧ q ≠ 0 then .inf neg else .fin neg q u

/-- Exponent field and fraction of a finite value that the format holds exactly (as `roundTo` gives it). -/
def fieldsOf (f : Fmt) (m : Nat) (e : Int) : Nat × Nat :=
  if m = 0 then (0, 0)
  else
    let u := ulpOf f m e
    let q := rneShift m e u
    if q < 2 ^ (f.prec - 1) then (0, q)
    else
      let q' := if q < 2 ^ f.prec then q else q / 2
      let u' := if q < 2 ^ f.prec then u else u + 1
      ((u' - f.low).toNat + 1, q' - 2 ^ (f.prec - 1))

/-- The value a sign, exponent field and fraction of the format stand for, when the field is not all ones. -/
def valueOf (f : Fmt) (neg : Bool) (ex fr : Nat) : Fp :=
  if ex = 0 then .fin neg fr f.low else .fin neg (fr + 2 ^ (f.prec - 1)) (f.low + ex - 1)

/-- The canonical NaN of FP32 (R161). -/
def nan32 : Word := 0x7FC00000#32
/-- The canonical NaN of BF16 (R110, R161). -/
def nan16 : BitVec 16 := 0x7FC0#16

/-- The value of a binary32 pattern (R108). -/
def ofF32 (w : Word) : Fp :=
  let ex := (w.extractLsb' 23 8).toNat
  let fr := (w.extractLsb' 0 23).toNat
  let neg := w.getLsbD 31
  if ex = 255 then (if fr = 0 then .inf neg else .nan) else valueOf fmtF32 neg ex fr

/-- An exact value rounded once to binary32, to nearest with ties to even (R161); a NaN is canonical. -/
def toF32 (x : Fp) : Word :=
  let pack (neg : Bool) (ex fr : Nat) : Word := BitVec.ofNat 32 ((if neg then 2 ^ 31 else 0) + ex * 2 ^ 23 + fr)
  match x with
  | .nan => nan32
  | .inf n => pack n 255 0
  | .fin n m e =>
    match roundTo fmtF32 n m e with
    | .fin n' m' e' => let q := fieldsOf fmtF32 m' e'; pack n' q.1 q.2
    | .inf n' => pack n' 255 0
    | .nan => nan32

/-- The value of a BF16 pattern (R108). -/
def ofBF16 (h : BitVec 16) : Fp := ofF32 (h ++ (0#16 : BitVec 16))

/-- An exact value rounded once to BF16 (R110). -/
def toBF16 (x : Fp) : BitVec 16 :=
  let pack (neg : Bool) (ex fr : Nat) : BitVec 16 := BitVec.ofNat 16 ((if neg then 2 ^ 15 else 0) + ex * 2 ^ 7 + fr)
  match x with
  | .nan => nan16
  | .inf n => pack n 255 0
  | .fin n m e =>
    match roundTo fmtBF16 n m e with
    | .fin n' m' e' => let q := fieldsOf fmtBF16 m' e'; pack n' q.1 q.2
    | .inf n' => pack n' 255 0
    | .nan => nan16

/-- The value of an E4M3 code (R109). -/
def ofE4M3 (b : Byte) : Fp :=
  let ex := (b.extractLsb' 3 4).toNat
  let fr := (b.extractLsb' 0 3).toNat
  if ex = 15 ∧ fr = 7 then .nan else valueOf fmtE4M3 (b.getLsbD 7) ex fr

/-- The value of an E5M2 code (R109). -/
def ofE5M2 (b : Byte) : Fp :=
  let ex := (b.extractLsb' 2 5).toNat
  let fr := (b.extractLsb' 0 2).toNat
  if ex = 31 then (if fr = 0 then .inf (b.getLsbD 7) else .nan) else valueOf fmtE5M2 (b.getLsbD 7) ex fr

/-! ### Integers -/

/-- round_half_even of a finite value to an integer. -/
def rheInt (neg : Bool) (m : Nat) (e : Int) : Int :=
  let q : Int := rneShift m e 0
  if neg then -q else q

/-- The signed value of a word's low `n` bits. -/
def sext (n : Nat) (w : Word) : Int := (w.truncate n).toInt

/-- An integer clamped to `n`-bit two's complement. -/
def satInt (n : Nat) (i : Int) : Int := max (-(2 : Int) ^ (n - 1)) (min i (2 ^ (n - 1) - 1))

/-- An integer wrapped to 32 bits. -/
def wordOf (i : Int) : Word := BitVec.ofInt 32 i

/-! ### Arithmetic on binary32 patterns, each rounding once (R161) -/

def addF32 (a b : Word) : Word := toF32 ((ofF32 a).add (ofF32 b))
def subF32 (a b : Word) : Word := toF32 ((ofF32 a).add (ofF32 b).neg)
def mulF32 (a b : Word) : Word := toF32 ((ofF32 a).mul (ofF32 b))

/-- The quotient of two exact values, kept to `k` extra bits with a sticky bit below them, so that one later rounding to
at most k − 2 bits is the rounding of the exact quotient. -/
def Fp.divSticky (k : Nat) : Fp → Fp → Fp
  | .nan, _ => .nan
  | _, .nan => .nan
  | .inf _, .inf _ => .nan
  | .inf a, .fin b _ _ => .inf (a != b)
  | .fin a _ _, .inf b => .fin (a != b) 0 0
  | .fin a m e, .fin b n f =>
    if n = 0 then (if m = 0 then .nan else .inf (a != b))
    else if m = 0 then .fin (a != b) 0 0
    else
      let sh := k + Nat.log2 n + 1
      let p := m * 2 ^ sh
      .fin (a != b) (2 * (p / n) + (if p % n = 0 then 0 else 1)) (e - f - sh - 1)

def divF32 (a b : Word) : Word := toF32 ((ofF32 a).divSticky 40 (ofF32 b))

/-- Bits of precision of the fixed-point series below. -/
def seriesBits : Nat := 400

/-- 2 × atanh(num ÷ den) in units of 2^−seriesBits, by its power series over `fuel` terms. -/
def atanh2 (num den : Nat) : Nat :=
  let z := num * 2 ^ seriesBits / den
  let z2 := z * z / 2 ^ seriesBits
  2 * ((List.range 120).foldl (fun (acc : Nat × Nat) k => (acc.1 + acc.2 / (2 * k + 1), acc.2 * z2 / 2 ^ seriesBits))
    (0, z)).1

/-- ln 2 in units of 2^−seriesBits. -/
def ln2Fix : Nat := atanh2 1 3

/-- e^t for t in units of 2^−seriesBits. -/
def expFix (t : Nat) : Nat :=
  ((List.range 120).foldl (fun (acc : Nat × Nat) k => (acc.1 + acc.2, acc.2 * t / 2 ^ seriesBits / (k + 1)))
    (0, 2 ^ seriesBits)).1

/-- arctan(1 ÷ d) in units of 2^−seriesBits. -/
def atanInv (d : Nat) : Int :=
  ((List.range 300).foldl
    (fun (acc : Int × Nat) (k : Nat) =>
      let term : Int := Int.ofNat (acc.2 / (2 * k + 1))
      (acc.1 + (if k % 2 = 0 then term else -term), acc.2 / (d * d)))
    (0, 2 ^ seriesBits / d)).1

/-- π in units of 2^−seriesBits, by Machin's formula. -/
def piFix : Nat := (16 * atanInv 5 - 4 * atanInv 239).toNat

/-- 2^x rounded to binary32 (R167). -/
def exp2F32 (a : Word) : Word :=
  match ofF32 a with
  | .nan => nan32
  | .inf n => if n then 0#32 else toF32 (.inf false)
  | .fin n m e =>
    let g := min e 0
    let s := signedAt n m e g
    let one : Int := 2 ^ (-g).toNat
    let whole := s / one
    let frac := (s % one).toNat
    if whole ≥ 128 then toF32 (.inf false)
    else if whole < -151 then 0#32
    else if frac = 0 then toF32 (Fp.pow2 whole)
    else
      let f := frac * 2 ^ seriesBits / one.toNat
      let r := expFix (f * ln2Fix / 2 ^ seriesBits)
      toF32 (.fin false (2 * r + 1) (whole - seriesBits - 1))

/-- 1 ÷ x rounded to binary32 (R167). -/
def rcpF32 (a : Word) : Word := toF32 ((Fp.ofInt 1).divSticky 40 (ofF32 a))

/-- 1 ÷ √x rounded to binary32 (R167). -/
def rsqF32 (a : Word) : Word :=
  match ofF32 a with
  | .nan => nan32
  | .inf n => if n then nan32 else 0#32
  | .fin n m e =>
    if m = 0 then toF32 (.inf n)
    else if n then nan32
    else
      -- x = m·2^e with e made even; 1/√x = √(2^(2k) / m) · 2^(−k − e/2)
      let odd := e % 2 ≠ 0
      let m' := if odd then 2 * m else m
      let e' := if odd then e - 1 else e
      let k := 60 + Nat.log2 m'
      let q := 2 ^ (2 * k) / m'
      let r := Nat.sqrt q
      let exact := r * r * m' = 2 ^ (2 * k)
      toF32 (.fin false (2 * r + (if exact then 0 else 1)) (-(k : Int) - e' / 2 - 1))

/-- log₂ x rounded to binary32 (R167). -/
def log2F32 (a : Word) : Word :=
  match ofF32 a with
  | .nan => nan32
  | .inf n => if n then nan32 else toF32 (.inf false)
  | .fin n m e =>
    if m = 0 then toF32 (.inf true)
    else if n then nan32
    else
      let b := Nat.log2 m
      -- y = m / 2^b in [1, 2), moved to [√½, √2) so that no leading bits cancel
      let big := 2 * m * m > 4 ^ b * 4
      let d := if big then 2 ^ (b + 1) else 2 ^ b
      let ex : Int := e + (if big then b + 1 else b : Nat)
      if m = d then toF32 (Fp.ofInt ex)
      else
        let up := m > d
        let diff := if up then m - d else d - m
        let l : Int := atanh2 diff (m + d) * 2 ^ seriesBits / ln2Fix
        let v : Int := ex * 2 ^ seriesBits + (if up then l else -l)
        toF32 (.fin (v < 0) (2 * v.natAbs + 1) (-(seriesBits : Int) - 1))

/-- (cos, sin) of an angle of 2π × num ÷ 2^k turns with 0 < num ÷ 2^k ≤ 1/8, in units of 2^−seriesBits. -/
def cosSinFix (num k : Nat) : Nat × Nat :=
  let x := 2 * num * piFix / 2 ^ k
  let x2 := x * x / 2 ^ seriesBits
  let go (t0 : Nat) (first : Nat) : Int :=
    (List.range 60).foldl
      (fun (acc : Int × Nat) j =>
        (acc.1 + (if j % 2 = 0 then (acc.2 : Int) else -(acc.2 : Int)),
          acc.2 * x2 / 2 ^ seriesBits / ((2 * j + first) * (2 * j + first + 1))))
      (0, t0) |>.1
  ((go (2 ^ seriesBits) 1).toNat, (go x 2).toNat)

/-- The exact fractional part of n × f as (numerator, k) of numerator ÷ 2^k, for a finite f (R271). -/
def turns (n : Nat) (f : Word) : Nat × Nat :=
  match ofF32 f with
  | .fin neg m e =>
    if e ≥ 0 then (0, 0)
    else
      let k := (-e).toNat
      let s : Int := if neg then -((n * m : Nat) : Int) else (n * m : Nat)
      ((s % 2 ^ k).toNat, k)
  | _ => (0, 0)

/-- The binary32 values nearest to the cosine and sine of 2π × num ÷ 2^k turns (R271). -/
def cosSinF32 (num k : Nat) : Word × Word :=
  let quad := 4 * num / 2 ^ k
  let r := 4 * num % 2 ^ k          -- quarter turns left over, in units of 2^−k quarters
  let k' := k + 2
  let swap := 2 * r > 2 ^ k
  let r' := if swap then 2 ^ k - r else r
  let cs : Fp × Fp :=
    if r' = 0 then (Fp.ofInt 1, Fp.ofInt 0)
    else
      let p := cosSinFix r' k'
      (.fin false (2 * p.1 + 1) (-(seriesBits : Int) - 1), .fin false (2 * p.2 + 1) (-(seriesBits : Int) - 1))
  let c0 := if swap then cs.2 else cs.1
  let s0 := if swap then cs.1 else cs.2
  let posz (x : Fp) : Fp := match x with
    | .fin _ 0 e => .fin false 0 e
    | y => y
  match quad % 4 with
  | 0 => (toF32 (posz c0), toF32 (posz s0))
  | 1 => (toF32 (posz s0.neg), toF32 (posz c0))
  | 2 => (toF32 (posz c0.neg), toF32 (posz s0.neg))
  | _ => (toF32 (posz s0), toF32 (posz c0.neg))

/-! ### Order, maxima, minima (R163) -/

/-- Larger of two binary32 values: +0 above −0, a NaN operand ignored (R163). -/
def maxF32 (a b : Word) : Word :=
  match ofF32 a, ofF32 b with
  | .nan, .nan => nan32
  | .nan, _ => b
  | _, .nan => a
  | x, y =>
    let c := x.cmp y
    if c > 0 then a else if c < 0 then b else if a.getLsbD 31 then b else a

/-- Smaller of two binary32 values: −0 below +0, a NaN operand ignored (R163). -/
def minF32 (a b : Word) : Word :=
  match ofF32 a, ofF32 b with
  | .nan, .nan => nan32
  | .nan, _ => b
  | _, .nan => a
  | x, y =>
    let c := x.cmp y
    if c < 0 then a else if c > 0 then b else if a.getLsbD 31 then a else b

/-- Is the pattern a NaN? -/
def isNan32 (a : Word) : Bool := (ofF32 a).isNan

/-- a < b, false with a NaN. -/
def ltF32 (a b : Word) : Bool := !isNan32 a && !isNan32 b && decide ((ofF32 a).cmp (ofF32 b) < 0)
/-- a ≤ b, false with a NaN. -/
def leF32 (a b : Word) : Bool := !isNan32 a && !isNan32 b && decide ((ofF32 a).cmp (ofF32 b) ≤ 0)
/-- a = b as values (+0 equals −0), false with a NaN. -/
def eqF32 (a b : Word) : Bool := !isNan32 a && !isNan32 b && decide ((ofF32 a).cmp (ofF32 b) = 0)

/-- BF16 widened to FP32 (R108). -/
def widenBF16 (h : BitVec 16) : Word := h ++ (0#16 : BitVec 16)
/-- FP32 rounded to BF16 (R110). -/
def narrowBF16 (w : Word) : BitVec 16 := toBF16 (ofF32 w)

/-! ### Scales and quantisation (R111 to R116) -/

/-- The least multiple of 2^u at or above (m × 2^e) ÷ d, in units of 2^u. -/
def ceilQuot (m : Nat) (e : Int) (d : Nat) (u : Int) : Nat :=
  if u ≤ e then (m * 2 ^ (e - u).toNat + d - 1) / d
  else
    let k := 2 ^ (u - e).toNat * d
    (m + k - 1) / k

/-- floor(log₂(m × 2^e ÷ d)) for m > 0. -/
def log2Quot (m : Nat) (e : Int) (d : Nat) : Int :=
  let g : Int := e + (Nat.log2 m : Int) - Nat.log2 d
  -- m·2^e/d lies in (2^(g−1), 2^(g+1))
  let ge : Bool := if g ≤ e then decide (m * 2 ^ (e - g).toNat ≥ d) else decide (m ≥ d * 2 ^ (g - e).toNat)
  if ge then g else g - 1

/-- The dynamic A8 scale of a block whose largest finite magnitude is m × 2^e: the smallest BF16 value no less than
amax ÷ 127, and no less than 2^−126 when amax > 0; 0 for amax 0 (R115). -/
def a8Scale (m : Nat) (e : Int) : BitVec 16 :=
  if m = 0 then 0#16
  else
    let g := log2Quot m e 127
    if g < -126 then toBF16 (Fp.pow2 (-126))
    else toBF16 (.fin false (ceilQuot m e 127 (g - 7)) (g - 7))

/-- The dynamic KV scale: the smallest E4M3 value no less than amax ÷ Q, or 448 (R115). -/
def kvScale (m : Nat) (e : Int) (q : Nat) : Byte :=
  if m = 0 then 0#8
  else
    let g := log2Quot m e q
    let u := max (g - 3) (-9)
    let c := ceilQuot m e q u
    -- 448 = 7 × 2^6
    if Fp.cmp (.fin false c u) (.fin false 448 0) > 0 then 0x7E#8
    else
      let p := fieldsOf fmtE4M3 c u
      BitVec.ofNat 8 (p.1 * 8 + p.2)

/-- The largest magnitude among the finite elements of a block, as (m, e); (0, 0) if it has none (R115). -/
def amaxOf (xs : List Word) : Nat × Int :=
  xs.foldl
    (fun acc x =>
      match ofF32 x with
      | .fin _ m e => if Fp.cmp (.fin false m e) (.fin false acc.1 acc.2) > 0 then (m, e) else acc
      | _ => acc)
    (0, 0)

/-- One element under scale s with limit Q: its code, whether it saturated, and whether it did so only because it is
not finite (R114, R117). -/
def quantOne (s : Fp) (q : Nat) (x : Word) : Int × Bool × Bool :=
  match ofF32 x with
  | .nan => (0, true, true)
  | fx =>
    let isZero : Bool := match fx with
      | .fin _ 0 _ => true
      | _ => false
    let sZero : Bool := match s with
      | .fin _ 0 _ => true
      | _ => false
    if isZero || sZero then (0, false, false)
    else
      let r := toF32 ((Fp.ofInt 1).divSticky 40 s)
      let u := mulF32 x r
      match ofF32 u with
      | .fin n m e =>
        let k := rheInt n m e
        if k.natAbs > q then (if n then -(q : Int) else q, true, !fx.isFin) else (k, false, false)
      | .inf n => (if n then -(q : Int) else q, true, !fx.isFin)
      | .nan => (0, true, true)

/-- A block quantised under scale s (R114): codes, saturation count, and the count that goes toward the threshold
(R117). -/
def quantBlock (s : Fp) (q : Nat) (xs : List Word) : List Int × Nat × Nat :=
  let rs := xs.map (quantOne s q)
  (rs.map (·.1), rs.countP (·.2.1), rs.countP (fun r => r.2.1 && !r.2.2))

/-! ### mix, rotation signs (R129 to R132) -/

/-- The mix function of R132. -/
def mix (x : Word) : Word :=
  let x := x ^^^ (x >>> 16)
  let x := x * 0x7FEB352D#32
  let x := x ^^^ (x >>> 15)
  let x := x * 0x846CA68B#32
  x ^^^ (x >>> 16)

/-- Word m of the sign vector of block b under a seed (R132). -/
def signWord (seed : Word) (b m : Nat) : Word :=
  mix (seed + 0x9E3779B9#32 * BitVec.ofNat 32 (8 * b + m + 1))

/-- Is element k of block b negated? (R132) -/
def signNeg (seed : Word) (b k : Nat) : Bool := (signWord seed b (k / 32)).getLsbD (k % 32)

/-- An FP32 pattern with its sign turned; a NaN stays a NaN to be made canonical by the next rounding. -/
def flipSign (w : Word) : Word := w ^^^ 0x80000000#32

/-- Apply the sign vector exactly (R129). -/
def applySigns (seed : Word) (b : Nat) (xs : List Word) : List Word :=
  xs.zipIdx.map fun (x, k) => if signNeg seed b k then flipSign x else x

/-- One butterfly stage of R129 at distance 2^s. -/
def butterfly (s : Nat) (xs : List Word) : List Word :=
  xs.zipIdx.map fun (x, k) =>
    if k / 2 ^ s % 2 = 0 then addF32 x (xs.getD (k + 2 ^ s) 0#32) else subF32 (xs.getD (k - 2 ^ s) 0#32) x

/-- The constant c_n of R130 for a block of 64·2^bs elements. -/
def rotConst (bs : Nat) : Word :=
  if bs = 0 then 0x3E000000#32 else if bs = 1 then 0x3DB504F3#32 else 0x3D800000#32

/-- Every NaN result is written canonical (R129). -/
def canon (w : Word) : Word := if isNan32 w then nan32 else w

/-- Butterflies and scaling of a block of 64·2^bs elements (R129). -/
def hadamard (bs : Nat) (xs : List Word) : List Word :=
  ((List.range (6 + bs)).foldl (fun ys s => butterfly s ys) xs).map (mulF32 · (rotConst bs))

/-- The rotation of a block, forward or inverse (R129, R131). -/
def rotateBlock (inv : Bool) (seed : Word) (b bs : Nat) (xs : List Word) : List Word :=
  if inv then (applySigns seed b (hadamard bs xs)).map canon
  else hadamard bs (applySigns seed b xs)

/-! ### Rotary codes (R271) -/

/-- Rotate one pair by the angle of position n and frequency f, or by its negation. -/
def ropePair (inv : Bool) (n : Nat) (f xa xb : Word) : Word × Word :=
  let t := turns n f
  let cs := cosSinF32 t.1 t.2
  let c := ofF32 cs.1
  let s := if inv then (ofF32 cs.2).neg else ofF32 cs.2
  let a := ofF32 xa
  let b := ofF32 xb
  (toF32 ((a.mul c).add (b.mul s).neg), toF32 ((a.mul s).add (b.mul c)))

/-- rope(x, n) of R271 for a head of `hd` elements with frequencies `fs`; `lay` false pairs neighbours. -/
def rope (inv lay : Bool) (hd n : Nat) (fs xs : List Word) : List Word :=
  (List.range hd).map fun j =>
    let i := if lay then j % (hd / 2) else j / 2
    let ia := if lay then i else 2 * i
    let ib := if lay then i + hd / 2 else 2 * i + 1
    let p := ropePair inv n (fs.getD i 0#32) (xs.getD ia 0#32) (xs.getD ib 0#32)
    if j = ia then p.1 else p.2

/-! ### The vector reduction tree (R165) -/

/-- Sum of 64 lanes in the fixed tree of R165, with the given addition. -/
def treeSum {α : Type} (add : α → α → α) (zero : α) (xs : List α) : α :=
  let lvl (ys : List α) (s : Nat) : List α :=
    ys.zipIdx.map fun (y, k) => if k % 2 ^ (s + 1) = 0 then add y (ys.getD (k + 2 ^ s) zero) else y
  ((List.range 6).foldl lvl xs).headD zero

end Sys2Proof.Machine
end

