-- ==== Sys2Proof/Config.lean ====
section
/-! DEFINITION. What an implementation fixes and the values the manual leaves open. An `opaque` constant has no body:
nothing can be proved of its value. -/

namespace Sys2Proof

namespace Config

/-- A fresh 32-bit value for a result the manual leaves undefined or silent (notes/assumptions/2). -/
opaque freeWord : Nat → Word

/-- The cohort row a quantised block belongs to, by the free counter: R120 and R171 mark that row, no rule says how the
engine knows it (notes/assumptions/13). -/
opaque clippedRow : Nat → Nat

/-- The trigger number OBSERVATION_START carries for a core that enters observation by PERSISTENT_LOSS: R470 gives the
trigger, the list of R483 does not number it (notes/assumptions/12). -/
opaque persistentLossTrigger : BitVec 3

/-- How many vector-unit and rotation-unit operations a fused command makes, by the free counter: R471 numbers them, no
rule gives their number (notes/assumptions/29). -/
opaque fusedOps : Nat → Nat

/-- The instruction words of a CORE_KIND section, none where it is malformed: R241 gives no layout
(notes/assumptions/38). -/
opaque coreKindWords : List Byte → Option (List DWord)

/-- The preset entries of a CORE_KIND section (R208; notes/assumptions/38). -/
opaque coreKindPresets : List Byte → List DWord

/-- The trees of a TREES section, none where it is malformed: per tree its numbers, sources, members and partner trees
as flat lists (notes/assumptions/38). -/
opaque treeRecords : List Byte → Option (List (List Nat × List Nat × List Nat × List Nat))

/-- The destination entries of a TREES section as flat lists (notes/assumptions/38). -/
opaque destRecords : List Byte → List (List Nat)

/-- The guard groups the loader forms from a canopy's frames, each frame as (panel, column, row, frame), the parity frame
first: R273 leaves the choice to it (notes/assumptions/39). -/
opaque guardGroups : List (Nat × Nat × Nat × Nat) → List (List (Nat × Nat × Nat × Nat))

/-- Is CXL.cache negotiated, and is the link ×16, when the host link trains, by the free counter: the host decides
(R319, R334; notes/assumptions/44). -/
opaque cacheNegotiated : Nat → Bool
opaque linkWide : Nat → Bool

/-- The VLOG setpoint, in steps of 2.5 mV, that the margin monitors call for at a panel's clock in units of 25 MHz: R407
gives the margin, silicon the value (notes/assumptions/46). -/
opaque vlogFor : Nat → Nat → Nat

/-- The clock cap, in units of 25 MHz, that holds a panel with this many failed VLOG cells to 4.0 A per working cell: R416
gives the current, silicon the clock (notes/assumptions/46). -/
opaque regCap : Nat → Nat → Nat

/-- The time in µs the calibration of a pitching takes, by the free counter (R449, R517; notes/assumptions/46). -/
opaque pitchCalUs : Nat → Nat

/-- The firmware image flash holds at first; does an image carry the product root's key, a signature that verifies and
its code's digest; and its security version: R500 gives no layout (notes/assumptions/49). -/
opaque factoryImage : List Byte
opaque imageSigned : List Byte → Bool
opaque imageVersion : List Byte → Nat

/-- Does the PUF unwrap the identity seed when the controller starts (R503)? Signatures of the identity key by key, index
and message, and a key's public half (R503, R505); by the free counter the start and the new key
(notes/assumptions/50). -/
opaque pufUnwraps : Nat → Bool
opaque lmsSign : Nat → Nat → List Byte → List Byte
opaque lmsPublic : Nat → BitVec 448

/-- The digest of a repair map, whose layout in flash no rule gives (R498, R506; notes/assumptions/50). -/
opaque mapDigest : List (Nat × Nat × Nat) → BitVec 256

/-- Nonces and session identifiers the controller draws, and the key of a session it opens to a collector, by the free
counter (R509, R513; notes/assumptions/51). -/
opaque nonce : Nat → BitVec 256
opaque sessionId : Nat → DWord
opaque pushKey : Nat → BitVec 256

/-- Bits of a scan chain, by the time the clocks stopped, the location, the chain and the bit (R521;
notes/assumptions/52). -/
opaque scanBit : Nat → DWord → Nat → Nat → Bool

end Config

end Sys2Proof
end

