-- ==== Sys2Proof/Machine/State.lean ====
section
/-! DEFINITION. The state of the engine as plain data: every register, store, queue, table, counter, mode and pin the
manual gives it, and the queue of commands that wait. The default of each field is its value at reset. -/

namespace Sys2Proof.Machine

/-! ### Stores -/

/-- A byte store: pairs (address, byte), addresses strictly rising, no byte 0 listed; an unlisted byte reads 0, which is
what pitching leaves in every store (R517). -/
abbrev Mem := List Host.Cell

/-! ### Event records (R475 to R479) -/

/-- Event classes in rising order (R475, R477). -/
inductive Cls where
  | note | corrected | replayed | degraded | contained | fatal
  deriving DecidableEq, Repr

/-- One event record (R475, R478). -/
structure Event where
  seq : Nat
  cls : Cls
  nested : Bool
  kind : Nat
  code : Nat
  func : Option Nat
  time : Nat
  loc : Nat
  tick : Option Nat
  iidx : Option Nat
  count : Nat
  arg0 : Nat
  arg1 : Nat
  arg2 : Nat
  deriving DecidableEq, Repr

/-! ### One core (R71 to R103, R139) -/

/-- A vector register: 64 lanes of 32 bits (R95). -/
abbrev VReg := Vector Word 64

/-- The operations a core's front end decodes, one per YCI-3 mnemonic (R144 to R209). -/
inductive CoreOp where
  | aload | astrm | astrc | adrain
  | vadd | vsub | vmul | vfma | vmax | vmin | vuna | vcmp | vsel | vbcst | vred | vcvt
  | vexp2 | vrcp | vrsq | vlog2 | vld | vst | vqnt | vdeq | vsplt | vrot | vrope
  | xmov | xtw | xfill | fsend | frecv | fred | fmrg | attend | gate | sampleFeed
  | seti | sop | loop | tok | tparm | barr | step | dtag | dtrace | dbrk
  deriving DecidableEq, Repr

/-- An instruction on its way through a core: its operation, bits [55:0], its index, and the s and a registers as the
front end read them at dispatch (R140). -/
structure QEntry where
  op : CoreOp
  word : BitVec 56
  idx : Nat
  /-- its place in dispatch order (R99) -/
  ord : Nat
  s : Vector Word 32
  a : Vector Word 16
  deriving DecidableEq, Repr

/-- The modes of a tile, in the order of ALOAD's MODE (R85, R144). -/
inductive TileMode where
  | t158 | w2 | w4 | w8 | e4m3 | e5m2 | bf16hi | bf16lo
  deriving DecidableEq, Repr

/-- A tile held in the array: its mode and source, the 512 bytes of slices the cells hold (R82), the column exponents
the conversion recorded (R156, R157), and the checksums placed at load (R92). -/
structure Tile where
  mode : TileMode
  addr : Nat
  data : List Byte
  colExp : List Int
  chkCol : List Int
  chkRow : List Int
  corner : Int
  deriving DecidableEq, Repr

/-- A tile in flight (R88, R143): its ALOAD, its source address and mode, and the loaded tile
once all its words have arrived. -/
structure Flight where
  entry : QEntry
  addr : Nat
  mode : TileMode
  tile : Option Tile
  deriving DecidableEq, Repr

/-- A running loop: first and last instruction of the body and the iterations still to begin (R203). -/
structure LoopFrame where
  first : Nat
  last : Nat
  left : Nat
  deriving DecidableEq, Repr

/-- A posted receive (R186): KIND, CHAN, and what FRECV named. -/
structure Posted where
  kind : Nat
  chan : Nat
  sdst : Nat
  dst : Nat
  tag : Nat
  asc : Nat
  nf : Nat
  entry : QEntry
  /-- its ordinal among the receives of the step (R462) -/
  nth : Nat
  /-- once its message has been copied: the error it met, as event code and ARG1, or none (R462) -/
  got : Option (Option (Nat × Nat))
  deriving DecidableEq, Repr

/-- A message in a landing buffer (R185): its KIND (0 unicast, 1 multicast), its channel or tree, its flits in arrival
order, whether the LAST flit has arrived, and whether it has been checked. -/
structure Landing where
  kind : Nat
  chan : Nat
  flits : List Flit
  done : Bool
  deriving DecidableEq, Repr

/-- Which queue owns a slot's tag (R210). -/
inductive QueueId where
  | array | vector | transfer | front
  deriving DecidableEq, Repr

/-- The state of a tracked slot (R210). -/
inductive TagState where
  | empty
  | filling (owner : QueueId)
  | full
  deriving DecidableEq, Repr

/-- A slot tag: its state, the number of readers it waits for, the releases so far and the queues marked as readers. -/
structure SlotTag where
  st : TagState
  readers : Nat
  releases : Nat
  marked : List QueueId
  deriving DecidableEq, Repr

/-- One entry of the DTRACE ring (R209, R512). -/
structure TraceEntry where
  idx : Nat
  value : Word
  time : Nat
  deriving DecidableEq, Repr

/-- One journal entry (R459): the sector's store code and byte address, its 32 bytes, and undo (false) or redo (true). -/
structure JEntry where
  store : Nat
  addr : Nat
  bytes : List Byte
  redo : Bool
  deriving DecidableEq, Repr

/-- What the receive memo keeps of one receive of a step (R462, R463): the error it met, as event code and ARG1, or
none, and what it wrote. -/
structure RecvMemo where
  error : Option (Nat × Nat)
  writes : List JEntry
  deriving DecidableEq, Repr

/-- A step checkpoint (R458). -/
structure Checkpoint where
  v : Vector VReg 32
  s : Vector Word 32
  a : Vector Word 16
  p : Vector DWord 8
  t : Vector Byte 16
  loops : List LoopFrame
  idx : Nat
  /-- the index of the STEP that took it, none for a checkpoint of a start or a release (R458, R461) -/
  stepIdx : Option Nat
  active : Option (Nat × TileMode)
  shadow : Option (Nat × TileMode)
  deriving DecidableEq, Repr

/-- One preset entry of a core kind (R208). -/
structure Preset where
  reg : Nat
  isA : Bool
  code : Nat
  mul : Int
  add : Nat
  deriving DecidableEq, Repr

/-- Where a core stands in the loaded package: stage, region (within the package), index in the region, cores of the
region, core kind, shard set (R208, R242, R243). -/
structure Assign where
  stage : Nat
  region : Nat
  index : Nat
  cores : Nat
  kind : Nat
  sset : Nat
  deriving DecidableEq, Repr

/-- An entry of the destination table: a site and its receive channel (R174). -/
structure DestEntry where
  entry : Nat
  site : Site
  chan : Nat
  deriving DecidableEq, Repr

/-- An entry of the tree-root table: the root's router, the contributors stored for R64, and whether the tree reduces
or merges (R174). -/
structure RootEntry where
  tree : Nat
  root : Site
  contributors : Nat
  merge : Bool
  deriving DecidableEq, Repr

/-- A binding of a core in a KV head group (R250, R251): local layer, head slot, group number. -/
structure Bind where
  lyr : Nat
  hslot : Nat
  group : Nat
  deriving DecidableEq, Repr

/-- A sampled operation sent to the buddy (R472): the operation with the s and a values it carried, the v and p operands
it read, the destination's old lanes, and the lanes or bits it wrote. -/
structure DupMsg where
  src : Site
  entry : QEntry
  operands : List VReg
  psel : DWord
  mask : DWord
  old : List VReg
  oldP : DWord
  results : List VReg
  resultP : DWord
  cohort : Nat
  deriving DecidableEq, Repr

/-- The tables and presets the loader writes into a core (R174, R208, R354, R563). -/
structure CoreTables where
  assign : Option Assign := none
  span : Nat := 0
  kvBase : Nat := 0
  kvBytes : Nat := 0
  wTop : Nat := 0
  dest : List DestEntry := []
  roots : List RootEntry := []
  mcSource : List Nat := []
  binds : List Bind := []
  presets : List Preset := []
  deriving DecidableEq, Repr

/-- What a core keeps for step replay (R458 to R464) and rescaling (R118 to R120). -/
structure ReplayState where
  ckpt : Option Checkpoint := none
  journal : List JEntry := []
  unreplayable : Bool := false
  lossMode : Bool := false
  ledger : List Nat := []
  sendPos : Nat := 0
  memo : List (Nat × RecvMemo) := []
  recvPos : Nat := 0
  replays : Nat := 0
  lastError : Option (Nat × Nat × Nat) := none
  rescaled : List Nat := []
  heldScales : List (Nat × Nat) := []
  lossRun : Option (Nat × Nat × Nat × Nat) := none
  deriving DecidableEq, Repr

/-- One core (R71, R139). -/
structure Core where
  v : Vector VReg 32 := Vector.replicate 32 (Vector.replicate 64 0#32)
  s : Vector Word 32 := Vector.replicate 32 0#32
  a : Vector Word 16 := Vector.replicate 16 0#32
  p : Vector DWord 8 := Vector.replicate 8 0#64
  t : Vector Byte 16 := Vector.replicate 16 0#8
  act : Mem := []
  wgt : Mem := []
  psum : Mem := []
  inst : Mem := []
  /-- 64-bit groups whose parity does not match, as (store code, byte address ÷ 8) (R73). -/
  badParity : List (Nat × Nat) := []
  active : Option Tile := none
  shadow : Option Tile := none
  inflight : Option Flight := none
  cols : Nat := 0
  stream : List QEntry := []
  aq : List QEntry := []
  vq : List QEntry := []
  tq : List QEntry := []
  stopped : List QueueId := []
  /-- signals that wait for their token's count to fall below 255, with the queue each holds (R100) -/
  heldSignals : List (QueueId × Nat) := []
  /-- stopped by a stall, a persistent loss or a darning (R229, R470, R488) -/
  halted : Bool := false
  dispatched : Nat := 0
  idx : Nat := 0
  loops : List LoopFrame := []
  issued : Nat := 0
  lastProbe : Option Nat := none
  atBarrier : Bool := false
  posted : List Posted := []
  landing : List Landing := []
  rootIn : List Flit := []
  tags : List (Nat × SlotTag) := []
  trace : List (Nat × TraceEntry) := []
  traceNext : Nat := 0
  guardTicks : List (Nat × Site × Nat) := []
  guardTouched : List Site := []
  dupOp : Nat := 0
  /-- reduction messages of this tick sent or received here, by tree (R473) -/
  redCount : List (Nat × Nat) := []
  dupIn : List DupMsg := []
  tab : CoreTables := {}
  rep : ReplayState := {}
  deriving DecidableEq, Repr

/-! ### Routers (R32 to R70) -/

/-- A reduction-table entry: expected-input mask over the six ports and the output port (R59). -/
structure RedEntry where
  tree : Nat
  mask : BitVec 6
  out : Port
  deriving DecidableEq, Repr

/-- A flit in a router's input buffer: port, virtual channel (class × 2 + detour), flit (R34, R35). -/
structure Held where
  port : Port
  vc : Nat
  flit : Flit
  deriving DecidableEq, Repr

/-- A router (R32, R46, R59). -/
structure Router where
  dead : Bool := false
  mcast : List (Nat × BitVec 6) := []
  red : List RedEntry := []
  inq : List Held := []
  broken : List Nat := []
  checkErrors : List (Port × Nat) := []
  deriving DecidableEq, Repr

/-- One hop of a unicast flit's fixed path (R40, R42 to R49): the next router, and whether it is reached on the detour
virtual channel. -/
structure Hop where
  site : Site
  detour : Bool
  deriving DecidableEq, Repr

/-- A flit on a link: the site whose router it is bound for, the port it arrives on, its virtual channel, and, for a
unicast flit, the hops that follow. -/
structure Wire where
  dst : Site
  port : Port
  vc : Nat
  flit : Flit
  path : List Hop
  deriving DecidableEq, Repr

/-! ### Panels: supply, clocks, rations (R30, R219, R403 to R416, R442 to R455) -/

/-- Domains VLOG, VMEM, VMIF, VLNK are numbered 0 to 3 as DOM numbers them (R436). -/
structure DomainState where
  on : Bool := false
  setpoint : Nat := 0
  failed : List Nat := []
  vmin : Option (Nat × Nat × Nat) := none
  vminSeq : Nat := 0
  rho : List (Nat × Nat) := []
  errSince : Option (Bool × Nat) := none
  bond : List Nat := []
  bondArmed : List Nat := []
  deriving DecidableEq, Repr

/-- The supply state PSTATE of a panel (R436). -/
inductive PState where
  | full | capped | dark | off
  deriving DecidableEq, Repr

/-- One panel. Frequencies are in units of 25 MHz, so 76 is 1,900 MHz (R410). -/
structure PanelState where
  dom : Vector DomainState 4 := Vector.replicate 4 {}
  retention : Bool := true
  pstate : PState := .off
  ready : Bool := false
  fenced : Bool := false
  clock : Nat := 76
  capGov : Nat := 76
  capReg : Nat := 76
  capTherm : Nat := 76
  /-- the cap of a sector over its limit (R428) -/
  capSect : Nat := 76
  /-- while a droop stretches the clock: the earliest time of its next rise (R409) -/
  riseAt : Option Nat := none
  droopTrips : Nat := 0
  heatOff : Bool := false
  ballast : Nat := 0
  /-- units of each of the eight activities granted this tick (R219) -/
  used : Vector Nat 8 := Vector.replicate 8 0
  causes : BitVec 8 := 0
  trimWaiting : List (Nat × Nat) := []
  /-- cells (domain, cell) isolated during a soft start, whose ladder step waits until the panel is ready -/
  softCells : List (Nat × Nat) := []
  quantReplays : Nat := 0
  overRation : Nat := 0
  /-- duplication checks dropped since the last DUP_DROPPED (R472) -/
  dupDropped : Nat := 0
  excluded : List Nat := []
  tripSince : List (Nat × Nat) := []
  overSince : List (Nat × Nat) := []
  temps : List (Nat × Int) := []
  /-- occurrences this tick of the four counted codes of R562: (code, time, location, kind, count, first argument) -/
  counted : List (Nat × Nat × Nat × Nat × Nat × Nat) := []
  journalFull : Bool := false
  scrubUsed : Nat := 0
  scrubDone : List (Nat × Site) := []
  wentDark : Bool := false
  deriving DecidableEq, Repr

/-! ### Packages (R240 to R243, R250, R308, R352) -/

structure StageRec where
  cmask : Nat
  freg : Nat
  worst : Nat
  lstep : Nat
  deriving DecidableEq, Repr

structure RegionRec where
  rcores : Nat
  kind : Nat
  stage : Nat
  sset : Nat
  deriving DecidableEq, Repr

structure Plan where
  cores : Nat
  stages : List StageRec
  regions : List RegionRec
  deriving DecidableEq, Repr

/-- A core kind: its instruction words and presets (R208, R241). -/
structure CoreKind where
  words : List DWord
  presets : List Preset
  deriving DecidableEq, Repr

/-- What a tree's members are named by: a region of the plan and an index in it. -/
structure LogicalCore where
  region : Nat
  index : Nat
  deriving DecidableEq, Repr

/-- The kinds of tree (R46, R59, R65). -/
inductive TreeKind where
  | multicast | reduce | merge
  deriving DecidableEq, Repr

/-- One logical tree of the TREES section (R46, R59, R64): number, sources (multicast) or contributors, the
root or receivers, the merge root's corner router when the root is an interior gateway, and the guy link feeding it. -/
structure TreeRec where
  kind : TreeKind
  tree : Nat
  sources : List LogicalCore
  members : List LogicalCore
  root : Option LogicalCore
  corner : Option (Nat × Nat × Nat)
  contributors : Nat
  guyIn : Option Nat
  guyOut : List (Nat × Nat)
  deriving DecidableEq, Repr

/-- A destination-table entry of the TREES section (R174): the core holding it, entry, destination and channel. -/
structure DestRec where
  kind : Nat
  entry : Nat
  target : LogicalCore
  relative : Bool
  chan : Nat
  deriving DecidableEq, Repr

structure TreesSection where
  trees : List TreeRec
  dests : List DestRec
  deriving DecidableEq, Repr

/-- One KV head group (R250). -/
structure KvGroup where
  region : Nat
  first : Nat
  d : Nat
  lyr : Nat
  hd : Nat
  late : Bool
  lay : Bool
  offset : Nat
  glayer : Nat
  ghead : Nat
  deriving DecidableEq, Repr

/-- The KV_PLAN section (R250). -/
structure KvPlan where
  kv4 : Bool
  minPages : Nat
  blkCap : Nat
  appCap : Nat
  ltSlot : Nat
  stride : Nat
  groups : List KvGroup
  deriving DecidableEq, Repr

/-- The SERVING section (R308). -/
structure Serving where
  scan : Nat
  ln : Nat
  trees : List Nat
  chunkMax : Nat
  chunkMin : Nat
  preMin : Nat
  draftMax : Nat
  match_ : Nat
  vocab : Nat
  goals : List Nat
  deriving DecidableEq, Repr

structure SetRec where
  nsh : Nat
  first : Nat
  span : Nat
  copy : Bool
  deriving DecidableEq, Repr

structure ShardRec where
  set : Nat
  layer : Nat
  index : Nat
  offset : Nat
  size : Nat
  packed : Nat
  dest : Nat
  digest : BitVec 256
  deriving DecidableEq, Repr

/-- A weight-image manifest (R352). -/
structure Manifest where
  bytes : List Byte
  imageBytes : Nat
  nlayer : Nat
  sets : List SetRec
  shards : List ShardRec
  deriving DecidableEq, Repr

/-- The loaded package: its header fields (R240), sections, the plan taken and the load request's own values. -/
structure Package where
  debugOk : Bool
  chained : Bool
  guard : Bool
  tMin : Nat
  tMax : Nat
  slack : Nat
  rows : Nat
  init : Nat
  body : Nat
  sat : Nat
  qrep : Nat
  drep : Nat
  image : BitVec 256
  digest : BitVec 256
  kinds : List CoreKind
  plans : List Plan
  trees : TreesSection
  kv : KvPlan
  rations : Option (List Nat)
  serving : Serving
  manifest : Manifest
  deriving DecidableEq, Repr

/-- A load in force: the package, the plan index taken, the plan, T, row budget, debug mode (R244 to R248), and whether
tick 0 has begun. -/
structure Loaded where
  pkg : Package
  planIdx : Nat
  plan : Plan
  t : Nat
  rows : Nat
  debug : Bool
  started : Bool
  func : Nat
  ringIdx : Nat
  utag : Nat
  deriving DecidableEq, Repr

/-! ### Ticks, holds, zips (R212 to R239) -/

/-- A barrier hold: its reason (R228) and when it was placed. -/
structure Hold where
  reason : Nat
  since : Nat
  deriving DecidableEq, Repr

/-- The tick in progress. -/
structure TickState where
  running : Bool := false
  n : Nat := 0
  start : Nat := 0
  stageDone : List (Nat × Nat × Nat) := []
  lastLift : Option (Nat × Nat) := none
  markers : List (Nat × Nat) := []
  early : List Nat := []
  heldSeen : List (Nat × Nat) := []
  /-- a hold of reason 6 that only an unload ends is in force (R394, R401) -/
  badMarker : Bool := false
  deadlineShift : Nat := 0
  probes : Nat := 0
  stalledStages : List Nat := []
  /-- the ration limits latched at the tick's start (R217) -/
  limits : Vector Nat 8 := Vector.replicate 8 0
  extTotal : Nat := 0
  recent : List Nat := []
  heldNs : Nat := 0
  /-- since when some hold has been in force without a break -/
  heldSince : Option Nat := none
  lastTicks : List Nat := []
  dupFrac : Nat := 0
  dupRed : Bool := false
  stoppedAt : Option Nat := none
  deriving DecidableEq, Repr

/-- An extension or late record (R227). -/
structure ExtRec where
  tick : Nat
  start : Nat
  extNs : Nat
  causes : BitVec 8
  stage : Nat
  hold : Nat
  link : Nat
  panel : Nat
  deriving DecidableEq, Repr

/-- Who opened a zip (R233, R236, R237). -/
inductive ZipOwner where
  | engine
  | host (f : Nat)
  /-- a one-entry zip formed by a write to a ZP register (R234, R531) -/
  | register (f : Nat)
  deriving DecidableEq, Repr

/-- A zip entry of 16 B (R233). -/
structure ZipEntry where
  kind : Nat
  reserved : Nat
  target : Nat
  value : Nat
  deriving DecidableEq, Repr

/-- The life of a zip (R234 to R236). -/
inductive ZipPhase where
  | open_ | closed | validated
  deriving DecidableEq, Repr

/-- A zip: identifier, owner, entries, phase, the time of its last ZIP_STAGE or opening, whether it overflowed
(ZIP_FULL), its failure if validation found one, the validation's end, and the ZIP_CLOSE descriptor's ring index, UTAG. -/
structure Zip where
  id : Nat
  owner : ZipOwner
  entries : List ZipEntry
  phase : ZipPhase
  touched : Nat
  full : Bool
  failed : Option (Nat × Nat)
  validEnd : Nat
  close : Option (Nat × Nat)
  deriving DecidableEq, Repr

/-! ### Serving (R284 to R316) -/

/-- A sampling record (R310) with its bias list. -/
structure Sampling where
  temp : Word
  topp : Word
  minp : Word
  rep : Word
  freq : Word
  topk : Nat
  genOnly : Bool
  pwin : Nat
  seed : DWord
  bias : List (Nat × Word)
  auto : Nat
  autoEn : Bool
  start : Nat
  maxNew : Nat
  stops : List Nat
  deriving DecidableEq, Repr

/-- A request: where its descriptor came from and what it named (R336). -/
structure Request where
  func : Nat
  ring : Nat
  idx : Nat
  utag : Nat
  cls : Nat
  keep : Bool
  epany : Bool
  prog : Bool
  prompt : List Nat
  samp : Sampling
  oaddr : Nat
  osize : Nat
  deadline : Nat
  epoch : Nat
  cont : Option Nat
  cancelled : Bool
  deriving DecidableEq, Repr

/-- The states of a request that holds a slot (R286). -/
inductive SeqState where
  | prefill | decode | rebuild | paused | kept | finished | expired | cancelled
  deriving DecidableEq, Repr

/-- Why a sequence is paused (R290). -/
inductive PauseReason where
  | host | latency | starved
  deriving DecidableEq, Repr

/-- A sequence (R286 to R307). -/
structure Seq where
  slot : Nat
  req : Request
  cls : Nat
  state : SeqState
  was : SeqState
  reason : PauseReason
  base : Nat
  len : Nat
  history : List (Nat × Bool)
  next : Nat
  promptEnd : Nat
  epoch : Option Nat
  rebuildTo : Nat
  rebuildFrom : Nat
  auto : Nat
  emitted : Nat
  tokenReady : Bool
  lastRow : Nat
  order : Nat
  pausedAt : Nat
  lastDrafts : Nat
  clipMark : Bool
  clipSeen : Bool
  lateSeen : Bool
  finish : Nat
  kvLost : Bool
  /-- its function was reset: it ends without a record (R326) -/
  silent : Bool
  deriving DecidableEq, Repr

/-- The kinds of a lengths-table row (R265). -/
inductive RowKind where
  | decode | prefill | verify | rebuild
  deriving DecidableEq, Repr

/-- A cohort row (R265, R294). -/
structure Row where
  slot : Nat
  pos : Nat
  kind : RowKind
  app : Bool
  starved : Bool
  token : Nat
  len : Nat
  draws : Bool
  discard : Bool
  clipped : Bool
  drawn : Bool
  deriving DecidableEq, Repr

/-- A cohort in flight or just built (R213, R218, R366). -/
structure Cohort where
  n : Nat
  epoch : Nat
  rows : List Row
  lost : Bool
  deriving DecidableEq, Repr

/-- A candidate: its value and token index (R65). -/
structure Cand where
  val : Word
  idx : Nat
  deriving DecidableEq, Repr

/-- What a Lantern holds for one cohort: the lists in order of arrival with their NANSEEN mark, and the count of
lists discarded (R309). -/
structure LanternCohort where
  cohort : Nat
  lists : List (List Cand × Bool)
  deriving DecidableEq, Repr

structure Lantern where
  accepting : List LanternCohort := []
  discarded : Nat := 0
  deriving DecidableEq, Repr

/-- A token waiting for the release that delivers it (R303, R339). -/
structure DrawnToken where
  slot : Nat
  cohort : Nat
  row : Nat
  token : Nat
  prob : Word
  forced : Bool
  nan : Bool
  /-- no candidate remained and no FORCE token stands in (R314): the request ends without a token of this row -/
  dead : Bool
  deriving DecidableEq, Repr

/-- An automaton image (R313): states (FIRST, N, FV, FORCE) and edges (LO, HI, NEXT). -/
structure Automaton where
  states : List (Nat × Nat × Bool × Nat)
  edges : List (Nat × Nat × Nat)
  deriving DecidableEq, Repr

/-! ### Host attach (R319 to R351, R525 to R534) -/

/-- One ring (R327 to R331, RCTRL). `own` is the index the engine keeps, `seen` the host's index last seen. -/
structure Ring where
  base : Nat := 0
  heldLo : Word := 0
  en : Bool := false
  lsize : Nat := 0
  stopped : Bool := false
  own : Nat := 0
  seen : Nat := 0
  deriving DecidableEq, Repr

/-- A completion record (R341). -/
structure CRec where
  typ : Nat
  status : Nat
  ring : Nat
  index : Nat
  tick : Option Nat
  utag : Nat
  slot : Option Nat
  a : Nat
  b : Nat
  deriving DecidableEq, Repr

/-- An MSI-X vector: masked, pending bit, when it last sent, a message waiting for moderation, and sent this release. -/
structure MsiVector where
  masked : Bool := false
  pending : Bool := false
  last : Option Nat := none
  waiting : Bool := false
  sentTick : Option Nat := none
  deriving DecidableEq, Repr

/-- One function (R323, R327, the function block and its tenant entry). -/
structure Fn where
  rings : Vector Ring 7 := Vector.replicate 7 {}
  dbAddr : Nat := 0
  dbHeldLo : Word := 0
  stAddr : Nat := 0
  stHeldLo : Word := 0
  cvec : Nat := 0
  evec : Nat := 0
  moderation : Nat := 0
  sticky : BitVec 3 := 0
  seq : Nat := 0
  zipId : Nat := 0
  zipEntry : Nat := 0
  zipCode : Nat := 0
  zipDone : Bool := false
  zipSeq : Nat := 0
  dropped : Nat := 0
  heldRecs : List CRec := []
  lineHeld : Bool := false
  /-- when the doorbell line was last polled (R334) -/
  polled : Nat := 0
  readOut : Bool := false
  readAgain : Bool := false
  vectors : List (Nat × MsiVector) := []
  seqQuota : Nat := 0
  kvQuota : Nat := 0
  ceil : Nat := 7
  dmaCap : Nat := 0
  autos : DWord := 0
  dmaUsed : Nat := 0
  /-- the host-DMA cap latched at the last release (R534) -/
  dmaLatched : Nat := 0
  /-- identifiers of the function's zips that expired, until they are given out again (R234) -/
  zipsGone : List (Nat × Nat) := []
  /-- frames the EVICT or RESTORE at the head of the control ring has moved so far (R219, R282) -/
  moved : Nat := 0
  deriving DecidableEq, Repr

/-- A write to host memory, or an MSI-X message on a vector, waiting while the link is down (R322, R349). -/
structure HostWrite where
  func : Nat
  addr : Nat
  bytes : List Byte
  vec : Option Nat
  deriving DecidableEq, Repr

/-! ### Weights (R352 to R373) -/

/-- A shard source (R355). -/
inductive Source where
  | empty
  | host (addr size : Nat)
  | guy (link : Nat)
  deriving DecidableEq, Repr

/-- Why a shard is being fetched (R360, R363, R370, R372, R488). -/
inductive FetchWhy where
  | load | repair | replaceStep | copy | darn
  deriving DecidableEq, Repr

/-- A shard fetch in progress: record, core, area (0 A, 1 B), the digest wanted, attempts made of each source, and its
purpose. -/
structure Fetch where
  shard : Nat
  core : Site
  area : Nat
  digest : BitVec 256
  tries0 : Nat
  tries1 : Nat
  why : FetchWhy
  failed : Bool
  deriving DecidableEq, Repr

/-- A shard held verified: record, core, area, digest, and when it last passed a scrub (R359, R361, R362). -/
structure HeldShard where
  shard : Nat
  core : Site
  area : Nat
  digest : BitVec 256
  clean : Nat
  deriving DecidableEq, Repr

/-- One weight area of a stage and the epochs it serves (R364); `built` marks a built copy that waits for its switch. -/
structure StageArea where
  stage : Nat
  area : Nat
  first : Nat
  last : Option Nat
  deriving DecidableEq, Repr

/-- The weight operation running (R370, R372). -/
inductive WeightOp where
  | none
  /-- new manifest, drain deadline, steps still to run (layers), whether the drain ended, layers done -/
  | replace (m : Manifest) (limit : Option Nat) (left : List Nat) (drained : Bool) (done : Nat)
  | copy (m : Manifest) (stages : List Nat) (written : Nat)
  deriving DecidableEq, Repr

/-- A shard a partner asked for and this module fetches to relay it (R357): the asking link and CHAN, the digest, the
attempts made of each source, its bytes once verified, and whether every source failed. -/
structure Relay where
  link : Nat
  chan : Nat
  digest : BitVec 256
  tries0 : Nat
  tries1 : Nat
  got : Option (List Byte)
  failed : Bool
  deriving DecidableEq, Repr

structure Weights where
  held : Option Manifest := none
  heldDigest : BitVec 256 := 0
  src : Vector Source 2 := Vector.replicate 2 .empty
  serve : Byte := 0xFF
  fetches : List Fetch := []
  shards : List HeldShard := []
  areas : List StageArea := []
  copies : List (Nat × Nat) := []
  epoch : Nat := 0
  op : WeightOp := .none
  opDesc : Nat × Nat := (0, 0)
  repairs : List (Nat × Site) := []
  discard : List (Nat × Nat × Nat) := []
  copyManifest : Option Manifest := none
  /-- WEIGHT_POINTER switches (stage, area) and EPOCH bumps (stage) committed at the boundary in hand (R369) -/
  switches : List (Nat × Nat) := []
  bumps : List Nat := []
  relays : List Relay := []
  /-- the tick whose barrier the last REPLACE step held (R370) -/
  stepTick : Option Nat := none
  deriving DecidableEq, Repr

/-! ### Guy links (R374 to R402) -/

/-- How a link trains (R398). -/
inductive Training where
  | none | fast | full | width
  deriving DecidableEq, Repr

/-- A shard request outstanding on a link or an answer still to send (R391, R392). -/
structure BulkReq where
  chan : Nat
  digest : BitVec 256
  deriving DecidableEq, Repr

/-- A retained sequenced frame (R383) with the times it was retransmitted. -/
structure RetryEntry where
  seq : Nat
  frame : Frame
  times : Nat
  deriving DecidableEq, Repr

/-- One guy link. -/
structure Guy where
  width : Nat := 0
  lowRate : Bool := false
  training : Training := .full
  nextSeq : Nat := 0
  expect : Nat := 0
  retry : List RetryEntry := []
  rewind : Option Nat := none
  lastAckAt : Nat := 0
  owesAck : Bool := false
  nakSent : Bool := false
  lastTxAt : Nat := 0
  /-- blocks the partner has granted this sender, per class STAGE, CONTROL, BULK (R386) -/
  credits : Vector Nat 3 := Vector.replicate 3 0
  /-- blocks of this receiver's buffers still granted to the partner, and blocks freed and not yet returned -/
  granted : Vector Nat 3 := Vector.replicate 3 0
  freed : Vector Nat 3 := Vector.replicate 3 0
  partner : Nat := 0
  marker : Option (Nat × Nat × Nat) := none
  markerAt : Nat := 0
  /-- the highest tick of a partner marker received, and the highest the partner shows, modulo 2^64; tick −2 before any
  (R393) -/
  highest : Nat := 2 ^ 64 - 2
  partnerAck : Nat := 2 ^ 64 - 2
  trees : List (Nat × Nat) := []
  requests : List BulkReq := []
  /-- answers owed, in order of arrival; true where the request is refused outright (R392) -/
  answers : List (Bool × BulkReq) := []
  incoming : Option (Nat × Nat × BitVec 256 × List Byte) := none
  groupSeen : Option (Nat × Nat × Nat × BitVec 256) := none
  lostMarker : Bool := false
  /-- the eleven counters in the order of R402 -/
  counters : Vector Nat 11 := Vector.replicate 11 0
  retxSecond : Nat := 0
  /-- flits of messages that a port gateway is gathering for STAGE frames (R389) -/
  gather : List Flit := []
  /-- sequenced frames that wait for credits, the link or a retransmission; their SEQ is set when they are sent -/
  waiting : List Frame := []
  /-- frames chosen since the last BULK frame (R388) -/
  sinceBulk : Nat := 0
  /-- frames handed to the transmitter, oldest first -/
  out : List Frame := []
  deriving DecidableEq, Repr

/-! ### Power, heat, calibration (R403 to R456, R543) -/

/-- STATE of GOV_STATUS (R436). -/
inductive PowerState where
  | standby | pitching | running | entering | bivouac | waking | stopping
  deriving DecidableEq, Repr

/-- A switch-on request waiting for the governor (R426): panel, whole panel or VLOG only, or VMEM+VMIF. -/
inductive SwitchSet where
  | whole | vlog | vmem | vlnk
  deriving DecidableEq, Repr

structure Power where
  state : PowerState := .standby
  pwrEn : Bool := false
  startAt : Option Nat := none
  /-- the envelope point E in mW (R419) -/
  e : Nat := 60000
  up : Nat := 200
  dn : Nat := 200
  ceil : Nat := 28000
  floor : Nat := 0
  slot : Nat := 0
  thermCeil : Nat := 28000
  convFailed : List Nat := []
  cap : Nat := 28000
  bind : Nat := 0
  sticky : BitVec 3 := 0
  seq : Nat := 0
  pin : Nat := 0
  vin : Nat := 0
  iin : Nat := 0
  ballast : Nat := 0
  sectors : List Nat := []
  queue : List (Nat × SwitchSet) := []
  admitted : List Nat := []
  lastAdmit : Option Nat := none
  pending : List (Nat × SwitchSet) := []
  panelSel : Word := 0
  sectorCap : List Nat := []
  resumeAt : Option Nat := none
  groupStop : Option Nat := none
  /-- samples the request at the head of the queue, or the next switch-off, has waited (R426, R433) -/
  waited : Nat := 0
  /-- a pitching under way: what the silicon shows, and when it began (R517) -/
  pitch : Option (Pitch × Nat) := none
  /-- a reset that waits for its panels to switch off: the pitching to run, and whether time restarts with it (R523) -/
  resetPitch : Option (Pitch × Bool) := none
  /-- a protective trip: PWR_EN must be cycled before the module starts (R435, R448) -/
  cycle : Bool := false
  deriving DecidableEq, Repr

structure Thermal where
  step1 : Bool := false
  step1Rise : Nat := 0
  trip : Bool := false
  tripClear : Option Nat := none
  tripAt : Nat := 0
  /-- panels whose thermal clock cap rises again, with the time of the last rise (step 2) -/
  cool : List (Nat × Nat) := []
  hot : Nat := 0
  /-- panels that step 3 switched off, in order -/
  offOrder : List Nat := []
  /-- canopies in step 3: canopy, hot panel, and since when every forecast has been below 95 °C -/
  step3 : List (Nat × Nat × Option Nat) := []
  lastOff : Nat := 0
  sticky : Bool := false
  seq : Nat := 0
  coolant : Option (Nat × Nat × Nat) := none
  coolSeq : Option Nat := none
  coolAt : Nat := 0
  coolLost : Bool := false
  lowFlowSince : Option Nat := none
  balanceBad : Nat := 0
  deriving DecidableEq, Repr

structure Calib where
  thresh : Nat := 6
  defer : Nat := 0
  refs : List Int := [0, 0, 0, 0]
  temps : List Int := [0, 0, 0, 0]
  due : Option Nat := none
  dueMask : Nat := 0
  scheduled : Bool := false
  forced : Bool := false
  running : Option Nat := none
  notBefore : Nat := 0
  sticky : BitVec 2 := 0
  seq : Nat := 0
  /-- SEQ of the CAL_DUE record of the calibration that is due -/
  dueSeq : Nat := 0
  deriving DecidableEq, Repr

/-! ### Errors and repair (R457 to R493) -/

/-- A unit under observation: core (false) or router (true), and since when it has met no trigger and failed no test
(R483, R485). -/
structure Observed where
  unit : Site
  isRouter : Bool
  since : Nat
  deriving DecidableEq, Repr

/-- An error being handled (R481): its containment unit and class. -/
structure Handling where
  unit : Nat × Nat
  code : Nat
  cls : Cls
  deriving DecidableEq, Repr

structure Errors where
  nextSeq : Nat := 1
  log : List Event := []
  /-- the number of records, newest ones, that Viumond has not taken yet -/
  untaken : Nat := 0
  overflow : Nat := 0
  sticky : BitVec 3 := 0
  seq : Nat := 0
  fatal : Bool := false
  rate : List ((Nat × Nat) × Nat) := []
  handling : List Handling := []
  observed : List Observed := []
  replayTimes : List (Site × Nat) := []
  dupCtrl : Word := 0
  darnOvr : Word := 0
  unavailMs : Nat := 0
  unavailSince : Option Nat := none
  pendingDarn : List Site := []
  /-- routers declared dead whose routes are still to change (R50, R485) -/
  dying : List Site := []
  skipped : List Site := []
  /-- cores that no longer answer and wait for darning (R488) -/
  deadCores : List Site := []
  /-- the hold of reason 2 that only an unload ends (R466, R490) -/
  stuck : Bool := false
  /-- a shift done, with ARG1 and the location of its DARNED record still to be made (R487, R488) -/
  darned : Option (Nat × Nat) := none
  /-- units whose neighbour test finds no room, and since when (R484) -/
  testWaits : List ((Site × Bool) × Nat) := []
  cohortsLost : List (Nat × Nat × Nat × Nat × Nat) := []
  /-- ALERT_N during the holdup after a protective trip (R555) -/
  alert : Bool := false
  /-- KV frames, and weight-store words, that failed parity again on replay and wait for the next release (R277, R467) -/
  badFrames : List (Site × Nat) := []
  badWords : List (Site × Nat) := []
  /-- weight-store words repaired since the load (R467) -/
  fixedWords : List (Site × Nat) := []
  deriving DecidableEq, Repr

/-! ### Management (R494 to R524) -/

/-- A Viumond session (R509). -/
structure Session where
  id : DWord
  key : BitVec 256
  lastReq : Nat
  lastReqId : Option Nat
  cached : Option Datagram
  unsigned : Bool
  deriving DecidableEq, Repr

/-- A record pushed and not acknowledged: when first and when last (R513). -/
structure Push where
  ev : Event
  first : Nat
  last : Nat
  deriving DecidableEq, Repr

/-- An event collector, the session the engine holds open to it, its next request number, and the pushes it has not
acknowledged (R513). -/
structure Collector where
  addr : BitVec 128
  port : Nat
  session : DWord
  key : BitVec 256
  nextReq : Nat
  unacked : List Push
  deriving DecidableEq, Repr

/-- A READ_MEM that waits for its panel's ration: its session and datagram, and the 64 B units not yet granted (R219,
R220, R511). -/
structure PendingRead where
  session : DWord
  d : Datagram
  site : Site
  left : Nat
  deriving DecidableEq, Repr

/-- A firmware slot: the image it holds at first, or the bytes staged with the image's length and the ranges that have
come (R498, R502). -/
structure FwSlot where
  factory : Bool := false
  bytes : Mem := []
  total : Nat := 0
  got : List (Nat × Nat) := []
  deriving DecidableEq, Repr

/-- What flash holds (R498, R499). -/
structure Flash where
  identity : Bool := true
  /-- the identity record's grade (false A, true B) and module serial (R1, R499) -/
  gradeB : Bool := false
  modId : DWord := 1
  preferB : Bool := false
  trial : Bool := false
  fwA : FwSlot := { factory := true }
  fwB : FwSlot := {}
  minVersion : Nat := 0
  repairMap : Option (List Site) := none
  repairSig : Bool := false
  opKey : Option (BitVec 256) := none
  log : List Event := []
  /-- the identity key in use, its next index, and the reservation counter (R503, R504, R505) -/
  keyId : Nat := 0
  keyIndex : Nat := 0
  reservation : Nat := 0
  /-- event collectors and the class mask (R498, R513) -/
  collectors : List (BitVec 128 × Nat) := []
  classMask : Byte := 0b00111000
  /-- start slot, up, down, ceiling, floor as Viumond stored them (R429, R436) -/
  slot : Nat := 0
  up : Nat := 200
  dn : Nat := 200
  ceil : Nat := 28000
  floor : Nat := 0
  deriving DecidableEq, Repr

structure Mgmt where
  running : Bool := false
  /-- it has run since power-on (R554) -/
  started : Bool := false
  heldInReset : Bool := false
  runningB : Bool := false
  /-- module time that module resets have dropped: the controller's and supervisor's clock runs on (R496, R523) -/
  base : Nat := 0
  challenge : Word := 0
  lastGood : Nat := 0
  restarts : List Nat := []
  trialSince : Option Nat := none
  tagFails : Nat := 0
  sessions : List Session := []
  collectors : List Collector := []
  pufOk : Bool := true
  successor : Option (Nat × BitVec 448) := none
  out : List Datagram := []
  /-- EVENT datagrams pushed, with the collector's number (R513) -/
  pushes : List (Nat × Datagram) := []
  reads : List PendingRead := []
  tray : List DWord := []
  /-- an operator hold that takes effect at the next release (R511) -/
  opHold : Bool := false
  /-- governor settings wait to be written to flash until the controller runs (R436, R495) -/
  flashDue : Bool := false
  /-- the repair map waits likewise (R486, R495) -/
  mapDue : Bool := false
  deriving DecidableEq, Repr

/-- STATE of FREEZE_STATUS (R523). -/
inductive FreezeState where
  | running | pending | frozen | dead
  deriving DecidableEq, Repr

structure Freeze where
  immediate : Bool := false
  state : FreezeState := .running
  spin : Bool := false
  sviu : Bool := false
  sbrk : Bool := false
  expired : Bool := false
  seq : Nat := 0
  since : Nat := 0
  stopTime : Nat := 0
  /-- a freeze asked for before the module runs, by Viumond, with its mode (R554) -/
  waitPitch : Option Bool := none
  deriving DecidableEq, Repr

/-! ### Register file odds and ends (R525 to R539) -/

/-- A waiting half of a guarded pair: the register's own offset, whether it is the complement half, its value, when it
came, and the selection latched with it (R529). -/
structure GpHalf where
  off : Nat
  isComplement : Bool
  value : Word
  at_ : Nat
  sel : Word
  deriving DecidableEq, Repr

structure Regs where
  halves : List GpHalf := []
  guardCount : Nat := 0
  guardTimes : List Nat := []
  modSticky : BitVec 3 := 0
  modSeq : Nat := 0
  tenSel : Word := 0
  cacheEn : Bool := true
  cacheNeg : Bool := false
  poll : Nat := 10
  goals : List Nat := [0, 0, 0, 0, 0, 0, 0, 0]
  rations : Vector Nat 8 := Vector.replicate 8 0
  extRing : List ExtRec := []
  extWr : Nat := 0
  extOvf : Nat := 0
  extSel : Word := 0
  extLatched : List Word := [0, 0, 0, 0, 0, 0, 0, 0]
  lateSel : Word := 0
  lateCnt : List (Nat × Nat) := []
  ptLoc : Word := 0
  ptFrame : Word := 0
  ptData : DWord := 0
  ptCode : Nat := 0
  guySel : Word := 0
  groupLinks : Byte := 0
  gid : Word := 0
  groupDig : List (BitVec 256) := [0, 0, 0, 0, 0, 0, 0, 0]
  /-- the group settings latched at a chained load (R539): links, GID, digests -/
  groupIn : Option (Byte × Nat × List (BitVec 256)) := none
  latchHi : List (Nat × Word) := []
  deriving DecidableEq, Repr

/-! ### The serving controllers together -/

structure Serve where
  queued : List Request := []
  seqs : List Seq := []
  cohorts : List Cohort := []
  built : Option Cohort := none
  lanterns : Vector Lantern 4 := Vector.replicate 4 {}
  drawn : List DrawnToken := []
  autos : List (Nat × Automaton) := []
  admitCount : Nat := 0
  /-- records made since the last release, with their function, written in the next batch (R343) -/
  recs : List (Nat × CRec) := []
  /-- (function, credit) of the population-weighted order (R70, R288, R338) -/
  credit : List (Nat × Int) := []
  ended : List (Nat × Nat × Nat) := []
  admitted : List Nat := []
  deriving DecidableEq, Repr

/-- A guard update on its way (R274): parity core, data core, the parity frame, byte offset, delta, tick. -/
structure GuardMsg where
  dst : Site
  src : Site
  frame : Nat
  off : Nat
  delta : List Byte
  tick : Nat
  deriving DecidableEq, Repr

/-- A close marker on its way (R274). -/
structure CloseMsg where
  dst : Site
  src : Site
  tick : Nat
  deriving DecidableEq, Repr

/-- The messages one part of the engine has sent to another and that have not arrived. -/
structure Transit where
  wires : List Wire := []
  /-- merge flits that left a sixth port for a Lantern, by (canopy × 4 + Lantern) (R66, R309) -/
  lists : List (Nat × Flit) := []
  guards : List GuardMsg := []
  closes : List CloseMsg := []
  deriving DecidableEq, Repr

/-! ### The whole machine -/

/-- The engine, and the queue of commands that wait, first in, first out. -/
structure State where
  pending : List Instr := []
  /-- module time in ns, 64 bits (R9) -/
  time : Nat := 0
  powered : Bool := true
  resetLow : Bool := false
  cores : List (Site × Core) := []
  routers : List (Site × Router) := []
  panels : List (Nat × PanelState) := []
  hostMem : Mem := []
  linkUp : Bool := true
  linkWidth : Nat := 16
  /-- HOST_PERST_N is asserted (R549) -/
  perstLow : Bool := false
  heldWrites : List HostWrite := []
  fns : List (Nat × Fn) := []
  msiOut : List (Nat × Nat) := []
  tick : TickState := {}
  holds : List Hold := []
  zips : List Zip := []
  nextZip : Nat := 1
  loaded : Option Loaded := none
  /-- a LOAD whose checks passed and that waits for partners' GROUP blocks (R395) -/
  loadPending : Option Loaded := none
  /-- an UNLOAD that waits for its release: function, ring index, UTAG; none for a reset of the physical function (R326,
  R345) -/
  unloading : Option (Option (Nat × Nat × Nat)) := none
  serve : Serve := {}
  weights : Weights := {}
  guys : Vector Guy 8 := Vector.replicate 8 {}
  transit : Transit := {}
  power : Power := {}
  thermal : Thermal := {}
  calib : Calib := {}
  errors : Errors := {}
  mgmt : Mgmt := {}
  flash : Flash := {}
  freeze : Freeze := {}
  regs : Regs := {}
  /-- guard groups: nine (core, frame) pairs each, the parity frame first (R273) -/
  guardMap : List (List (Site × Nat)) := []
  /-- the next free value: the step reads and advances it -/
  free : Nat := 0
  deriving DecidableEq, Repr

/-- Reasons the machine stops. -/
inductive Fault where
  /-- raised by a command that names a unit R16, R21 or R323 does not give the module (a site, panel, guy link,
  function or Lantern out of range): safe, no such unit exists. -/
  | noSuchUnit
  deriving DecidableEq, Repr

/-- Reasons a command has no meaning. -/
inductive Refusal where
  /-- a command not modelled yet, raised by its arm of exec: safe, nothing is claimed of it. -/
  | notModelled (mnemonic : String)
  deriving DecidableEq, Repr

/-- The machine right after reset (R9, R553): standby, module time 0, nothing listed in any store. -/
def State.reset : State := {}

end Sys2Proof.Machine
end

