-- ==== Sys2Proof/WellFormed.lean ====
section
/-! DEFINITION. Which commands name units the module has (R16, R21, R323, R327, R404, R415): a command that does not is
refused a meaning by the machine (a fault), since no such unit exists. -/

namespace Sys2Proof

/-- A site of the module: one of 384 panels, 13 columns, 12 rows (R16, R21). -/
abbrev Site.ok (k : Site) : Prop := k.panel < 384 ∧ k.col < 13 ∧ k.row < 12
/-- One of the 384 panels (R21). -/
abbrev panelOk (p : Nat) : Prop := p < 384
/-- One of the 512 functions (R323). -/
abbrev fnOk (f : Nat) : Prop := f < 512
/-- A function's submission ring (R327). -/
abbrev subRingOk (r : Nat) : Prop := r < 4
/-- A function's ring: 0 to 3 submission, 4 control, 5 completion, 6 event (R327). -/
abbrev ringOk (r : Nat) : Prop := r < 7
/-- One of the eight guy links (R21). -/
abbrev linkOk (l : Nat) : Prop := l < 8
/-- One of the four Lanterns of the sampling canopy (R309). -/
abbrev lanternOk (i : Nat) : Prop := i < 4
/-- One of a panel's four domains (R404). -/
abbrev domOk (d : Nat) : Prop := d < 4
/-- One of the 24 bus converters (R415). -/
abbrev convOk (c : Nat) : Prop := c < 24
/-- One of the eight sectors (R428). -/
abbrev sectorOk (x : Nat) : Prop := x < 8
/-- A lug pair, 1 or 2 (R543). -/
abbrev lugOk (x : Nat) : Prop := x = 1 ∨ x = 2

/-- The command names units the module has. -/
def Instr.wf : Instr → Prop
  | .aload k _ | .astrm k _ | .astrc k _ | .adrain k _ | .vadd k _ | .vsub k _ | .vmul k _ | .vfma k _ | .vmax k _
  | .vmin k _ | .vuna k _ | .vcmp k _ | .vsel k _ | .vbcst k _ | .vred k _ | .vcvt k _ | .vexp2 k _ | .vrcp k _
  | .vrsq k _ | .vlog2 k _ | .vld k _ | .vst k _ | .vqnt k _ | .vdeq k _ | .vsplt k _ | .vrot k _ | .vrope k _
  | .xmov k _ | .xtw k _ | .xfill k _ | .fsend k _ | .frecv k _ | .fred k _ | .fmrg k _ | .attend k _ | .gate k _
  | .sampleFeed k _ | .seti k _ | .sop k _ | .loop k _ | .tok k _ | .tparm k _ | .barr k _ | .step k _ | .dtag k _
  | .dtrace k _ | .dbrk k _ => k.ok
  | .tileArrival k | .arrayIdle k | .messageLanded k | .routerDeathDetect k | .dupCheck k => k.ok
  | .routerFlitArrival k _ _ _ => k.ok
  | .reduceCombine k _ | .mergeCombine k _ => k.ok
  | .guardUpdate k src _ _ _ _ => k.ok ∧ src.ok
  | .guardCloseMarker k src _ => k.ok ∧ src.ok
  | .lanternListArrival i _ => lanternOk i
  | .lanternDraw i _ _ => lanternOk i
  | .load f | .unload f | .zipOpen f | .zipStage f | .zipClose f | .cancel f | .evict f | .restore f | .automaton f
  | .source f | .serve f | .replace f | .copyBuild f | .copyDiscard f | .doorbellSnoop f | .doorbellRead f
  | .functionLevelReset f => fnOk f
  | .shardArrival _ k _ => k.ok
  | .scrubShardHashed _ k => k.ok
  | .request f r | .continue_ f r => fnOk f ∧ subRingOk r
  | .msixModeration f _ => fnOk f
  | .stageFrame l _ | .guyAckFrame l _ | .shardRequest l _ | .shardData l _ | .notHeld l _ | .tickMarker l _
  | .heldMarker l _ | .hello l _ | .group l _ | .bivouac l _ | .wake l _ | .loss l _ | .frameCrcError l _ => linkOk l
  | .guyAckTimeout l | .ackIdleTimer l | .markerRepeat l | .tickMarkerTimeout l | .laneAlignmentLoss l => linkOk l
  | .laneErrorRate l _ => linkOk l
  | .uncorrectableCodeword l _ => linkOk l
  | .panelReady p | .droopRecovery p => panelOk p
  | .senseSample p d _ _ _ => panelOk p ∧ domOk d
  | .droopTrip p _ _ => panelOk p
  | .bondCheck p d _ _ _ => panelOk p ∧ domOk d
  | .sectorLimitCheck x _ _ => sectorOk x
  | .regCellIsolation p d _ => panelOk p ∧ domOk d
  | .converterFailure c => convOk c
  | .lugImbalanceCheck x _ _ _ => lugOk x
  | .neighbourTest u _ _ _ | .observationEnd u _ => u.ok
  | .sequenceClear f _ _ | .zpWrite f _ _ | .registerWrite f _ _ => fnOk f
  | .ringEnable f r _ | .ringDisable f r _ => fnOk f ∧ ringOk r
  | .doorbellAddressWrite f _ => fnOk f
  | .tickRelease | .cohortBuild | .deadlineProbe _ | .darningComplete | .zipValidated _ | .zipExpiry _
  | .replaceDrainLimit | .doorbellPoll | .hostLinkDown | .hostLinkUp | .hostPerstN _ _ | .heldMarkerTimer
  | .pwrEnAssert | .startSlotOpen _ | .pwrEnDeassert | .resetN _ _ | .inputUndervoltage _ _ | .inputOvervoltage _ _
  | .governorSample _ | .bivouacEntry _ | .wakeImmediate _ | .wakeStaggered _ | .thermalSample _
  | .coolantReport _ _ | .coolantDataTimeout | .coolantBalanceCheck _ | .operatorKeySet _ _ | .calTriggerEval _
  | .calibrationStart | .calDone _ | .calNow | .darnOvr _ | .supervisorChallenge _ | .controllerStart
  | .firmwareTrial _ | .sessionOpen _ | .sessionTimeout _ | .readReg _ | .writeReg _ | .readMem _ | .events _
  | .eventAck _ | .eventPushRepeat | .holdPlace _ | .holdLift _ | .freezeTickAligned _ | .freezeImmediate _
  | .freezeNAssert _ | .freezeNDeassert | .resume _ | .freezeExpiry | .reset _ _ | .fwStage _ | .fwActivate _
  | .quote _ | .keyRotateGenerate _ | .keyRotateConfirm _ | .collectors _ | .trace _ | .scan _ | .opkey _
  | .guardedPair _ _ | .guardPairTimeout _ | .cacheEnWrite _ | .ptFetch _ _ | .ptWrite _ | .extSel _ | .powerOn => True

end Sys2Proof
end

