-- ==== Sys2Proof/Machine/Ops.lean ====
section
/-! DEFINITION. The named operations over stores, units and outputs that every meaning is written with: byte stores,
cores, routers, panels, functions, locations, host memory, interrupts, event records and barrier holds. -/

namespace Sys2Proof.Machine

/-! ### Byte stores -/

/-- The byte at an address: the listed byte, or 0 (R517). -/
def Mem.read (m : Mem) (a : Nat) : Byte := ((m.find? (fun c => c.1 == a)).map (·.2)).getD 0#8

/-- `n` bytes from an address. -/
def Mem.readN (m : Mem) (a n : Nat) : List Byte :=
  let w := m.filter (fun c => a ≤ c.1 && c.1 < a + n)
  (List.range n).map fun i => Mem.read w (a + i)

/-- The listed cells of bytes laid from an address: a byte 0 is not listed. -/
def Mem.cells (a : Nat) : List Byte → Mem
  | [] => []
  | b :: bs => if b = 0#8 then Mem.cells (a + 1) bs else (a, b) :: Mem.cells (a + 1) bs

/-- Bytes laid from an address; every other byte keeps its value. -/
def Mem.write (m : Mem) (a : Nat) (bs : List Byte) : Mem :=
  m.filter (fun c => c.1 < a) ++ Mem.cells a bs ++ m.filter (fun c => a + bs.length ≤ c.1)

/-- The canonical form: addresses strictly rising, no byte 0 listed. -/
abbrev Mem.wf (m : Mem) : Prop := m.Pairwise (fun x y => x.1 < y.1) ∧ ∀ c ∈ m, c.2 ≠ 0#8

/-! ### Keyed lists -/

/-- The value under a key, or a default. -/
def getK {α β : Type} [DecidableEq α] (l : List (α × β)) (k : α) (d : β) : β :=
  match l with
  | [] => d
  | (k', v) :: r => if k' = k then v else getK r k d

/-- The list with the value under a key replaced or added. -/
def putK {α β : Type} [DecidableEq α] (l : List (α × β)) (k : α) (v : β) : List (α × β) :=
  match l with
  | [] => [(k, v)]
  | (k', v') :: r => if k' = k then (k, v) :: r else (k', v') :: putK r k v

/-- The list without a key. -/
def delK {α β : Type} [DecidableEq α] (l : List (α × β)) (k : α) : List (α × β) := l.filter (fun e => e.1 ≠ k)

/-! ### Units -/

def State.core (s : State) (k : Site) : Core := getK s.cores k {}
def State.setCore (s : State) (k : Site) (c : Core) : State := { s with cores := putK s.cores k c }
def State.mapCore (s : State) (k : Site) (f : Core → Core) : State := s.setCore k (f (s.core k))
def State.router (s : State) (k : Site) : Router := getK s.routers k {}
def State.setRouter (s : State) (k : Site) (r : Router) : State := { s with routers := putK s.routers k r }
def State.mapRouter (s : State) (k : Site) (f : Router → Router) : State := s.setRouter k (f (s.router k))
def State.panel (s : State) (p : Nat) : PanelState := getK s.panels p {}
def State.setPanel (s : State) (p : Nat) (x : PanelState) : State := { s with panels := putK s.panels p x }
def State.mapPanel (s : State) (p : Nat) (f : PanelState → PanelState) : State := s.setPanel p (f (s.panel p))

/-- Function 0 is the physical function; its tenant entry differs at reset (R323). -/
def fnReset (f : Nat) : Fn :=
  if f = 0 then { seqQuota := 8192, kvQuota := 0xFFFFFFFF, ceil := 0, autos := 0xFFFFFFFFFFFFFFFF#64 } else {}

def State.fn (s : State) (f : Nat) : Fn := getK s.fns f (fnReset f)
def State.setFn (s : State) (f : Nat) (x : Fn) : State := { s with fns := putK s.fns f x }
def State.mapFn (s : State) (f : Nat) (g : Fn → Fn) : State := s.setFn f (g (s.fn f))
def State.guy (s : State) (l : Nat) : Guy := s.guys.toList.getD l {}
def State.setGuy (s : State) (l : Nat) (g : Guy) : State := { s with guys := s.guys.setIfInBounds l g }
def State.mapGuy (s : State) (l : Nat) (f : Guy → Guy) : State := s.setGuy l (f (s.guy l))
def State.lantern (s : State) (i : Nat) : Lantern := s.serve.lanterns.toList.getD i {}
def State.setLantern (s : State) (i : Nat) (x : Lantern) : State :=
  { s with serve := { s.serve with lanterns := s.serve.lanterns.setIfInBounds i x } }

/-! ### Outcomes -/

/-- The end of every meaning: a command changes everything but the queue of commands that wait. -/
def done (s t : State) : Host.Outcome State Fault Refusal := .next { t with pending := s.pending }

/-- A command that names a unit the module does not have stops the machine; any other has its effect. -/
def onUnit (ok : Prop) [Decidable ok] (s : State) (f : State → State) : Host.Outcome State Fault Refusal :=
  if ok then done s (f s) else .fault .noSuchUnit

/-! ### Places (R16, R31, R436, R476) -/

def canopyOf (p : Nat) : Nat := p / 96
def pcolOf (p : Nat) : Nat := p % 96 % 12
def prowOf (p : Nat) : Nat := p % 96 / 12
def panelAt (canopy pcol prow : Nat) : Nat := canopy * 96 + prow * 12 + pcol

/-- Canopy-wide physical column and row (R31). -/
def siteG (k : Site) : Nat := 13 * pcolOf k.panel + k.col
def siteH (k : Site) : Nat := 12 * prowOf k.panel + k.row
def siteCanopy (k : Site) : Nat := canopyOf k.panel

/-- The site at a canopy-wide physical position (R31). -/
def siteAt (canopy g h : Nat) : Site := ⟨panelAt canopy (g / 13) (h / 12), g % 13, h % 12⟩

/-- A LOC field (R476); LEVEL 0 module, 1 canopy, 2 panel, 3 core site, 4 guy link, 5 host port, 6 controller. -/
def locWord (canopy pcol prow ccol crow phys level index : Nat) : Nat :=
  canopy + pcol * 2 ^ 2 + prow * 2 ^ 6 + ccol * 2 ^ 9 + crow * 2 ^ 13 + phys * 2 ^ 17 + level * 2 ^ 18 + index * 2 ^ 24

def moduleLoc : Nat := 0
def canopyLoc (c : Nat) : Nat := locWord c 0 0 0 0 0 1 0
def panelLoc (p : Nat) : Nat := locWord (canopyOf p) (pcolOf p) (prowOf p) 0 0 0 2 0
def panelIndexLoc (p i : Nat) : Nat := locWord (canopyOf p) (pcolOf p) (prowOf p) 0 0 0 2 i
def physLoc (k : Site) : Nat := locWord (canopyOf k.panel) (pcolOf k.panel) (prowOf k.panel) k.col k.row 1 3 0
def guyLoc (l : Nat) : Nat := locWord 0 0 0 0 0 0 4 l
def hostLoc : Nat := locWord 0 0 0 0 0 0 5 0
def mgmtLoc : Nat := locWord 0 0 0 0 0 0 6 0

/-- Sites the grade skips in each panel row: 1 at grade A, 2 at grade B (R1, R17). -/
def State.skips (s : State) : Nat := if s.flash.gradeB then 2 else 1

/-- The physical columns that the logical columns of a panel row name, west to east (R17): failed sites are skipped
first, then the highest-numbered ones; a row with more failed sites than the grade skips names none (R490, R519). -/
def State.rowSites (s : State) (p row : Nat) : List Nat :=
  let good := (List.range 13).filter (fun c => ¬ (⟨p, c, row⟩ : Site) ∈ s.errors.skipped)
  if 13 - good.length > s.skips then [] else good.take (13 - s.skips)

/-- The logical column of a site, if it has one (R17). -/
def State.logicalCol (s : State) (k : Site) : Option Nat :=
  (s.rowSites k.panel k.row).findIdx? (· == k.col)

/-- The site a logical column names (R17). -/
def State.siteOfLogical (s : State) (p col row : Nat) : Option Site :=
  ((s.rowSites p row)[col]?).map fun c => ⟨p, c, row⟩

/-- A core's location: logical where the repair map names it, physical otherwise (R476). -/
def State.coreLoc (s : State) (k : Site) : Nat :=
  match s.logicalCol k with
  | some c => locWord (canopyOf k.panel) (pcolOf k.panel) (prowOf k.panel) c k.row 0 3 0
  | none => physLoc k

/-- The site a LOC field names, if it names a core site (R476). -/
def State.siteOfLoc (s : State) (loc : Nat) : Option Site :=
  let p := panelAt (bitsOf loc 1 0) (bitsOf loc 5 2) (bitsOf loc 8 6)
  let c := bitsOf loc 12 9
  let r := bitsOf loc 16 13
  if bitsOf loc 5 2 ≥ 12 ∨ r ≥ 12 then none
  else if bitOf loc 17 then (if c < 13 then some ⟨p, c, r⟩ else none)
  else s.siteOfLogical p c r

/-! ### Clocks and stops -/

/-- Numbers of a panel's domains (R404, R436). -/
def VLOG : Fin 4 := 0
def VMEM : Fin 4 := 1
def VMIF : Fin 4 := 2
def VLNK : Fin 4 := 3

/-- The number of the tick in progress, if one runs (R212, R475). -/
def State.tickNow (s : State) : Option Nat := if s.tick.running then some s.tick.n else none

/-- Are the core clocks of the whole module stopped: by a FATAL record, a thermal trip or a freeze (R482, R447, R520)? -/
def State.clocksStopped (s : State) : Bool :=
  s.errors.fatal || s.thermal.trip || s.freeze.state == .frozen || s.freeze.state == .dead

/-- Is a site's core running a program: its compute domain on, its clock running, a package's core kind assigned to
it, and not halted (R71, R215, R447, R482, R520)? -/
def State.coreRuns (s : State) (k : Site) : Bool :=
  ((s.panel k.panel).dom.get VLOG).on && !(s.panel k.panel).retention && !s.clocksStopped &&
    (s.core k).tab.assign.isSome && !(s.core k).halted

/-- Debug mode (R248). -/
def State.debug (s : State) : Bool := match s.loaded with
  | some l => l.debug
  | none => false

/-- The cores assigned to a region of the loaded package (R215). -/
def State.assigned (s : State) : List (Site × Assign) :=
  s.cores.filterMap fun e => e.2.tab.assign.map fun a => (e.1, a)

/-! ### Host memory and interrupts (R322, R348, R349) -/

/-- A posted write: done at once while the link is up, held in order otherwise (R322, R349). -/
def State.hostWrite (s : State) (f addr : Nat) (bs : List Byte) : State :=
  if s.linkUp then { s with hostMem := Mem.write s.hostMem addr bs }
  else { s with heldWrites := s.heldWrites ++ [⟨f, addr, bs, none⟩] }

/-- `n` bytes of host memory. -/
def State.hostRead (s : State) (addr n : Nat) : List Byte := Mem.readN s.hostMem addr n

/-- May a vector send now: not yet in this tick, and its moderation interval passed (R348)? -/
def vectorFree (s : State) (f : Nat) (v : MsiVector) : Bool :=
  !(s.tick.running && v.sentTick == some s.tick.n) &&
    (match v.last with
      | none => true
      | some t => t + (s.fn f).moderation * 1000 ≤ s.time)

/-- A message on a vector: pending if masked, waiting if it may not send yet, else sent; `now` for a FATAL event
(R348). -/
def State.sendMsi (s : State) (f vec : Nat) (now : Bool) : State :=
  let v := getK (s.fn f).vectors vec {}
  if v.masked then s.mapFn f fun x => { x with vectors := putK x.vectors vec { v with pending := true } }
  else if now || vectorFree s f v then
    let v' := { v with last := some s.time, waiting := false, sentTick := s.tickNow }
    let s := s.mapFn f fun x => { x with vectors := putK x.vectors vec v' }
    if s.linkUp then { s with msiOut := s.msiOut ++ [(f, vec)] }
    else { s with heldWrites := s.heldWrites ++ [⟨f, 0, [], some vec⟩] }
  else s.mapFn f fun x => { x with vectors := putK x.vectors vec { v with waiting := true } }

/-! ### Event records (R475 to R481) -/

/-- The number of a class (R475). -/
def Cls.num : Cls → Nat
  | .note => 0
  | .corrected => 1
  | .replayed => 2
  | .degraded => 3
  | .contained => 4
  | .fatal => 5

/-- The class above (R481). -/
def Cls.above : Cls → Cls
  | .note => .corrected
  | .corrected => .replayed
  | .replayed => .degraded
  | .degraded => .contained
  | _ => .fatal

/-- The higher of two classes. -/
def Cls.max (a b : Cls) : Cls := if a.num < b.num then b else a

/-- What an event says before it is numbered and timed. -/
structure Ev where
  code : Nat
  cls : Cls
  kind : Nat := 13
  loc : Nat := 0
  func : Option Nat := none
  iidx : Option Nat := none
  count : Nat := 0
  arg0 : Nat := 0
  arg1 : Nat := 0
  arg2 : Nat := 0
  /-- the time and tick of the first occurrence, for the codes of R562 -/
  first : Option (Nat × Option Nat) := none

/-- The 64 bytes of a record (R475, R478). -/
def Event.bytes (e : Event) : List Byte :=
  natLe 2 e.seq ++ natLe 1 (e.cls.num + if e.nested then 8 else 0) ++ natLe 1 e.kind ++ natLe 2 e.code ++
    natLe 2 (match e.func with
      | some f => f + 512
      | none => 0) ++
    natLe 8 e.time ++ natLe 8 e.loc ++ natLe 8 (e.tick.getD (2 ^ 64 - 1)) ++ natLe 4 (e.iidx.getD 0xFFFFFFFF) ++
    natLe 4 e.count ++ natLe 8 e.arg0 ++ natLe 8 e.arg1 ++ natLe 8 e.arg2

/-- Unit kinds whose containment unit is the core site, and those whose unit is the panel (R481). -/
def unitOf (kind loc : Nat) : Nat × Nat :=
  if kind ≤ 1 then (0, loc % 2 ^ 17)
  else if kind = 2 ∨ kind = 7 ∨ kind = 9 then (2, loc % 2 ^ 9)
  else if kind = 5 then (5, loc / 2 ^ 24 % 256)
  else if kind = 6 then (6, 0)
  else (13, 0)

/-- Codes whose action is the reload of the package: their handling period lasts until then (R481, R138, R187, R211,
R229, R466, R470, R490, R416). -/
def reloadCodes : List Nat :=
  [0x0205, 0x0206, 0x0207, 0x0208, 0x0209, 0x020A, 0x020F, 0x0302, 0x0803, 0x0A02, 0x0A0C]

/-- Codes whose action is a lifted hold or a repair that a later step completes (R481, R488, R50, R362). -/
def openCodes : List Nat := [0x0A0A, 0x0107, 0x0602]

/-- SEQ after `n` records: 1 to 65,535, then 1 again (R480). -/
def nextSeqOf (n : Nat) : Nat := if n ≥ 65535 then 1 else n + 1

/-- The oldest NOTE removed, or the oldest record where the log holds none (R480). -/
def dropOldestNote (l : List Event) : List Event :=
  match l.findIdx? (fun e => e.cls == .note) with
  | some i => l.eraseIdx i
  | none => l.drop 1

/-- A record put into the module log (R480). -/
def State.logEvent (s : State) (e : Event) : State :=
  let er := s.errors
  let full := er.untaken ≥ 4096
  if s.mgmt.running then
    { s with errors := { er with log := (er.log ++ [e]).drop ((er.log.length + 1) - 4096) } }
  else if !full then
    { s with errors := { er with log := (er.log ++ [e]).drop ((er.log.length + 1) - 4096), untaken := er.untaken + 1 } }
  else if e.cls == .fatal then
    { s with errors := { er with
        log := dropOldestNote er.log ++ [e]
        overflow := min (er.overflow + 1) 0xFFFFFFFF
        sticky := er.sticky ||| 0b100#3
        seq := e.seq } }
  else
    { s with errors := { er with overflow := min (er.overflow + 1) 0xFFFFFFFF, sticky := er.sticky ||| 0b100#3, seq := e.seq } }

/-! ### Viumond datagrams (R508, R513) -/

/-- The header's bytes with TAG as 0 (R508). -/
def headOf (d : Datagram) : List Byte :=
  [d.ver, d.typ] ++ natLe 2 d.flags.toNat ++ natLe 4 d.reqid.toNat ++ natLe 8 d.session.toNat ++ natLe 2 d.len.toNat ++
    natLe 2 d.status.toNat ++ natLe 4 d.reserved.toNat ++ natLe 8 d.modid.toNat ++ List.replicate 32 0#8

/-- The TAG a datagram must carry under a key (R508). -/
def tagOf (key : BitVec 256) (d : Datagram) : BitVec 256 := hmac256 key (headOf d ++ d.body)

/-- A datagram of the engine's, tagged. -/
def datagramOf (port : Nat) (typ : Byte) (flags : BitVec 16) (reqid : Word) (session : DWord) (status : Nat) (modid : DWord)
    (key : BitVec 256) (body : List Byte) : Datagram :=
  let d : Datagram := ⟨port, 1, typ, flags, reqid, session, BitVec.ofNat 16 body.length, BitVec.ofNat 16 status, 0, modid, 0, body⟩
  { d with tag := tagOf key d }

/-- The body of an EVENTS response, and of a push (R512). -/
def eventsBody (es : List Event) (next : Nat) : List Byte :=
  natLe 2 es.length ++ natLe 2 next ++ List.replicate 60 0#8 ++ es.flatMap Event.bytes

/-- A push of records to a collector (R513). -/
def Collector.push (c : Collector) (modid : DWord) (es : List Event) : Datagram :=
  datagramOf 0 6 2 (BitVec.ofNat 32 c.nextReq) c.session 0 modid c.key
    (eventsBody es (nextSeqOf ((es.getLast?.map (·.seq)).getD 0)))

/-- The controller's and the supervisor's clock, which a module reset does not set back (R496, R523). -/
def State.mclock (s : State) : Nat := s.time + s.mgmt.base

/-- Records the flash log holds (R498). -/
def flashLogMax : Nat := 2574336

/-- What the running controller does with a record it takes: the flash copy and the pushes (R480, R513). -/
def State.takeEvent (s : State) (e : Event) : State :=
  if !s.mgmt.running then s
  else
    let fl := if e.cls.num ≥ 3 then
        { s.flash with log := (s.flash.log ++ [e]).drop (s.flash.log.length + 1 - flashLogMax) } else s.flash
    let now := s.mclock
    let cs := s.mgmt.collectors
    let m := if s.flash.classMask.getLsbD e.cls.num then
      { s.mgmt with
        collectors := cs.map fun c => { c with nextReq := c.nextReq + 1, unacked := c.unacked ++ [⟨e, now, now⟩] }
        pushes := s.mgmt.pushes ++ (List.range cs.length).zip (cs.map fun c => c.push s.flash.modId [e]) }
      else s.mgmt
    { s with flash := fl, mgmt := m }

/-- Entries a ring holds (R328). -/
def Ring.size (r : Ring) : Nat := 2 ^ r.lsize

/-- Does an engine-produced ring have room for `n` more entries (R328)? -/
def Ring.room (r : Ring) (n : Nat) : Bool := r.en && !r.stopped && decide ((2 ^ 32 - r.seen + r.own) % 2 ^ 32 + n ≤ r.size)

/-- Entries of a host-produced ring that the engine has not taken (R328). -/
def Ring.waiting (r : Ring) : Nat := (2 ^ 32 - r.own + r.seen) % 2 ^ 32

/-- Sets a function's sticky flags (R528). -/
def State.fnSticky (s : State) (f : Nat) (m : BitVec 3) (seq : Nat) : State :=
  s.mapFn f fun x => { x with sticky := x.sticky ||| m, seq := seq }

/-- Writes one record to a function's event ring, or counts it dropped (R347, R532). -/
def State.putEventRing (s : State) (f : Nat) (e : Event) : State :=
  let x := s.fn f
  let r := x.rings.get 6
  if r.room 1 then
    let s := s.hostWrite f (r.base + 64 * (r.own % r.size)) e.bytes
    let s := s.mapFn f fun x => { x with rings := x.rings.set 6 { r with own := (r.own + 1) % 2 ^ 32 } }
    s.sendMsi f x.evec (e.cls == .fatal)
  else
    (s.mapFn f fun x => { x with dropped := x.dropped + 1 }).fnSticky f 0b010#3 e.seq

/-- Does a virtual function's event ring receive the record: it names the function, or it names none and its class is
DEGRADED or above (R347)? -/
def ringTakes (f : Nat) (e : Event) : Bool :=
  f == 0 || e.func == some f || (e.func == none && e.cls.num ≥ 3)

/-- Gives a record to the log, the controller and every event ring that receives it. Where a ring with dropped records
has space again, a record EVENT_DROPPED goes first (R347); `fuel` bounds that nesting. -/
def State.deliver : Nat → State → Event → State
  | 0, s, _ => s
  | fuel + 1, s, e =>
    let s := (s.logEvent e).takeEvent e
    let fs := 0 :: (s.fns.map (·.1)).filter (· ≠ 0)
    fs.foldl (fun s f =>
      if ringTakes f e then
        let x := s.fn f
        let s := if x.dropped > 0 ∧ (x.rings.get 6).room 1 ∧ e.code ≠ 0x0504 then
            let d : Event := ⟨s.errors.nextSeq, .note, false, 13, 0x0504, some f, s.time, 0, s.tickNow, none, x.dropped, 0, 0, 0⟩
            let s := s.mapFn f fun x => { x with dropped := 0 }
            let s : State := { s with errors := { s.errors with nextSeq := nextSeqOf s.errors.nextSeq } }
            State.deliver fuel s d
          else s
        s.putEventRing f e
      else s) s

/-- The record an event makes: numbered, timed, nested where an earlier error of its unit is still being handled
(R475, R480, R481). -/
def State.mkEvent (s : State) (e : Ev) : Event :=
  let held := s.errors.handling.filter (fun h => h.unit = unitOf e.kind e.loc)
  let nested := !held.isEmpty && e.cls.num ≥ 2
  let cls := if nested then (held.foldl (fun c h => c.max h.cls) e.cls).above else e.cls
  { seq := s.errors.nextSeq, cls := cls, nested := nested, kind := e.kind, code := e.code, func := e.func
    time := match e.first with
      | some (t, _) => t
      | none => s.time
    loc := e.loc
    tick := match e.first with
      | some (_, t) => t
      | none => s.tickNow
    iidx := e.iidx, count := e.count, arg0 := e.arg0, arg1 := e.arg1, arg2 := e.arg2 }

/-- The sticky flags of ERR_STATUS a class sets (R492). -/
def errSticky (c : Cls) : BitVec 3 := if c == .fatal then 0b001#3 else if c == .contained then 0b010#3 else 0#3

/-- A FATAL record stops every core clock, and the freeze it makes is not resumable (R482, R522, R523). -/
def State.fatalStop (s : State) (e : Event) : State :=
  if e.cls == .fatal then
    { s with
      freeze := if s.freeze.state == .frozen || s.freeze.state == .dead then { s.freeze with state := .dead }
        else { s.freeze with state := .dead, since := s.time, stopTime := s.time }
      errors := { s.errors with
        fatal := true
        unavailSince := match s.errors.unavailSince with
          | some t => some t
          | none => some s.time } }
  else s

/-- Makes a record: SEQ, the log, the controller, the event rings, ERR_STATUS, the handling period, the FATAL stop
(R475 to R482, R492). Units under observation follow in `State.raise`. -/
def State.record (s : State) (ev : Ev) : State :=
  let e := s.mkEvent ev
  let st := errSticky e.cls
  let er := { s.errors with
    nextSeq := nextSeqOf s.errors.nextSeq
    sticky := s.errors.sticky ||| st
    seq := if st = 0#3 then s.errors.seq else e.seq
    handling := if ev.code ∈ reloadCodes ++ openCodes then
        s.errors.handling ++ [{ unit := unitOf ev.kind ev.loc, code := ev.code, cls := e.cls }] else s.errors.handling
    unavailSince := if ev.code ∈ reloadCodes ∧ s.errors.unavailSince = none then some s.time else s.errors.unavailSince }
  (State.deliver 2 { s with errors := er } e).fatalStop e

/-- Ends the handling periods of a code in a unit. -/
def State.endHandling (s : State) (code : Nat) (unit : Nat × Nat) : State :=
  { s with errors := { s.errors with handling := s.errors.handling.filter fun h => ¬ (h.code = code ∧ h.unit = unit) } }

/-- Ends every handling period whose action is the reload. -/
def State.endReloadHandling (s : State) : State :=
  { s with errors := { s.errors with handling := s.errors.handling.filter fun h => h.code ∉ reloadCodes } }

/-! ### Observation and retirement (R483, R485) -/

/-- Does a panel row still hold a spare for one more failed site (R17, R490)? -/
def State.rowHasSpare (s : State) (k : Site) : Bool :=
  decide ((s.errors.skipped.filter fun x => x.panel = k.panel ∧ x.row = k.row).length < s.skips)

/-- Retires a unit under observation: a core by live darning at the next release, a router by declaring it dead; a core
whose row has no spare stays under observation (R485). -/
def State.retire (s : State) (k : Site) (isRouter : Bool) : State :=
  if isRouter then
    let s := s.mapRouter k fun r => { r with dead := true }
    let s : State := { s with errors := { s.errors with
      observed := s.errors.observed.filter fun o => ¬ (o.unit = k ∧ o.isRouter = isRouter)
      dying := s.errors.dying ++ [k] } }
    s.record { code := 0x0A09, cls := .degraded, kind := 1, loc := physLoc k }
  else if s.rowHasSpare k then
    let s : State := { s with errors := { s.errors with
      observed := s.errors.observed.filter fun o => ¬ (o.unit = k ∧ o.isRouter = isRouter)
      pendingDarn := if k ∈ s.errors.pendingDarn then s.errors.pendingDarn else s.errors.pendingDarn ++ [k] } }
    s.record { code := 0x0A09, cls := .degraded, kind := 0, loc := s.coreLoc k }
  else
    let s : State := { s with errors := { s.errors with
      observed := s.errors.observed.map fun o => if o.unit = k ∧ o.isRouter = isRouter then { o with since := s.time } else o } }
    s.record { code := 0x0A09, cls := .degraded, kind := 0, loc := s.coreLoc k, arg0 := 1 }

/-- A trigger of R483 on a unit: it enters observation, is retired if it already is under observation (R485), or finds
the list of 256 full. Triggers are numbered from 0 in the order of R483. -/
def State.observe (s : State) (k : Site) (isRouter : Bool) (trigger : Nat) : State :=
  let kind := if isRouter then 1 else 0
  let loc := if isRouter then physLoc k else s.coreLoc k
  if s.errors.observed.any (fun o => o.unit = k && o.isRouter == isRouter) then s.retire k isRouter
  else if s.errors.observed.length ≥ 256 then s.record { code := 0x0A07, cls := .note, kind := kind, loc := loc }
  else
    let s : State := { s with errors := { s.errors with
      observed := s.errors.observed ++ [(⟨k, isRouter, s.time⟩ : Observed)] } }
    s.record { code := 0x0A05, cls := .note, kind := kind, loc := loc, arg0 := trigger }

/-- One hour, one second and one millisecond of module time in ns. -/
def hourNs : Nat := 3600000000000
def secNs : Nat := 1000000000
def msNs : Nat := 1000000

/-- Makes a record, and applies the triggers of R483 that a record itself can be: eight REPLAYED records naming a unit
within one hour, and a nested record of DEGRADED or above naming a core or router (R481, R483). -/
def State.raise (s : State) (ev : Ev) : State :=
  let e := s.mkEvent ev
  let s := s.record ev
  if ev.kind ≤ 1 then
    match s.siteOfLoc ev.loc with
    | none => s
    | some k =>
      let s := if e.nested && e.cls.num ≥ 3 then s.observe k (ev.kind == 1) 2 else s
      if e.cls == .replayed then
        let recent := (s.errors.replayTimes.filter fun x => s.time < x.2 + hourNs) ++ [(k, s.time)]
        let n := (recent.filter fun x => x.1 = k).length
        if n ≥ 8 then
          { s with errors := { s.errors with replayTimes := recent.filter fun x => x.1 ≠ k } }.observe k (ev.kind == 1) 1
        else { s with errors := { s.errors with replayTimes := recent } }
      else s
  else s

/-- A report made at most once per interval of module time for one code and unit. -/
def State.raiseEvery (s : State) (interval : Nat) (key : Nat × Nat) (ev : Ev) : State :=
  match s.errors.rate.find? (fun r => r.1 = key) with
  | some (_, t) =>
    if s.time < t + interval then s
    else { s with errors := { s.errors with rate := putK s.errors.rate key s.time } }.raise ev
  | none => { s with errors := { s.errors with rate := putK s.errors.rate key s.time } }.raise ev

/-- One more occurrence on a panel of a code that is reported once per tick (R562). -/
def State.countCode (s : State) (p code loc kind n arg0 : Nat) : State :=
  s.mapPanel p fun x =>
    match x.counted.find? (fun c => c.1 = code) with
    | some _ => { x with counted := x.counted.map fun c =>
        if c.1 = code then (c.1, c.2.1, c.2.2.1, c.2.2.2.1, c.2.2.2.2.1 + n, c.2.2.2.2.2) else c }
    | none => { x with counted := x.counted ++ [(code, s.time, loc, kind, n, arg0)] }

/-- Makes the once-per-tick records of every panel (R562). -/
def State.flushCounted (s : State) : State :=
  s.panels.foldl (fun s e =>
    let s := e.2.counted.foldl (fun s c =>
      let cls := if c.1 = 0x0106 then Cls.contained else Cls.note
      s.raise { code := c.1, cls := cls, kind := c.2.2.2.1, loc := c.2.2.1, count := c.2.2.2.2.1, arg0 := c.2.2.2.2.2
                first := some (c.2.1, s.tickNow) }) s
    s.mapPanel e.1 fun x => { x with counted := [] }) s

/-! ### Barrier holds (R228) -/

/-- Is a hold of a reason in force? -/
def State.held (s : State) (reason : Nat) : Bool := s.holds.any (fun h => h.reason == reason)

/-- Places a hold; a reason already in force keeps its first time. -/
def State.placeHold (s : State) (reason : Nat) : State :=
  if s.held reason then s
  else
    { s with
      holds := s.holds ++ [{ reason := reason, since := s.time }]
      tick := { s.tick with heldSince := some (s.tick.heldSince.getD s.time) } }

/-- Lifts a hold, and notes when for the release (R216) and for the availability figure (R491). -/
def State.liftHold (s : State) (reason : Nat) : State :=
  match s.holds.find? (fun h => h.reason == reason) with
  | none => s
  | some h =>
    let er := if reason = 2 ∨ reason = 5 then
      { s.errors with unavailMs := min (s.errors.unavailMs + (s.time - h.since) / msNs) 0xFFFFFFFF } else s.errors
    let left := s.holds.filter fun h => h.reason ≠ reason
    { s with
      holds := left
      errors := er
      tick := { s.tick with
        lastLift := some (s.time, reason)
        heldNs := if left.isEmpty then s.tick.heldNs + (s.time - s.tick.heldSince.getD s.time) else s.tick.heldNs
        heldSince := if left.isEmpty then none else s.tick.heldSince } }

/-! ### Rations (R219, R220) -/

/-- Numbers of the metered activities in table order (R219, R536). -/
def ratDma : Fin 8 := 0
def ratKv : Fin 8 := 1
def ratScrub : Fin 8 := 2
def ratGuy : Fin 8 := 3
def ratMgmt : Fin 8 := 4
def ratQuant : Fin 8 := 5
def ratDetect : Fin 8 := 6
def ratTrim : Fin 8 := 7

/-- Units of an activity a panel may still grant this tick; no limit binds while no tick runs (R219, R334). -/
def State.rationLeft (s : State) (p : Nat) (i : Fin 8) : Option Nat :=
  if s.tick.running then some (s.tick.limits.get i - (s.panel p).used.get i) else none

/-- Is a request granted: the counter is below its limit (R220)? -/
def State.rationOk (s : State) (p : Nat) (i : Fin 8) : Bool :=
  match s.rationLeft p i with
  | some n => decide (0 < n)
  | none => true

/-- Charges units of an activity to a panel. -/
def State.charge (s : State) (p : Nat) (i : Fin 8) (n : Nat) : State :=
  s.mapPanel p fun x => { x with used := x.used.set i (x.used.get i + n) }

/-- Sets a cause bit against a panel (R225). -/
def State.cause (s : State) (p : Nat) (bit : Nat) : State :=
  s.mapPanel p fun x => { x with causes := x.causes ||| (1#8 <<< bit) }

/-! ### Free values -/

/-- The next free 32-bit value (notes/assumptions/2). -/
def State.takeFree (s : State) : Word × State := (Config.freeWord s.free, { s with free := s.free + 1 })

/-- Is a sequence in a terminal state (R286)? -/
def SeqState.terminal : SeqState → Bool
  | .finished | .expired | .cancelled => true
  | _ => false

end Sys2Proof.Machine
end

