-- ==== Sys2Proof/Machine/Operands.lean ====
section
/-! DEFINITION. The operand fields of YCI-3 instruction words, which words are legal (R134 to R137, R144 to R209), and
the addresses, registers and element types they name. -/

namespace Sys2Proof.Machine

/-! ### Fields -/

/-- Bits [hi:lo] of an instruction's low 56 bits. -/
def fld (w : BitVec 56) (hi lo : Nat) : Nat := bitsOf w.toNat hi lo
/-- Bit `i`. -/
def flag (w : BitVec 56) (i : Nat) : Bool := w.getLsbD i

/-- Major opcodes (R144 to R209). -/
def CoreOp.opcode : CoreOp → Nat
  | .aload => 0x00 | .astrm => 0x01 | .astrc => 0x02 | .adrain => 0x03
  | .vadd => 0x20 | .vsub => 0x21 | .vmul => 0x22 | .vfma => 0x23 | .vmax => 0x24 | .vmin => 0x25 | .vuna => 0x26
  | .vcmp => 0x27 | .vsel => 0x28 | .vbcst => 0x29 | .vred => 0x2A | .vcvt => 0x2B
  | .vexp2 => 0x30 | .vrcp => 0x31 | .vrsq => 0x32 | .vlog2 => 0x33
  | .vld => 0x38 | .vst => 0x39 | .vqnt => 0x3A | .vdeq => 0x3B | .vsplt => 0x3C | .vrot => 0x40 | .vrope => 0x41
  | .xmov => 0x50 | .xtw => 0x51 | .xfill => 0x52
  | .fsend => 0x70 | .frecv => 0x71 | .fred => 0x72 | .fmrg => 0x73
  | .attend => 0x90 | .gate => 0x91 | .sampleFeed => 0x92
  | .seti => 0xA0 | .sop => 0xA1 | .loop => 0xA2 | .tok => 0xA3 | .tparm => 0xA4 | .barr => 0xA5 | .step => 0xA6
  | .dtag => 0xF0 | .dtrace => 0xF1 | .dbrk => 0xF2

/-- Every operation, for decoding a major opcode. -/
def allOps : List CoreOp :=
  [.aload, .astrm, .astrc, .adrain, .vadd, .vsub, .vmul, .vfma, .vmax, .vmin, .vuna, .vcmp, .vsel, .vbcst, .vred,
   .vcvt, .vexp2, .vrcp, .vrsq, .vlog2, .vld, .vst, .vqnt, .vdeq, .vsplt, .vrot, .vrope, .xmov, .xtw, .xfill] ++
  [.fsend, .frecv, .fred, .fmrg, .attend, .gate, .sampleFeed, .seti, .sop, .loop, .tok, .tparm, .barr, .step, .dtag,
   .dtrace, .dbrk]

/-- The operation of a 64-bit instruction word, if its opcode is not reserved (R98, R137). -/
def opOfWord (w : DWord) : Option CoreOp := allOps.find? (fun o => o.opcode == (w.toNat / 2 ^ 56))

/-- The 64-bit word of an operation and its low 56 bits. -/
def wordOfOp (op : CoreOp) (w : BitVec 56) : DWord := BitVec.ofNat 64 (op.opcode * 2 ^ 56 + w.toNat)

/-- The queue an operation goes to (R98). -/
def CoreOp.queue (op : CoreOp) : QueueId :=
  let o := op.opcode
  if o < 0x20 then .array else if o < 0x50 then .vector else if o < 0x90 then .transfer else if o < 0xA0 then .array
  else .front

/-- The number of a queue in ARG1 of ILLEGAL_ENCODING (R479). -/
def QueueId.num : QueueId → Nat
  | .array => 0
  | .vector => 1
  | .transfer => 2
  | .front => 3

/-- A fused command (R99, R190). -/
def CoreOp.fused : CoreOp → Bool
  | .attend | .gate | .sampleFeed => true
  | _ => false

def wWE (w : BitVec 56) : Bool := flag w 55
def wWT (w : BitVec 56) : Nat := fld w 54 51
def wSE (w : BitVec 56) : Bool := flag w 50
def wST (w : BitVec 56) : Nat := fld w 49 46
def wPE (w : BitVec 56) : Bool := flag w 45
def wPS (w : BitVec 56) : Nat := fld w 44 42

/-- Element types (R159). -/
inductive ElemType where
  | fp32 | bf16 | i32 | i16 | i8
  deriving DecidableEq, Repr

/-- The type of an ET or FN code. -/
def elemType : Nat → Option ElemType
  | 0 => some .fp32
  | 1 => some .bf16
  | 2 => some .i32
  | 3 => some .i16
  | 4 => some .i8
  | _ => none

def ElemType.isInt : ElemType → Bool
  | .fp32 | .bf16 => false
  | _ => true

/-- Width of an integer type. -/
def ElemType.bits : ElemType → Nat
  | .i32 | .fp32 => 32
  | .i16 | .bf16 => 16
  | .i8 => 8

/-- Registers a rotation block or head spans: 1, 2 or 4 (R172, R173). -/
def spanOf (code : Nat) : Nat := 2 ^ code

/-- The register rules of R172: aligned, and identical or disjoint ranges. -/
def regRange (code vd va : Nat) : Bool :=
  code < 3 && vd % spanOf code == 0 && va % spanOf code == 0 && vd < 32 && va < 32 &&
    (vd == va || vd + spanOf code ≤ va || va + spanOf code ≤ vd)

/-! ### Fabric fields (R180) -/

/-- FRECV's CHAN, ADST, NF. -/
def recvChan (w : BitVec 56) : Nat := fld w 39 38 * 16 + fld w 37 34
def recvAdst (w : BitVec 56) : Nat := fld w 32 30 * 2 + fld w 29 29
def recvNf (w : BitVec 56) : Nat := fld w 20 15 * 2 + fld w 14 14
/-- FRED's OP. -/
def redOp (w : BitVec 56) : Nat := fld w 30 30 * 4 + fld w 29 28
/-- XTW's ADST and EW. -/
def xtwAdst (w : BitVec 56) : Nat := fld w 36 36 * 8 + fld w 35 33
def xtwEw (w : BitVec 56) : Nat := fld w 32 32 * 4 + fld w 31 30

/-! ### Legal words (R135, R137) -/

/-- A clear WE, SE or PE requires its register field to be 0 (R135). -/
def commonLegal (w : BitVec 56) : Bool :=
  (wWE w || wWT w == 0) && (wSE w || wST w == 0) && (wPE w || wPS w == 0)

/-- The rules of the register format for a type and function (R159, R161). -/
def regFormat (w : BitVec 56) (useB useC satOk : Bool) (fnMax : Nat) : Bool :=
  (useB || fld w 31 27 == 0) && (useC || fld w 26 22 == 0) && fld w 14 0 == 0 &&
    fld w 21 19 ≤ 4 && fld w 18 16 ≤ fnMax && (!flag w 15 || (satOk && fld w 21 19 ≥ 2))

/-- Is an instruction word legal: no reserved bit set, no field at a reserved value (R137)? -/
def legalWord (op : CoreOp) (w : BitVec 56) : Bool :=
  match op with
  | .aload => commonLegal w && fld w 17 0 == 0 && fld w 21 18 ≤ 7
  | .astrm => commonLegal w && fld w 3 0 == 0 && fld w 10 7 ≤ 11
  | .astrc => commonLegal w && fld w 3 0 == 0 && fld w 10 7 ≤ 11 && fld w 17 16 ≥ 2
  | .adrain => commonLegal w && fld w 39 0 == 0
  | .vadd | .vsub | .vmul => commonLegal w && regFormat w true false true 0
  | .vfma => commonLegal w && regFormat w true true true 0
  | .vmax | .vmin => commonLegal w && regFormat w true false false 0
  | .vuna => commonLegal w && regFormat w false false true 2
  | .vcmp => commonLegal w && regFormat w true false false 5 && fld w 41 40 == 0
  | .vsel => commonLegal w && regFormat w true true false 0 && fld w 26 25 == 0 && fld w 21 19 == 0
  | .vbcst => commonLegal w && fld w 35 32 == 0 && (flag w 36 || fld w 31 5 == 0)
  | .vred => commonLegal w && regFormat w false false false 1 && fld w 21 19 ≤ 2
  | .vcvt => commonLegal w && regFormat w false false false 4
  | .vexp2 | .vrcp | .vrsq | .vlog2 => commonLegal w && regFormat w false false false 0 && fld w 21 19 == 0
  | .vld | .vst => commonLegal w && fld w 29 0 == 0 && (if flag w 32 then fld w 31 30 == 0 else fld w 31 30 ≤ 2)
  | .vqnt => commonLegal w && fld w 23 0 == 0 && fld w 32 29 ≤ 11 && !wPE w
  | .vdeq => commonLegal w && fld w 24 0 == 0 && fld w 32 29 ≤ 11
  | .vsplt => commonLegal w && fld w 41 37 == 0 && fld w 23 0 == 0 && !wPE w
  | .vrot => commonLegal w && fld w 18 0 == 0 && !wPE w && regRange (fld w 31 30) (fld w 41 37) (fld w 36 32)
  | .vrope => commonLegal w && fld w 18 0 == 0 && !wPE w && regRange (fld w 22 21) (fld w 41 37) (fld w 36 32)
  | .xmov => commonLegal w && fld w 24 0 == 0 && fld w 37 36 ≤ 2 && fld w 31 30 ≤ 2
  | .xtw => commonLegal w && fld w 24 0 == 0 && xtwEw w ≤ 4
  | .xfill => commonLegal w && fld w 25 0 == 0 && fld w 37 36 ≤ 2
  | .fsend => commonLegal w && fld w 14 0 == 0 && decide (1 ≤ fld w 29 23) && fld w 29 23 ≤ 64 && fld w 22 19 ≤ 3
  | .frecv => commonLegal w && fld w 10 0 == 0 && fld w 41 40 ≤ 2 && decide (1 ≤ recvNf w) && recvNf w ≤ 64 &&
      fld w 28 25 ≤ 3 &&
      (if fld w 41 40 == 2 then fld w 13 11 ≤ 5 && !flag w 33 && fld w 28 25 == 0 && fld w 24 21 == 0
       else fld w 13 11 == 0 && !(flag w 33 && fld w 28 25 == 1))
  | .fred => commonLegal w && fld w 21 0 == 0 && decide (1 ≤ fld w 37 31) && fld w 37 31 ≤ 64 && redOp w ≤ 5
  | .fmrg => commonLegal w && fld w 24 0 == 0 && decide (1 ≤ fld w 37 31) && fld w 37 31 ≤ 64
  | .attend | .gate | .sampleFeed => commonLegal w && fld w 37 0 == 0
  | .seti => fld w 49 32 == 0 && (!flag w 55 || fld w 54 50 ≤ 15)
  | .sop => fld w 49 45 ≤ 12 && (flag w 44 || fld w 31 0 == 0) && (!flag w 55 || fld w 54 50 ≤ 15) &&
      (!flag w 43 || fld w 42 38 ≤ 15) && (flag w 44 || !flag w 37 || fld w 36 32 ≤ 15)
  | .loop => fld w 19 0 == 0 && decide (1 ≤ fld w 33 20) && (!flag w 55 || decide (1 ≤ fld w 49 34))
  | .tok => fld w 38 0 == 0
  | .tparm => !flag w 55 && fld w 45 0 == 0 && fld w 49 46 ≤ 6
  | .barr | .step => w == 0
  | .dtag => fld w 32 0 == 0 && decide (1 ≤ fld w 46 37) && fld w 46 37 ≤ 512 && fld w 36 35 ≤ 2 &&
      (decide (1 ≤ fld w 34 33) || fld w 36 35 == 0) && fld w 55 47 + fld w 46 37 ≤ 512
  | .dtrace => !flag w 55 && fld w 49 0 == 0
  | .dbrk => fld w 49 0 == 0

/-- Is a 64-bit word a legal instruction (R137)? -/
def legal64 (w : DWord) : Bool :=
  match opOfWord w with
  | some op => legalWord op (w.truncate 56)
  | none => false

/-! ### Registers an instruction carries (R139, R140) -/

def QEntry.sReg (e : QEntry) (i : Nat) : Word := e.s.toList.getD i 0#32
def QEntry.aReg (e : QEntry) (i : Nat) : Word := e.a.toList.getD i 0#32
def Core.vreg (c : Core) (i : Nat) : VReg := c.v.toList.getD i (Vector.replicate 64 0#32)
def Core.setV (c : Core) (i : Nat) (x : VReg) : Core := { c with v := c.v.setIfInBounds i x }
def Core.preg (c : Core) (i : Nat) : DWord := c.p.toList.getD i 0#64
def Core.setP (c : Core) (i : Nat) (x : DWord) : Core := { c with p := c.p.setIfInBounds i x }
def Core.sreg (c : Core) (i : Nat) : Word := c.s.toList.getD i 0#32
def Core.areg (c : Core) (i : Nat) : Word := c.a.toList.getD i 0#32
/-- Writes an s register, or an a register where `isA` (R201). -/
def Core.setReg (c : Core) (isA : Bool) (i : Nat) (x : Word) : Core :=
  if isA then { c with a := c.a.setIfInBounds i x } else { c with s := c.s.setIfInBounds i x }
def Core.tok (c : Core) (i : Nat) : Nat := (c.t.toList.getD i 0#8).toNat
def Core.setTok (c : Core) (i n : Nat) : Core := { c with t := c.t.setIfInBounds i (BitVec.ofNat 8 n) }

/-- A vector register from 64 values. -/
def vregOf (xs : List Word) : VReg := Vector.ofFn fun i => xs.getD i.val 0#32

/-- A 64-bit mask from a predicate on lanes. -/
def maskOf (f : Nat → Bool) : DWord := BitVec.ofNat 64 ((List.range 64).foldl (fun acc k => if f k then acc + 2 ^ k else acc) 0)

/-- The activation-store byte address a value names: its low 21 bits (R77). -/
def actAddr (x : Word) : Nat := x.toNat % 2 ^ 21

/-- Bytes of a rotary head: 64, 128 or 256 elements. -/
def headSize (code : Nat) : Nat := 64 * 2 ^ code

end Sys2Proof.Machine
end

