-- ==== Sys2Proof/Machine/VecAlu.lean ====
section
/-! DEFINITION. The results of vector and rotation instructions as functions of their operands alone (R159 to R173,
R114, R115, R157), so that a buddy can recompute them (R472). -/

namespace Sys2Proof.Machine

/-! ### Lanes (R160, R161) -/

/-- The low 16 bits of a lane. -/
def lo16 (x : Word) : BitVec 16 := x.truncate 16
/-- A BF16 result in a lane: upper bits 0 (R160). -/
def putBF16 (h : BitVec 16) : Word := h.zeroExtend 32
/-- An integer result in a lane: wrapped or saturated to the width, sign-extended (R160, R161). -/
def putInt (n : Nat) (sat : Bool) (i : Int) : Word :=
  if sat then wordOf (satInt n i) else (BitVec.ofInt n i).signExtend 32

/-- A binary floating-point operation on exact values, rounded once to the type (R161). -/
def fpLane (t : ElemType) (f : Fp → Fp → Fp → Fp) (a b c : Word) : Word :=
  if t = .bf16 then putBF16 (toBF16 (f (ofBF16 (lo16 a)) (ofBF16 (lo16 b)) (ofBF16 (lo16 c))))
  else toF32 (f (ofF32 a) (ofF32 b) (ofF32 c))

/-- A lane operation given on exact values and on integers (R161, R162). -/
def arithLane (t : ElemType) (sat : Bool) (ff : Fp → Fp → Fp → Fp) (fi : Int → Int → Int → Int) (a b c : Word) : Word :=
  if t.isInt then putInt t.bits sat (fi (sext t.bits a) (sext t.bits b) (sext t.bits c)) else fpLane t ff a b c

/-- A lane as an FP32 pattern of the same value, for a floating-point type. -/
def asF32 (t : ElemType) (x : Word) : Word := if t = .bf16 then widenBF16 (lo16 x) else x

/-- An FP32 pattern that the type holds exactly, in a lane; a NaN is canonical (R160, R161). -/
def fromF32 (t : ElemType) (x : Word) : Word :=
  if t = .bf16 then putBF16 (toBF16 (ofF32 x)) else canon x

/-- Larger or smaller of two lanes (R163). -/
def maxLane (t : ElemType) (a b : Word) : Word :=
  if t.isInt then putInt t.bits false (max (sext t.bits a) (sext t.bits b)) else fromF32 t (maxF32 (asF32 t a) (asF32 t b))
def minLane (t : ElemType) (a b : Word) : Word :=
  if t.isInt then putInt t.bits false (min (sext t.bits a) (sext t.bits b)) else fromF32 t (minF32 (asF32 t a) (asF32 t b))

/-- VUNA: absolute value, negate, copy (R162, R163). -/
def unaLane (t : ElemType) (sat : Bool) (fn : Nat) (a : Word) : Word :=
  match fn with
  | 0 => arithLane t sat (fun x _ _ => x.abs) (fun x _ _ => x.natAbs) a 0 0
  | 1 => arithLane t sat (fun x _ _ => x.neg) (fun x _ _ => -x) a 0 0
  | _ => arithLane t sat (fun x _ _ => x) (fun x _ _ => x) a 0 0

/-- VCMP's condition on two lanes (R162, R163). -/
def cmpLane (t : ElemType) (fn : Nat) (a b : Word) : Bool :=
  if t.isInt then
    let x := sext t.bits a
    let y := sext t.bits b
    match fn with
    | 0 => decide (x = y)
    | 1 => decide (x ≠ y)
    | 2 => decide (x < y)
    | 3 => decide (x ≤ y)
    | 4 => decide (y < x)
    | _ => decide (y ≤ x)
  else
    let x := asF32 t a
    let y := asF32 t b
    match fn with
    | 0 => eqF32 x y
    | 1 => !eqF32 x y
    | 2 => ltF32 x y
    | 3 => leF32 x y
    | 4 => ltF32 y x
    | _ => leF32 y x

/-- VCVT of one lane (R110, R166). -/
def cvtLane (src dst : ElemType) (a : Word) : Word :=
  if src.isInt then
    let i := sext src.bits a
    if dst.isInt then putInt dst.bits true i
    else if dst = .bf16 then putBF16 (toBF16 (Fp.ofInt i)) else toF32 (Fp.ofInt i)
  else
    let x := ofF32 (asF32 src a)
    if dst.isInt then
      match x with
      | .nan => 0#32
      | .inf n => wordOf (if n then -(2 : Int) ^ (dst.bits - 1) else 2 ^ (dst.bits - 1) - 1)
      | .fin n m e => wordOf (satInt dst.bits (rheInt n m e))
    else if dst = .bf16 then putBF16 (toBF16 x) else toF32 x

/-! ### Whole registers -/

/-- Lane `k` of a register. -/
def lane (v : VReg) (k : Nat) : Word := v.toList.getD k 0#32

/-- VRED over the lanes that PE leaves active (R165). -/
def redLanes (t : ElemType) (fn : Nat) (mask : DWord) (a : VReg) : Word :=
  if fn = 0 then
    let xs := (List.range 64).map fun k => if mask.getLsbD k then lane a k else 0#32
    treeSum (fun x y => arithLane t false (fun p q _ => p.add q) (fun p q _ => p + q) x y 0) 0#32 xs
  else
    let xs := ((List.range 64).filter fun k => mask.getLsbD k).map (lane a)
    match xs with
    | [] => if t.isInt then wordOf (-(2 : Int) ^ (t.bits - 1)) else fromF32 t 0xFF800000#32
    | x :: r => r.foldl (maxLane t) (maxLane t x x)

/-- VSPLT's split of one row of BF16 elements (R157): F, and each element's hi and lo codes; an element that is not
finite is taken as 0 (R171). -/
def bf16Split (xs : List (BitVec 16)) : Nat × List (Int × Int) :=
  let eff (h : BitVec 16) : Nat := max 1 (h.toNat / 128 % 256)
  let fin (h : BitVec 16) : Bool := h.toNat / 128 % 256 != 255
  let nz (h : BitVec 16) : Bool := fin h && h.toNat % 2 ^ 15 != 0
  let f := xs.foldl (fun acc h => if nz h then max acc (eff h) else acc) 7
  (f, xs.map fun h =>
    if !nz h then (0, 0)
    else
      let m := h.toNat % 128 + (if h.toNat / 128 % 256 = 0 then 0 else 128)
      let q := rheInt (h.getLsbD 15) m ((eff h : Int) - f + 6)
      let hi := Int.tdiv q 128
      (hi, q - 128 * hi))

/-- The BF16 code of 2^(F − 133) or 2^(F − 140), as an A8 scale (R157). -/
def splitScale (f : Nat) (hi : Bool) : BitVec 16 := toBF16 (Fp.pow2 ((f : Int) - (if hi then 133 else 140)))

/-- The lanes an instruction of the register format computes, before predication (R162 to R167). -/
def vecLanes (op : CoreOp) (w : BitVec 56) (e : QEntry) (psel mask : DWord) (va vb vc : VReg) : VReg :=
  let t := (elemType (fld w 21 19)).getD .fp32
  let fn := fld w 18 16
  let sat := flag w 15
  let map3 (f : Word → Word → Word → Word) : VReg := vregOf ((List.range 64).map fun k => f (lane va k) (lane vb k) (lane vc k))
  match op with
  | .vadd => map3 (arithLane t sat (fun x y _ => x.add y) (fun x y _ => x + y))
  | .vsub => map3 (arithLane t sat (fun x y _ => x.add y.neg) (fun x y _ => x - y))
  | .vmul => map3 (arithLane t sat (fun x y _ => x.mul y) (fun x y _ => x * y))
  | .vfma => map3 (arithLane t sat (fun x y z => (x.mul y).add z) (fun x y z => x * y + z))
  | .vmax => map3 (fun a b _ => maxLane t a b)
  | .vmin => map3 (fun a b _ => minLane t a b)
  | .vuna => map3 (fun a _ _ => unaLane t sat fn a)
  | .vsel => vregOf ((List.range 64).map fun k => if psel.getLsbD k then lane va k else lane vb k)
  | .vbcst =>
    let x := if flag w 36 then BitVec.ofNat 32 (fld w 31 0) else e.sReg (fld w 4 0)
    vregOf (List.replicate 64 x)
  | .vred => vregOf (List.replicate 64 (redLanes t fn mask va))
  | .vcvt => map3 (fun a _ _ => cvtLane t ((elemType fn).getD .fp32) a)
  | .vexp2 => map3 (fun a _ _ => exp2F32 a)
  | .vrcp => map3 (fun a _ _ => rcpF32 a)
  | .vrsq => map3 (fun a _ _ => rsqF32 a)
  | .vlog2 => map3 (fun a _ _ => log2F32 a)
  | _ => va

/-- The bits VCMP computes, before predication. -/
def cmpBits (w : BitVec 56) (va vb : VReg) : DWord :=
  let t := (elemType (fld w 21 19)).getD .fp32
  maskOf fun k => cmpLane t (fld w 18 16) (lane va k) (lane vb k)

/-- A register under predication: active lanes new, others old (R136). -/
def blend (mask : DWord) (old new : VReg) : VReg :=
  vregOf ((List.range 64).map fun k => if mask.getLsbD k then lane new k else lane old k)

/-- The lanes of consecutive registers as one block, and back (R128). -/
def blockOf (rs : List VReg) : List Word := rs.flatMap (·.toList)
def regsOf (n : Nat) (xs : List Word) : List VReg := (List.range n).map fun i => vregOf ((xs.drop (64 * i)).take 64)

/-- VROT's result (R172, R128 to R132). -/
def rotRegs (w : BitVec 56) (e : QEntry) (rs : List VReg) : List VReg :=
  let bs := fld w 31 30
  regsOf rs.length (rotateBlock (flag w 29) (e.sReg (fld w 28 24)) (e.sReg (fld w 23 19)).toNat bs (blockOf rs))

/-- VROPE's result for a position and a frequency table (R173, R271). -/
def ropeRegs (w : BitVec 56) (pos : Nat) (fs : List Word) (rs : List VReg) : List VReg :=
  regsOf rs.length (rope (flag w 19) (flag w 20) (headSize (fld w 22 21)) pos fs (blockOf rs))

/-- 32-bit words of bytes. -/
def wordsOf (bs : List Byte) (n : Nat) : List Word :=
  (List.range n).map fun i => BitVec.ofNat 32 (fieldAt bs (4 * i) 4)

/-- Bytes of 32-bit words. -/
def bytesOfWords (xs : List Word) : List Byte := xs.flatMap fun x => natLe 4 x.toNat

/-- The byte of a signed code. -/
def codeByte (i : Int) : Byte := BitVec.ofInt 8 i

/-- Is a stored A8 scale legal: bit 15 clear, exponent below 0xFF (R112, R148)? -/
def a8Legal (h : Nat) : Bool := h < 2 ^ 15 && h / 128 % 256 != 255

/-- The FP32 value of an A8 scale entry. -/
def a8Word (h : Nat) : Word := widenBF16 (BitVec.ofNat 16 h)

/-- Is a stored KV scale legal (R113)? -/
def kvLegal (b : Byte) : Bool := b.toNat < 0x7F

end Sys2Proof.Machine
end

