-- ==== Sys2Proof/Machine/CoreStore.lean ====
section
/-! DEFINITION. A core's stores: reads, writes, parity, windows, the step journal, KV frames and guard updates
(R72 to R81, R174, R175, R254 to R264, R273, R274, R459 to R461, R563). -/

namespace Sys2Proof.Machine

/-! ### Plain access -/

/-- A store by its code: 0 activation, 1 weight, 2 partial sum (R177), 3 instruction (R512). -/
def Core.mem (c : Core) (st : Nat) : Mem :=
  match st with
  | 0 => c.act
  | 1 => c.wgt
  | 2 => c.psum
  | _ => c.inst

def Core.setMem (c : Core) (st : Nat) (m : Mem) : Core :=
  match st with
  | 0 => { c with act := m }
  | 1 => { c with wgt := m }
  | 2 => { c with psum := m }
  | _ => { c with inst := m }

/-- Bytes of a store (R72). -/
def storeSize (st : Nat) : Nat :=
  match st with
  | 0 => 2 ^ 21
  | 1 => 2 ^ 24
  | 2 => 2 ^ 19
  | _ => 2 ^ 17

/-- `n` bytes from an address of a store; an address is a number of the store's address bits, so it wraps (R74, R77). -/
def Core.rd (c : Core) (st a n : Nat) : List Byte :=
  let z := storeSize st
  let a := a % z
  if a + n ≤ z then Mem.readN (c.mem st) a n
  else Mem.readN (c.mem st) a (z - a) ++ Mem.readN (c.mem st) 0 (n - (z - a))

/-- Bytes laid into a store; each 64-bit group written gets parity that matches (R73, R76). -/
def Core.wrRaw (c : Core) (st a : Nat) (bs : List Byte) : Core :=
  let z := storeSize st
  let a := a % z
  let c := if a + bs.length ≤ z then c.setMem st (Mem.write (c.mem st) a bs)
    else c.setMem st (Mem.write (Mem.write (c.mem st) a (bs.take (z - a))) 0 (bs.drop (z - a)))
  if bs.isEmpty then c
  else { c with badParity := c.badParity.filter fun g => ¬ (g.1 = st ∧ a / 8 ≤ g.2 ∧ g.2 ≤ (a + bs.length - 1) / 8) }

/-- The address of the first 64-bit group with mismatched parity among `n` bytes (R73). -/
def Core.badIn (c : Core) (st a n : Nat) : Option Nat :=
  let a := a % storeSize st
  (c.badParity.find? fun g => g.1 = st ∧ n ≠ 0 ∧ a / 8 ≤ g.2 ∧ g.2 ≤ (a + n - 1) / 8).map fun g => 8 * g.2

/-- A 32-bit word of a store. -/
def Core.word (c : Core) (st a : Nat) : Word := BitVec.ofNat 32 (leNat (c.rd st a 4))

/-- A partial-sum line's address, and its 64 entries (R80). -/
def lineAddr (l : Nat) : Nat := 256 * l
def Core.line (c : Core) (l : Nat) : List Word := wordsOf (c.rd 2 (lineAddr l) 256) 64

/-- A core's store window: does an access lie inside it (R174, R175, R563)? -/
def Core.inWindow (c : Core) (st a n : Nat) : Bool :=
  match st with
  | 0 => true
  | 1 => a + n ≤ c.tab.wTop
  | 2 => a + n ≤ 2 ^ 19
  | _ => true

/-! ### KV frames (R254 to R264) -/

def frameBytes : Nat := 17408
def pageTableBytes : Nat := 49152

/-- Frames of a core's carve: F of R254, at most 960. -/
def CoreTables.frames (t : CoreTables) : Nat := min 960 ((t.kvBytes - pageTableBytes) / frameBytes)
/-- Byte address of frame `f`. -/
def CoreTables.frameAddr (t : CoreTables) (f : Nat) : Nat := t.kvBase + pageTableBytes + frameBytes * f
/-- The frame that holds a weight-store byte, if one does. -/
def CoreTables.frameOf (t : CoreTables) (a : Nat) : Option Nat :=
  if t.frames = 0 ∨ a < t.frameAddr 0 then none
  else
    let f := (a - t.frameAddr 0) / frameBytes
    if f < t.frames then some f else none

/-- A frame record (R262). -/
structure FrameRec where
  st : Nat
  slice : Nat
  bind : Nat
  seq : Nat
  lpage : Nat
  next : Nat
  deriving DecidableEq, Repr

def FrameRec.num (r : FrameRec) : Nat :=
  r.st + r.slice * 2 ^ 2 + r.bind * 2 ^ 3 + r.seq * 2 ^ 13 + r.lpage * 2 ^ 26 + r.next * 2 ^ 40

def frameRecOf (v : Nat) : FrameRec :=
  ⟨bitsOf v 1 0, bitsOf v 2 2, bitsOf v 12 3, bitsOf v 25 13, bitsOf v 39 26, bitsOf v 49 40⟩

def Core.frameRaw (c : Core) (f : Nat) : Nat := leNat (c.rd 1 (c.tab.kvBase + 8 * f) 8)
def Core.frameRec (c : Core) (f : Nat) : FrameRec := frameRecOf (c.frameRaw f)

/-- A directory way (R263). -/
structure DirWay where
  v : Bool
  seq : Nat
  bind : Nat
  first : Nat
  count : Nat
  deriving DecidableEq, Repr

def DirWay.num (d : DirWay) : Nat :=
  (if d.v then 1 else 0) + d.seq * 2 + d.bind * 2 ^ 14 + d.first * 2 ^ 24 + d.count * 2 ^ 34

def dirWayOf (v : Nat) : DirWay := ⟨bitOf v 0, bitsOf v 13 1, bitsOf v 23 14, bitsOf v 33 24, bitsOf v 43 34⟩

/-- The directory bucket of a pair (R263). -/
def dirBucket (seq bind : Nat) : Nat := (seq % 1024) ^^^ (bind % 1024) ^^^ (seq / 1024 % 8)

def Core.dirAddr (c : Core) (bucket way : Nat) : Nat := c.tab.kvBase + 0x2000 + 32 * bucket + 8 * way
def Core.dirWay (c : Core) (bucket way : Nat) : DirWay := dirWayOf (leNat (c.rd 1 (c.dirAddr bucket way) 8))

/-- The way that holds a pair, if one does. -/
def Core.findWay (c : Core) (seq bind : Nat) : Option Nat :=
  (List.range 4).find? fun w =>
    let d := c.dirWay (dirBucket seq bind) w
    d.v && d.seq == seq && d.bind == bind

/-- The lowest free way of a pair's bucket. -/
def Core.freeWay (c : Core) (seq bind : Nat) : Option Nat :=
  (List.range 4).find? fun w => !(c.dirWay (dirBucket seq bind) w).v

/-- Frames of a chain from `f`, at most `n` of them. -/
def Core.chainFrom (c : Core) : Nat → Nat → List Nat
  | 0, _ => []
  | n + 1, f => if f = 0x3FF then [] else f :: c.chainFrom n (c.frameRec f).next

/-- The chain of a pair in this core: its frames in order (R264). -/
def Core.chain (c : Core) (seq bind : Nat) : List Nat :=
  match c.findWay seq bind with
  | none => []
  | some w =>
    let d := c.dirWay (dirBucket seq bind) w
    c.chainFrom d.count d.first

/-! ### Guard (R273, R274) -/

/-- The parity core and frame that guard a data frame (R273). -/
def State.guardOf (s : State) (k : Site) (f : Nat) : Option (Site × Nat) :=
  match s.guardMap.find? (fun g => (g.drop 1).contains (k, f)) with
  | some (p :: _) => some p
  | _ => none

/-- The data frames that a parity frame guards. -/
def State.guarded (s : State) (k : Site) (f : Nat) : List (Site × Nat) :=
  match s.guardMap.find? (fun g => g.head? == some (k, f)) with
  | some (_ :: r) => r
  | _ => []

/-- Does a core carve KV: it holds at least the page-table area (R275)? -/
def State.carves (s : State) (k : Site) : Bool :=
  let t := (s.core k).tab
  t.assign.isSome && decide (pageTableBytes ≤ t.kvBytes)

/-- The carving cores of a panel row in logical order. -/
def State.rowCarvers (s : State) (p row : Nat) : List Site :=
  ((s.rowSites p row).map fun c => (⟨p, c, row⟩ : Site)).filter s.carves

/-- A core's buddy: the next carving core eastward in its row, wrapping; else the first carving core of the panel in
row order from the next row, wrapping (R275). -/
def State.buddy (s : State) (k : Site) : Option Site :=
  let mine := s.rowCarvers k.panel k.row
  let east := mine.filter (fun x => k.col < x.col)
  match east ++ mine.filter (fun x => x.col < k.col) with
  | x :: _ => some x
  | [] => ((List.range 11).flatMap fun i => s.rowCarvers k.panel ((k.row + 1 + i) % 12)).head?

/-- The cores whose buddy `k` is. -/
def State.buddyOf (s : State) (k : Site) : List Site :=
  ((List.range 12).flatMap fun r => s.rowCarvers k.panel r).filter fun x => s.buddy x == some k

/-- Bytewise exclusive or. -/
def xorBytes (a b : List Byte) : List Byte := List.zipWith (· ^^^ ·) a b

/-- Sends the guard update of a change inside one frame (R274). -/
def State.sendGuard (s : State) (k : Site) (f off : Nat) (old new : List Byte) : State :=
  match s.guardOf k f with
  | none => s
  | some (pk, pf) =>
    let delta := xorBytes old new
    if delta.all (· == 0#8) then s
    else
      let s : State := { s with transit := { s.transit with guards := s.transit.guards ++ [⟨pk, k, pf, off, delta, s.tick.n⟩] } }
      s.mapCore k fun c => { c with guardTouched := if pk ∈ c.guardTouched then c.guardTouched else c.guardTouched ++ [pk] }

/-- A write into a core's store; a change to a data frame's bytes sends its guard updates (R274). -/
def State.putBytes (s : State) (k : Site) (st a : Nat) (bs : List Byte) : State :=
  let c := s.core k
  let s' := s.setCore k (c.wrRaw st a bs)
  if st ≠ 1 ∨ bs.isEmpty then s'
  else
    match c.tab.frameOf a, c.tab.frameOf (a + bs.length - 1) with
    | none, none => s'
    | x, y =>
      let f0 := x.getD 0
      let f1 := y.getD (c.tab.frames - 1)
      (List.range (f1 + 1 - f0)).foldl (fun s i =>
        let f := f0 + i
        let base := c.tab.frameAddr f
        let lo := max a base
        let hi := min (a + bs.length) (base + frameBytes)
        s.sendGuard k f (lo - base) (c.rd 1 lo (hi - lo)) ((bs.drop (lo - a)).take (hi - lo))) s'

/-! ### The step journal (R459 to R461) -/

/-- The 64 bytes of a journal entry (R459). -/
def JEntry.bytes64 (j : JEntry) : List Byte :=
  bytesAt j.bytes 0 32 ++ natLe 4 j.addr ++ natLe 1 (j.store + if j.redo then 4 else 0) ++ List.replicate 27 0#8

/-- Adds an entry to the journal, and its image to the weight store; the 1,025th makes the step unreplayable (R459,
R461). -/
def State.journalAdd (s : State) (k : Site) (j : JEntry) : State :=
  let c := s.core k
  if c.rep.unreplayable then s
  else if c.rep.journal.length ≥ 1024 then
    let s := s.setCore k { c with rep := { c.rep with unreplayable := true } }
    let p := s.panel k.panel
    if p.journalFull then s
    else
      let s := s.setPanel k.panel { p with journalFull := true }
      s.raise { code := 0x0210, cls := .note, kind := 0, loc := s.coreLoc k, iidx := c.rep.ckpt.bind (·.stepIdx) }
  else
    let c := if c.tab.span ≥ 65536 then c.wrRaw 1 (c.tab.span - 65536 + 64 * c.rep.journal.length) j.bytes64 else c
    s.setCore k { c with rep := { c.rep with journal := c.rep.journal ++ [j] } }

/-- Does a journal hold a sector's old contents? -/
def Core.saved (c : Core) (st a : Nat) : Bool := c.rep.journal.any fun j => !j.redo && j.store == st && j.addr == a

/-- The 32-byte sectors that `n` bytes touch. -/
def sectors (a n : Nat) : List Nat :=
  if n = 0 then [] else (List.range ((a + n - 1) / 32 - a / 32 + 1)).map fun i => 32 * (a / 32 + i)

/-- A program's write: old sectors are saved first, and a receive saves its data too (R460). -/
def State.jwrite (s : State) (k : Site) (st a : Nat) (bs : List Byte) (redo : Bool) : State :=
  let z := storeSize st
  let a := a % z
  let secs := (sectors a bs.length).map (· % z)
  let s := if (s.core k).rep.ckpt.isSome then
      secs.foldl (fun s x =>
        let c := s.core k
        if c.saved st x then s else s.journalAdd k ⟨st, x, c.rd st x 32, false⟩) s
    else s
  let s := s.putBytes k st a bs
  if redo && (s.core k).rep.ckpt.isSome then
    secs.foldl (fun s x => s.journalAdd k ⟨st, x, (s.core k).rd st x 32, true⟩) s
  else s

/-- Rollback: every undo entry written back, newest first; a frame's sector sends its guard update (R463). -/
def State.rollback (s : State) (k : Site) : State :=
  (s.core k).rep.journal.reverse.foldl (fun s j => if j.redo then s else s.putBytes k j.store j.addr j.bytes) s

end Sys2Proof.Machine
end

