-- ==== Sys2Proof/Machine/CoreRun.lean ====
section
/-! DEFINITION. How an instruction of a core ends: completion and signals (R100, R102), slot tags (R210, R211),
contained stops (R138, R175, R126, R187), step replay and its end in cohort loss (R458 to R466, R470). -/

namespace Sys2Proof.Machine

/-- How the issue of an instruction ends. -/
inductive Res where
  /-- it completed -/
  | ok (s : State)
  /-- it leaves its queue and completes later: an ALOAD in flight, a posted receive (R102, R143, R186) -/
  | later (s : State)
  /-- it cannot issue yet -/
  | wait
  /-- an illegal value, after the partial effects of `s` (R138, R148) -/
  | illegal (s : State)
  /-- an address outside a store window (`dest` false, store `st`) or a destination window (R41, R175) -/
  | region (s : State) (addr st : Nat) (dest : Bool)
  /-- a flit that breaks R126 or R188: payload word and index of the first -/
  | format (s : State) (payload idx : Nat)
  /-- a landing deadlock (R187) -/
  | landingFull
  /-- a detected error: event code, address, ARG1 of its record (R457, R465) -/
  | detected (s : State) (code addr arg1 : Nat)
  /-- a preset block exceeded its threshold: the rescaled entry and its new scale (R118) -/
  | rescale (s : State) (entry scale : Nat)
  deriving Repr

/-! ### Steps and checkpoints (R458) -/

/-- Has every instruction dispatched so far completed? -/
def Core.quiet (c : Core) : Bool :=
  c.aq.isEmpty && c.vq.isEmpty && c.tq.isEmpty && c.inflight.isNone && c.posted.isEmpty && c.heldSignals.isEmpty

/-- The registers, loops, index and tiles of a checkpoint (R458). -/
def Core.takeCkpt (c : Core) (idx : Nat) (stepIdx : Option Nat) : Checkpoint :=
  { v := c.v, s := c.s, a := c.a, p := c.p, t := c.t, loops := c.loops, idx := idx, stepIdx := stepIdx
    active := c.active.map fun t => (t.addr, t.mode)
    shadow := c.shadow.map fun t => (t.addr, t.mode) }

/-- A new step begins: a checkpoint, an empty journal, ledger and memo. -/
def Core.newStep (c : Core) (idx : Nat) (stepIdx : Option Nat) : Core :=
  { c with rep := { c.rep with
    ckpt := some (c.takeCkpt idx stepIdx), journal := [], unreplayable := false, lossMode := false, ledger := []
    sendPos := 0, memo := [], recvPos := 0, replays := 0, lastError := none } }

/-! ### Signals and slot tags (R100, R210) -/

/-- The tag of a slot (R210): untracked slots have none. -/
def Core.tagOf (c : Core) (slot : Nat) : Option SlotTag := (c.tags.find? (fun x => x.1 == slot)).map (·.2)
def Core.setTag (c : Core) (slot : Nat) (t : SlotTag) : Core := { c with tags := putK c.tags slot t }

/-- Tag changes when queue `q` completes an instruction with SE 1 (R210). -/
def Core.releaseTags (c : Core) (q : QueueId) : Core :=
  { c with tags := c.tags.map fun x =>
    let t := x.2
    match t.st with
    | .filling o => if o = q then (x.1, { t with st := .full, releases := 0, marked := [] }) else x
    | .full =>
      if q ∈ t.marked then
        let n := t.releases + 1
        let t' := { t with releases := n, marked := t.marked.filter (· ≠ q) }
        (x.1, if n ≥ t.readers then { t' with st := .empty, releases := 0, marked := [] } else t')
      else x
    | .empty => x }

/-- A signal: the count rises by 1, or waits at 255 and holds its queue (R100). -/
def Core.signal (c : Core) (q : QueueId) (t : Nat) : Core :=
  if c.tok t < 255 then c.setTok t (c.tok t + 1) else { c with heldSignals := c.heldSignals ++ [(q, t)] }

/-- An instruction completes: tags released in debug mode, then its signal (R100, R210). -/
def State.complete (s : State) (k : Site) (q : QueueId) (w : BitVec 56) : State :=
  if wSE w then
    let s := if s.debug then s.mapCore k (·.releaseTags q) else s
    s.mapCore k (·.signal q (wST w))
  else s

/-- The slots that `n` bytes of the activation store touch (R79, R210). -/
def slotsOf (a n : Nat) : List Nat :=
  if n = 0 then [] else (List.range ((a + n - 1) / 4096 - a / 4096 + 1)).map fun i => (a / 4096 + i) % 512

/-- A store access of an instruction. -/
structure Acc where
  wr : Bool
  st : Nat
  addr : Nat
  len : Nat
  deriving DecidableEq, Repr

/-- The first slot whose tag forbids an access of queue `q`: (true for SLOT_EMPTY_READ, slot) (R210). -/
def Core.tagFault (c : Core) (q : QueueId) (accs : List Acc) : Option (Bool × Nat) :=
  let probs := accs.flatMap fun x =>
    if x.st ≠ 0 then []
    else (slotsOf (x.addr % 2 ^ 21) x.len).filterMap fun sl =>
      match c.tagOf sl with
      | none => none
      | some t =>
        match t.st, x.wr with
        | .empty, false => some (true, sl)
        | .filling o, false => if o = q then none else some (true, sl)
        | .filling o, true => if o = q then none else some (false, sl)
        | .full, true => some (false, sl)
        | _, _ => none
  probs.head?

/-- The tag changes of an instruction's reads and writes (R210). -/
def Core.touchTags (c : Core) (q : QueueId) (accs : List Acc) : Core :=
  accs.foldl (fun c x =>
    if x.st ≠ 0 then c
    else (slotsOf (x.addr % 2 ^ 21) x.len).foldl (fun c sl =>
      match c.tagOf sl with
      | none => c
      | some t =>
        match t.st, x.wr with
        | .empty, true => c.setTag sl { t with st := .filling q, releases := 0, marked := [] }
        | .full, false => if q ∈ t.marked then c else c.setTag sl { t with marked := t.marked ++ [q] }
        | _, _ => c) c) c

/-! ### Contained stops -/

/-- A queue stops issuing. -/
def State.stopQueue (s : State) (k : Site) (q : QueueId) : State :=
  s.mapCore k fun c => { c with stopped := if q ∈ c.stopped then c.stopped else c.stopped ++ [q] }

/-- An illegal encoding met at decode or issue (R138). -/
def State.illegal (s : State) (k : Site) (q : QueueId) (e : QEntry) : State :=
  (s.stopQueue k q).raise { code := 0x0205, cls := .contained, kind := 0, loc := s.coreLoc k, iidx := some e.idx
                            arg0 := (wordOfOp e.op e.word).toNat, arg1 := q.num }

/-- An address outside a window (R41, R175): ARG0 the address or route word, ARG1 the store code or bit 2. -/
def State.outOfRegion (s : State) (k : Site) (q : QueueId) (e : QEntry) (addr st : Nat) (dest : Bool) : State :=
  (s.stopQueue k q).raise { code := 0x0206, cls := .contained, kind := 0, loc := s.coreLoc k, iidx := some e.idx
                            arg0 := addr, arg1 := if dest then 4 else st }

/-- A flit not as the receive expects (R126, R188). -/
def State.formatTag (s : State) (k : Site) (e : QEntry) (payload idx : Nat) : State :=
  (s.stopQueue k .transfer).raise { code := 0x0207, cls := .contained, kind := 0, loc := s.coreLoc k
                                    iidx := some e.idx, arg0 := payload + idx * 2 ^ 32 }

/-- A landing deadlock (R187). -/
def State.landingStop (s : State) (k : Site) (e : QEntry) : State :=
  (s.stopQueue k .transfer).raise { code := 0x0208, cls := .contained, kind := 0, loc := s.coreLoc k, iidx := some e.idx }

/-- A slot tag forbids the access: SLOT_EMPTY_READ or SLOT_OVERWRITE (R211). -/
def State.slotStop (s : State) (k : Site) (q : QueueId) (e : QEntry) (x : Bool × Nat) : State :=
  (s.stopQueue k q).raise { code := if x.1 then 0x0209 else 0x020A, cls := .contained, kind := 0, loc := s.coreLoc k
                            iidx := some e.idx, arg0 := x.2 + q.num * 2 ^ 9 }

/-! ### Cohort loss (R464, R468 to R470) -/

/-- The cohort a core processes in the tick in progress (R213). -/
def State.cohortOf (s : State) (k : Site) : Option Nat :=
  match s.tickNow, (s.core k).tab.assign with
  | some n, some a => if a.stage ≤ n then some (n - a.stage) else none
  | _, _ => none

/-- Stops the cores of a stage (R229, R470). -/
def State.stopStage (s : State) (stage : Nat) : State :=
  let s : State := { s with cores := s.cores.map fun e =>
    match e.2.tab.assign with
    | some a => if a.stage = stage then (e.1, { e.2 with halted := true }) else e
    | none => e }
  { s with tick := { s.tick with stalledStages :=
      if stage ∈ s.tick.stalledStages then s.tick.stalledStages else s.tick.stalledStages ++ [stage] } }

/-- Marks a cohort for loss at the next release and reports it, with the number of sequences that will rebuild; each is
noted with its first cause (R468, R469). -/
def State.markLost (s : State) (cohort iidx code loc : Nat) : State :=
  if s.errors.cohortsLost.any (fun x => x.1 = cohort) then s
  else
    let slots := ((s.serve.cohorts.filter fun c => c.n == cohort).flatMap fun c => c.rows.map (·.slot)).eraseDups
    let n := slots.countP fun q => s.serve.seqs.any fun x => x.slot == q && !x.state.terminal
    ({ s with errors := { s.errors with cohortsLost := s.errors.cohortsLost ++ [(cohort, iidx, code, loc, 0)] } } : State).raise
      { code := 0x0A01, cls := .contained, kind := 0, loc := loc, iidx := some iidx, count := n, arg0 := cohort, arg1 := code }

/-- The eighth consecutive tick of one cause at one core stops its stage (R470). -/
def State.persistent (s : State) (k : Site) (iidx code n : Nat) : State :=
  match (s.core k).tab.assign with
  | none => s
  | some a =>
    let s := s.stopStage a.stage
    let s := s.raise { code := 0x0A02, cls := .contained, kind := 0, loc := s.coreLoc k, iidx := some iidx, count := n
                       arg0 := code }
    s.observe k false Config.persistentLossTrigger.toNat

/-- A step goes to cohort loss: the core runs on without replay, its cohort is lost at the next release (R464, R468),
and the run of consecutive ticks is counted (R470). -/
def State.loseStep (s : State) (k : Site) (iidx code : Nat) : State :=
  let c := s.core k
  let t := s.tick.n
  let n := match c.rep.lossRun with
    | some (i, cd, last, m) =>
      if i = iidx ∧ cd = code then (if last = t then m else if last + 1 = t then m + 1 else 1) else 1
    | none => 1
  let fresh := match c.rep.lossRun with
    | some (i, cd, last, _) => !(i = iidx ∧ cd = code ∧ last = t)
    | none => true
  let s := s.setCore k { c with rep := { c.rep with lossMode := true, lossRun := some (iidx, code, t, n) } }
  let s := match s.cohortOf k with
    | some co => s.markLost co iidx code (s.coreLoc k)
    | none => s
  if n ≥ 8 && fresh then s.persistent k iidx code n else s

/-! ### Replay (R463 to R465) -/

/-- May the step replay for a detected error at an instruction and address (R464)? -/
def Core.mayReplay (c : Core) (iidx code addr : Nat) : Bool :=
  c.rep.ckpt.isSome && !c.rep.unreplayable && !c.rep.lossMode && decide (c.rep.replays < 4) &&
    !(c.rep.lastError == some (iidx, code, addr))

/-- Registers, tokens, loops and index of a checkpoint restored, and every queue and unposted receive abandoned; the
tiles are reloaded by `load` (R463). -/
def Core.restore (c : Core) (ck : Checkpoint) (load : Nat → TileMode → Option Tile) : Core :=
  { c with
    v := ck.v, s := ck.s, a := ck.a, p := ck.p, t := ck.t, loops := ck.loops, idx := ck.idx
    active := ck.active.bind fun x => load x.1 x.2
    shadow := ck.shadow.bind fun x => load x.1 x.2
    inflight := none, stream := [], aq := [], vq := [], tq := [], posted := [], heldSignals := []
    rep := { c.rep with journal := [], sendPos := 0, recvPos := 0, replays := c.rep.replays + 1 } }

/-- Rolls a core back to its checkpoint (R463). -/
def State.replayCore (s : State) (k : Site) (load : Core → Nat → TileMode → Option Tile) : State :=
  match (s.core k).rep.ckpt with
  | none => s
  | some ck =>
    let s := s.rollback k
    let c := s.core k
    (s.setCore k (c.restore ck (load c))).cause k.panel 2

/-- A replay after a detected error, with its REPLAYED record and its charge (R221, R463, R465). -/
def State.detectReplay (s : State) (k : Site) (load : Core → Nat → TileMode → Option Tile)
    (iidx code addr arg1 : Nat) : State :=
  let c := s.core k
  let undone := (c.rep.journal.filter fun j => !j.redo).length
  let extra := !s.rationOk k.panel ratDetect
  let s := s.replayCore k load
  let s := s.mapCore k fun c => { c with rep := { c.rep with lastError := some (iidx, code, addr) } }
  let s := if extra then (s.mapPanel k.panel fun p => { p with overRation := p.overRation + 1 }) else s
  let s := s.charge k.panel ratDetect 1
  s.raise { code := code, cls := .replayed, kind := 0, loc := s.coreLoc k, iidx := some iidx, count := undone
            arg0 := c.rep.replays + 1 + (if extra then 256 else 0), arg1 := arg1 }

end Sys2Proof.Machine
end

