-- ==== Sys2Proof/Machine/Flags.lean ====
section
/-! DEFINITION. Route and payload words of flits (R38, R39, R123), their checks (R37, R40), the reduction arithmetic with
its flags NANSEEN and OVF (R60, R61), the order of candidates (R65), and sticky status words (R528). -/

namespace Sys2Proof.Machine

/-! ### Ports -/

/-- The number of a port in the order of R61. -/
def portNum : Port → Nat
  | .here => 0
  | .north => 1
  | .east => 2
  | .south => 3
  | .west => 4
  | .sixth => 5

def allPorts : List Port := [.here, .north, .east, .south, .west, .sixth]

/-! ### Route words (R38) -/

def rMode (f : Flit) : Nat := bitsOf f.side.toNat 63 62
def rClass (f : Flit) : Nat := bitsOf f.side.toNat 61 60
def rCan (f : Flit) : Nat := bitsOf f.side.toNat 59 58
def rCol (f : Flit) : Nat := bitsOf f.side.toNat 57 50
def rRow (f : Flit) : Nat := bitsOf f.side.toNat 49 43
def rChan (f : Flit) : Nat := bitsOf f.side.toNat 42 37
def rOp (f : Flit) : Nat := bitsOf f.side.toNat 36 34
def rLast (f : Flit) : Bool := f.side.getLsbD 33
def payload (f : Flit) : Nat := bitsOf f.side.toNat 31 0

/-- Is the number of ones of the low `n` bits odd? -/
def oddOnes (n v : Nat) : Bool := (List.range n).foldl (fun acc i => acc != v.testBit i) false

/-- Side bits from their fields, RPAR set to even parity (R38). -/
def sideBits (mode cls can col row chan op : Nat) (last : Bool) (pay : Nat) : DWord :=
  let hi := mode * 2 ^ 30 + cls * 2 ^ 28 + can * 2 ^ 26 + col * 2 ^ 18 + row * 2 ^ 11 + chan * 2 ^ 5 + op * 2 ^ 2 +
    (if last then 2 else 0)
  BitVec.ofNat 64 ((hi + (if oddOnes 32 hi then 1 else 0)) * 2 ^ 32 + pay % 2 ^ 32)

/-- The check bits of a flit: even parities of its eight 72-bit groups, the side bits above the data bits (R37). -/
def checkBits (f : Flit) : Byte :=
  let v := f.data.toNat + f.side.toNat * 2 ^ 512
  BitVec.ofNat 8 ((List.range 8).foldl (fun acc n => if oddOnes 72 (v / 2 ^ (72 * n)) then acc + 2 ^ n else acc) 0)

/-- Is the route word one a router accepts: no reserved value, RPAR even, CLASS as the sideband says (R40)? -/
def routeOk (f : Flit) (sb : Sideband) : Bool :=
  let op := rOp f
  let opOk := match rMode f with
    | 0 | 1 => op == 0 || (op == 1 && rClass f ≥ 2)
    | 2 => op ≤ 5
    | _ => op == 0
  rCol f ≤ 155 && rRow f ≤ 95 && opOk && !oddOnes 32 (f.side.toNat / 2 ^ 32) && rClass f == sb.cls.toNat

/-! ### Payload words (R39, R123) -/

def pIndex (f : Flit) : Nat := bitsOf (payload f) 31 26
def pCount (f : Flit) : Nat := bitsOf (payload f) 25 10
def pNan (f : Flit) : Bool := bitOf (payload f) 9
def pOvf (f : Flit) : Bool := bitOf (payload f) 8
def pK (f : Flit) : Nat := bitsOf (payload f) 25 19
def pCohort (f : Flit) : Nat := bitsOf (payload f) 7 0
def pTag (f : Flit) : Nat := bitsOf (payload f) 31 28

/-- A reduce flit's payload word (R39). -/
def redPayload (index count : Nat) (nan ovf : Bool) : Nat :=
  index * 2 ^ 26 + count % 2 ^ 16 * 2 ^ 10 + (if nan then 2 ^ 9 else 0) + (if ovf then 2 ^ 8 else 0)

/-- A merge flit's payload word (R39). -/
def mrgPayload (index k : Nat) (nan : Bool) (cohort : Nat) : Nat :=
  index * 2 ^ 26 + k * 2 ^ 19 + (if nan then 2 ^ 9 else 0) + cohort % 256

/-- Scale bytes of one flit as FSEND reads them and FRECV writes them: bytes per flit of a tag (R182, R188). -/
def scaleBytes (tag : Nat) : Nat :=
  match tag with
  | 1 => 2
  | 2 => 1
  | 3 => 4
  | _ => 0

/-- The payload word of a data flit from its scale entry (R123, R182). -/
def dataPayload (tag : Nat) (entry : List Byte) : Nat :=
  let b (i : Nat) : Nat := (entry.getD i 0#8).toNat
  tag * 2 ^ 28 + (match tag with
    | 1 => b 0 + 256 * b 1
    | 2 => b 0
    | 3 => b 0 % 128 + b 1 % 128 * 2 ^ 7 + b 2 % 128 * 2 ^ 14 + b 3 % 128 * 2 ^ 21
    | _ => 0)

/-- The scale entry a data flit's payload word carries (R182, R188). -/
def payloadScale (tag pay : Nat) : List Byte :=
  match tag with
  | 1 => natLe 2 (pay % 2 ^ 16)
  | 2 => natLe 1 (pay % 256)
  | 3 => (List.range 4).map fun i => BitVec.ofNat 8 (pay / 2 ^ (7 * i) % 128)
  | _ => []

/-- Does a data flit pass R126: the expected tag, no reserved bit, legal scales (R112, R113)? -/
def dataOk (tag : Nat) (f : Flit) : Bool :=
  let p := payload f
  pTag f == tag &&
    (match tag with
    | 0 => p % 2 ^ 28 == 0
    | 1 => bitsOf p 27 15 == 0 && a8Legal (p % 2 ^ 15)
    | 2 => bitsOf p 27 7 == 0 && kvLegal (BitVec.ofNat 8 (p % 128))
    | 3 => (List.range 4).all fun i => kvLegal (BitVec.ofNat 8 (p / 2 ^ (7 * i) % 128))
    | _ => false)

/-- A flit's 64 bytes (R124), and the flit data of 64 bytes. -/
def flitBytes (f : Flit) : List Byte := natLe 64 f.data.toNat
def blockOfBytes (bs : List Byte) : Block := BitVec.ofNat 512 (leNat (bs.take 64))

/-! ### Reductions (R60, R61) -/

/-- Elements of a reduce flit as 32-bit values; BF16 elements widened (R60). -/
def redElems (op : Nat) (f : Flit) : List Word :=
  let bs := flitBytes f
  if op = 1 ∨ op = 4 then (List.range 32).map fun i => widenBF16 (BitVec.ofNat 16 (fieldAt bs (2 * i) 2))
  else wordsOf bs 16

/-- Elements packed into flit data (R60). -/
def packElems (op : Nat) (xs : List Word) : Block :=
  if op = 1 ∨ op = 4 then blockOfBytes (xs.flatMap fun x => natLe 2 (narrowBF16 x).toNat)
  else blockOfBytes (bytesOfWords xs)

/-- One step of the fixed-order combination: the result, and whether it met a NaN, and whether it produced an infinity
from finite operands or overflowed (R60, R61). INT32 sums are kept exact until the end. -/
def combine2 (op : Nat) (a b : Word) : Word × Bool × Bool :=
  match op with
  | 0 | 1 =>
    let x := ofF32 a
    let y := ofF32 b
    let r := toF32 (x.add y)
    (r, x.isNan || y.isNan, x.isFin && y.isFin && !(ofF32 r).isFin)
  | 2 => (a + b, false, decide (a.toInt + b.toInt ≠ (a + b).toInt))
  | 3 | 4 => (maxF32 a b, isNan32 a || isNan32 b, false)
  | _ => (if a.toInt < b.toInt then b else a, false, false)

/-- The combination of one element over the operands present, in port order (R61). For an INT32 sum OVF says that the
exact 64-bit sum does not fit (R60); a BF16 sum is rounded once at the end, which can itself give an infinity. -/
def combineElem (op : Nat) (xs : List Word) : Word × Bool × Bool :=
  if op = 2 then
    let e : Int := xs.foldl (fun acc x => acc + x.toInt) 0
    (wordOf e, false, decide (e < -2147483648 ∨ 2147483647 < e))
  else
    match xs with
    | [] => (0#32, false, false)
    | x :: r =>
      let q := r.foldl (fun acc y =>
        let c := combine2 op acc.1 y
        (c.1, acc.2.1 || c.2.1, acc.2.2 || c.2.2)) (x, (op = 0 ∨ op = 1 ∨ op = 3 ∨ op = 4) && isNan32 x, false)
      if op = 1 then
        let h := widenBF16 (narrowBF16 q.1)
        (h, q.2.1, q.2.2 || ((ofF32 q.1).isFin && !(ofF32 h).isFin))
      else q

/-- The flit a router combines from its inputs in port order (R61). -/
def combineFlits (fs : List Flit) : Flit :=
  match fs with
  | [] => ⟨0, 0, false⟩
  | f :: _ =>
    let op := rOp f
    let cols := fs.map (redElems op)
    let n := if op = 1 ∨ op = 4 then 32 else 16
    let rs := (List.range n).map fun i => combineElem op (cols.map fun c => c.getD i 0#32)
    let nan := fs.any pNan || rs.any (·.2.1)
    let ovf := fs.any pOvf || rs.any (·.2.2)
    let count := fs.foldl (fun acc g => acc + pCount g) 0
    let hi := f.side.toNat / 2 ^ 32
    { data := packElems op (rs.map (·.1))
      side := BitVec.ofNat 64 (hi * 2 ^ 32 + redPayload (pIndex f) count nan ovf)
      poisoned := fs.any (·.poisoned) }

/-! ### Candidates (R65) -/

/-- Candidate order: descending value, ±0 equal, ties by ascending index, a NaN after every other value (R65). -/
def candBefore (a b : Cand) : Bool :=
  match isNan32 a.val, isNan32 b.val with
  | true, true => decide (a.idx ≤ b.idx)
  | true, false => false
  | false, true => true
  | false, false =>
    let c := (ofF32 a.val).cmp (ofF32 b.val)
    if c = 0 then decide (a.idx ≤ b.idx) else decide (0 < c)

/-- Inserts a candidate into an ordered list, after candidates equal to it. -/
def insertCand (x : Cand) : List Cand → List Cand
  | [] => [x]
  | y :: r => if candBefore y x then y :: insertCand x r else x :: y :: r

/-- A list in candidate order (R65). -/
def sortCands (l : List Cand) : List Cand := l.foldl (fun acc x => insertCand x acc) []

/-- The candidate that pads a list: −∞ and index 0xFF_FFFF (R65). -/
def padCand : Cand := ⟨0xFF800000#32, 0xFFFFFF⟩

/-- The first K candidates, padded to K. -/
def topK (k : Nat) (l : List Cand) : List Cand :=
  let t := (sortCands l).take k
  t ++ List.replicate (k - t.length) padCand

/-- The 8 bytes of a candidate, and the candidate of 8 bytes (R65). -/
def candBytes (c : Cand) : List Byte := natLe 4 c.val.toNat ++ natLe 4 c.idx
def candOf (v : Nat) : Cand := ⟨BitVec.ofNat 32 v, bitsOf v 55 32⟩

/-- The candidates of a merge flit. -/
def flitCands (f : Flit) : List Cand := (List.range 8).map fun i => candOf (fieldAt (flitBytes f) (8 * i) 8)

/-- The flits of a list of K candidates: ⌈K ÷ 8⌉ of them (R65), with the route fields of `side` (MODE merge). -/
def listFlits (can col row tree k cohort : Nat) (l : List Cand) : List Flit :=
  let n := ceilDiv k 8
  let nan := l.any fun c => isNan32 c.val
  (List.range n).map fun i =>
    let cs := (List.range 8).map fun j => l.getD (8 * i + j) padCand
    { data := blockOfBytes (cs.flatMap candBytes)
      side := sideBits 3 1 can col row tree 0 (i + 1 == n) (mrgPayload i k nan cohort)
      poisoned := false }

/-! ### Sticky status words (R528) -/

/-- A write to a status register of access SQ: equal SEQ clears every sticky bit, any other value changes nothing. -/
def sqClear (seq : Nat) (value : Word) : Bool := value.toNat / 2 ^ 16 == seq

end Sys2Proof.Machine
end

