-- ==== Sys2Proof/Machine/GuyLink.lean ====
section
/-! DEFINITION. The transmit side of a guy link: frame headers and CRC (R379 to R381), the choice of the next frame
(R386, R388, R400), the retry buffer (R383) and LINK frames (R393). -/

namespace Sys2Proof.Machine

/-! ### CRC-32C (R381) -/

/-- One byte into the reflected CRC register. -/
def crcByte (crc : Word) (b : Byte) : Word :=
  (List.range 8).foldl (fun c _ => if c.getLsbD 0 then (c >>> 1) ^^^ 0x82F63B78#32 else c >>> 1) (crc ^^^ b.zeroExtend 32)

/-- CRC-32C of bytes: initial value and final XOR all ones. -/
def crc32c (bs : List Byte) : Word := (bs.foldl crcByte 0xFFFFFFFF#32) ^^^ 0xFFFFFFFF#32

/-! ### Header words (R379) -/

def fType (f : Frame) : Nat := bitsOf f.header.toNat 3 0
def fSeq (f : Frame) : Nat := bitsOf f.header.toNat 15 4
def fAck (f : Frame) : Nat := bitsOf f.header.toNat 27 16
def fNak (f : Frame) : Bool := f.header.getLsbD 28
def fNb (f : Frame) : Nat := bitsOf f.header.toNat 35 29
def fLast (f : Frame) : Bool := f.header.getLsbD 36
def fChan (f : Frame) : Nat := bitsOf f.header.toNat 42 37
def fTag (f : Frame) : Nat := bitsOf f.header.toNat 46 43
def fCredit (f : Frame) : Nat := bitsOf f.header.toNat 54 47
def fCcl (f : Frame) : Nat := bitsOf f.header.toNat 56 55

def typStage : Nat := 1
def typControl : Nat := 2
def typBulk : Nat := 3
def typLink : Nat := 4

/-- The class a sequenced frame's credits belong to: 0 STAGE, 1 CONTROL, 2 BULK (R386). -/
def classOf (typ : Nat) : Nat := typ - 1

/-- A header word from its fields. -/
def headerOf (typ seq ack : Nat) (nak : Bool) (nb : Nat) (last : Bool) (chan tag credit ccl : Nat) : DWord :=
  BitVec.ofNat 64 (typ + seq * 2 ^ 4 + ack * 2 ^ 16 + (if nak then 2 ^ 28 else 0) + nb * 2 ^ 29 +
    (if last then 2 ^ 36 else 0) + chan * 2 ^ 37 + tag * 2 ^ 43 + credit * 2 ^ 47 + ccl * 2 ^ 55)

/-- Payload-word blocks of a STAGE frame (R380). -/
def payBlocks (typ tag nb : Nat) : Nat := if typ = typStage ∧ tag ≠ 0 then ceilDiv nb 16 else 0

/-- Blocks a frame carries, payload-word blocks included (R379, R380, R386). -/
def frameBlocks (f : Frame) : Nat := fNb f + payBlocks (fType f) (fTag f) (fNb f)

/-- The bytes a CRC covers: header word and blocks in stream order (R381). -/
def linkBytes (f : Frame) : List Byte := natLe 8 f.header.toNat ++ f.blocks.flatMap fun b => natLe 64 b.toNat

/-- A frame with its trailer (R381). -/
def sealFrame (h : DWord) (blocks : List Block) : Frame :=
  let f : Frame := { header := h, blocks := blocks, trailer := 0 }
  { f with trailer := (crc32c (linkBytes f)).zeroExtend 64 }

/-- Does a frame keep R379 to R381: a known type, its block counts and reserved fields, its CRC? -/
def crcOk (f : Frame) : Bool := f.trailer == (crc32c (linkBytes f)).zeroExtend 64

def headerOk (f : Frame) : Bool :=
  let t := fType f
  let nb := fNb f
  decide (1 ≤ t) && t ≤ 4 && f.header.toNat / 2 ^ 57 == 0 && fCcl f ≤ 2 &&
    (if t = typLink then fSeq f == 0 && nb ≤ 1 else if t = typControl then nb == 1 else decide (1 ≤ nb) && nb ≤ 64) &&
    (t == typBulk || fLast f) && (t == typStage || t == typBulk || fChan f == 0) && (t == typStage || fTag f == 0) &&
    fTag f ≤ 3 && f.blocks.length == frameBlocks f

/-! ### Sending -/

/-- Is a link up for sequenced traffic: trained and not down (R398, R399)? -/
def Guy.up (g : Guy) : Bool := g.width != 0 && g.training == .none

/-- The ACK a header carries: the last frame accepted (R379). -/
def Guy.ackOut (g : Guy) : Nat := (g.expect + 4095) % 4096

/-- Credit returned in the next header: the first class with blocks freed (R379). -/
def Guy.creditOut (g : Guy) : Nat × Nat :=
  let n (i : Fin 3) : Nat := min 255 (g.freed.get i)
  if 0 < n 0 then (0, n 0) else if 0 < n 1 then (1, n 1) else (2, n 2)

/-- The link after a header returned its credit: the blocks are granted again to the partner. -/
def Guy.returned (g : Guy) : Guy :=
  let c := g.creditOut
  let i : Fin 3 := if c.1 = 0 then 0 else if c.1 = 1 then 1 else 2
  { g with freed := g.freed.set i (g.freed.get i - c.2), granted := g.granted.set i (g.granted.get i + c.2) }

/-- Sends a LINK frame at once, on a link that is up: with a marker or HELLO block, or bare to acknowledge (R383, R393). -/
def Guy.sendLink (g : Guy) (now : Nat) (nak : Bool) (blk : Option Block) : Guy :=
  if !g.up then g
  else
  let c := g.creditOut
  let f := sealFrame (headerOf typLink 0 g.ackOut nak (if blk.isSome then 1 else 0) true 0 0 c.2 c.1) blk.toList
  { g.returned with out := g.out ++ [f], owesAck := false, lastTxAt := now }

/-- May a frame go in low-rate mode (R400): CONTROL, or a BULK answer NOT_HELD? -/
def lowRateOk (f : Frame) : Bool :=
  fType f == typControl || (fType f == typBulk && (f.blocks.head?.map fun b => b.toNat % 256) == some 3)

/-- May a waiting frame be sent now: credits for its blocks, room in the retry buffer, the rate allows it (R383, R386,
R400)? -/
def Guy.maySend (g : Guy) (f : Frame) : Bool :=
  let i := classOf (fType f)
  let kept := g.retry.foldl (fun acc r => acc + 16 + 64 * r.frame.blocks.length) 0
  frameBlocks f ≤ g.credits.toList.getD i 0 && g.retry.length < 2047 && kept + 16 + 64 * f.blocks.length ≤ 262144 &&
    (!g.lowRate || lowRateOk f)

/-- The waiting frame to send next: CONTROL, STAGE, BULK, but BULK at the eighth choice (R388); none may pass an earlier
frame of its class. -/
def Guy.choose (g : Guy) : Option Frame :=
  let firstOf (t : Nat) : Option Frame :=
    match g.waiting.find? (fun f => fType f == t) with
    | some f => if g.maySend f then some f else none
    | none => none
  let bulk := firstOf typBulk
  if g.sinceBulk ≥ 7 && bulk.isSome then bulk
  else
    match firstOf typControl with
    | some f => some f
    | none =>
      match firstOf typStage with
      | some f => some f
      | none => bulk

/-- Sends one frame: its SEQ, ACK and returned credit set, kept for retry (R382, R383). -/
def Guy.transmit (g : Guy) (now : Nat) (f : Frame) : Guy :=
  let c := g.creditOut
  let h := headerOf (fType f) g.nextSeq g.ackOut false (fNb f) (fLast f) (fChan f) (fTag f) c.2 c.1
  let f' := sealFrame h f.blocks
  let i := classOf (fType f)
  { g.returned with
    waiting := g.waiting.erase f
    out := g.out ++ [f']
    retry := g.retry ++ [{ seq := g.nextSeq, frame := f', times := 0 }]
    credits := g.credits.setIfInBounds i (g.credits.toList.getD i 0 - frameBlocks f)
    nextSeq := (g.nextSeq + 1) % 4096
    lastAckAt := if g.retry.isEmpty then now else g.lastAckAt
    sinceBulk := if fType f = typBulk then 0 else g.sinceBulk + 1
    owesAck := false, lastTxAt := now }

/-- Sends waiting frames while it may; none passes frames awaiting retransmission (R384, R386, R388). -/
def Guy.pump (now : Nat) : Nat → Guy → Guy
  | 0, g => g
  | n + 1, g =>
    if !g.up || g.rewind.isSome then g
    else
      match g.choose with
      | some f => Guy.pump now n (g.transmit now f)
      | none => g

/-- Queues a sequenced frame and sends what may be sent. -/
def State.guySend (s : State) (l typ : Nat) (last : Bool) (chan tag nb : Nat) (blocks : List Block) : State :=
  s.mapGuy l fun g =>
    let f : Frame := { header := headerOf typ 0 0 false nb last chan tag 0 0, blocks := blocks, trailer := 0 }
    let g := { g with waiting := g.waiting ++ [f] }
    Guy.pump s.time g.waiting.length g

/-- Sends a CONTROL block (R395 to R397, R469). -/
def State.guyControl (s : State) (l : Nat) (b : Block) : State := s.guySend l typControl true 0 0 1 [b]

/-- A message at a port gateway as one STAGE frame on the partner's tree (R380, R389). -/
def State.guyStage (s : State) (l partnerTree : Nat) (fs : List Flit) : State :=
  let tag := (fs.head?.map pTag).getD 0
  let n := fs.length
  let pays := if tag = 0 then [] else
    (List.range (ceilDiv n 16)).map fun b =>
      blockOfBytes ((List.range 16).flatMap fun i => natLe 4 ((fs[16 * b + i]?.map payload).getD 0))
  s.guySend l typStage true partnerTree tag n (fs.map (·.data) ++ pays)

/-- The panel that holds a link's port gateway, and its edge: 1 north, 2 east, 3 south, 4 west (R58). -/
def guyGate (l : Nat) : Nat × Nat :=
  match l with
  | 0 => (panelAt 0 5 0, 1)
  | 1 => (panelAt 0 0 3, 4)
  | 2 => (panelAt 1 6 0, 1)
  | 3 => (panelAt 1 11 3, 2)
  | 4 => (panelAt 2 5 7, 3)
  | 5 => (panelAt 2 0 4, 4)
  | 6 => (panelAt 3 6 7, 3)
  | _ => (panelAt 3 11 4, 2)

def guyPanel (l : Nat) : Nat := (guyGate l).1

/-- The boundary router of a link's gateway at a panel-local index (R58, R390). -/
def gateRouter (l i : Nat) : Site :=
  let g := guyGate l
  match g.2 with
  | 1 => ⟨g.1, i, 0⟩
  | 3 => ⟨g.1, i, 11⟩
  | 2 => ⟨g.1, 12, i⟩
  | _ => ⟨g.1, 0, i⟩

/-- The port of a gateway's boundary router that faces it. -/
def gatePort (l : Nat) : Port :=
  match (guyGate l).2 with
  | 1 => .north
  | 2 => .east
  | 3 => .south
  | _ => .west

/-- The link whose gateway a boundary router's port faces, if one does (R58). -/
def linkAt (k : Site) (p : Port) : Option Nat :=
  (List.range 8).find? fun l => gatePort l == p && ([2, 6, 10].any fun i => gateRouter l i == k)

end Sys2Proof.Machine
end

