-- ==== Sys2Proof/Machine/Barrier.lean ====
section
/-! DEFINITION. Stage-done, late stages and extension records (R214, R215, R226, R227), tick markers on group links
(R230, R393, R396), and freezes (R520, R522). -/

namespace Sys2Proof.Machine

/-! ### The tick's windows (R214) -/

/-- The length of the slack window. -/
def slackNs (l : Loaded) : Nat := max (ceilDiv (l.pkg.slack * l.t) 1000) 320

/-- Stages of the loaded plan. -/
def State.stageCount (s : State) : Nat := match s.loaded with
  | some l => l.plan.stages.length
  | none => 0

/-- Have all stages signalled stage-done (R215)? -/
def State.allDone (s : State) : Bool := (List.range s.stageCount).all fun g => s.tick.stageDone.any (·.1 == g)

/-- Have all cores assigned to a stage reached their barrier (R215)? -/
def State.stageAtBarrier (s : State) (stage : Nat) : Bool :=
  s.cores.all fun e => match e.2.tab.assign with
    | some a => a.stage != stage || e.2.atBarrier
    | none => true

/-- Are the image's shards in place and verified (R212, R247)? -/
def State.shardsReady (s : State) : Bool := s.weights.fetches.all fun f => f.why != .load

/-! ### Extension and late records (R227) -/

/-- PANEL of an extension record: canopy, panel column, panel row. -/
def panelWord (p : Nat) : Nat := canopyOf p + pcolOf p * 2 ^ 2 + prowOf p * 2 ^ 6

/-- A record put into the ring of 1,024; the oldest is overwritten and counted. -/
def State.pushExt (s : State) (x : ExtRec) : State :=
  let full := s.regs.extRing.length ≥ 1024
  { s with regs := { s.regs with
      extRing := (if full then s.regs.extRing.drop 1 else s.regs.extRing) ++ [x]
      extWr := (s.regs.extWr + 1) % 2 ^ 32
      modSticky := if full then s.regs.modSticky ||| 0b100#3 else s.regs.modSticky
      extOvf := if full then min (s.regs.extOvf + 1) 0xFFFFFFFF else s.regs.extOvf } }

/-- A stage that signals after the work window's end counts late, with a late record (R226). -/
def State.lateStage (s : State) (stage panel : Nat) : State :=
  match s.loaded with
  | none => s
  | some l =>
    if s.tick.running ∧ s.tick.start + l.t - slackNs l < s.time then
      let s : State := { s with regs := { s.regs with
          lateCnt := putK s.regs.lateCnt stage (min (getK s.regs.lateCnt stage 0 + 1) 0xFFFFFFFF) } }
      s.pushExt { tick := s.tick.n, start := s.tick.start, extNs := 0, causes := (s.panel panel).causes
                  stage := stage, hold := 0, link := 0xFF, panel := panelWord panel }
    else s

/-! ### Tick markers (R230, R393, R396) -/

/-- The links of the tick group latched at a chained load (R539). -/
def State.groupLinks (s : State) : List Nat :=
  match s.regs.groupIn with
  | some g => (List.range 8).filter fun l => g.1.getLsbD l
  | none => []

/-- The group identifier in force, 0 outside a group. -/
def State.gid (s : State) : Nat := match s.regs.groupIn with
  | some g => g.2.1
  | none => 0

/-- A LINK block (R393). -/
def linkBlock (mtype hold tick ack modid gid nextseq gs gc gb : Nat) : Block :=
  BitVec.ofNat 512 (mtype + hold * 2 ^ 8 + tick * 2 ^ 32 + ack * 2 ^ 96 + modid * 2 ^ 160 + gid * 2 ^ 224 +
    nextseq * 2 ^ 256 + gs * 2 ^ 268 + gc * 2 ^ 284 + gb * 2 ^ 300)

/-- Sends a TICK (1) or HELD (2) marker on a link. -/
def State.sendMarker (s : State) (l mtype hold tick : Nat) : State :=
  let b := linkBlock mtype hold tick (s.guy l).highest s.flash.modId.toNat s.gid 0 0 0 0
  s.mapGuy l fun g => { g.sendLink s.time false (some b) with marker := some (mtype, hold, tick), markerAt := s.time }

/-- Is the loaded package chained? -/
def State.chained (s : State) : Bool := match s.loaded with
  | some l => l.pkg.chained
  | none => false

/-- Tells the group of each cohort lost here that it has not been told of: a LOSS block on every group link (R469). -/
def State.sendLosses (s : State) : State :=
  if !s.chained then s
  else
    let s := (s.errors.cohortsLost.filter fun x => x.2.2.2.2 == 0).foldl (fun s x =>
      s.groupLinks.foldl (fun s l => s.guyControl l (BitVec.ofNat 512 (4 + x.1 * 2 ^ 64))) s) s
    { s with errors := { s.errors with cohortsLost := s.errors.cohortsLost.map fun x => (x.1, x.2.1, x.2.2.1, x.2.2.2.1, 1) } }

/-- Sends the marker of the tick in progress once all stages have signalled, or the marker of tick −1 once the cores wait
and the shards are verified (R230, R396). -/
def State.markDone (s : State) : State :=
  if !s.chained || !s.allDone || s.stageCount == 0 then s
  else if s.tick.running then
    let s := s.sendLosses
    s.groupLinks.foldl (fun s l => s.sendMarker l 1 0 s.tick.n) s
  else if s.shardsReady then s.groupLinks.foldl (fun s l => s.sendMarker l 1 0 (2 ^ 64 - 1)) s
  else s

/-! ### Freezes (R520, R522) -/

/-- The clocks stop. -/
def State.freezeNow (s : State) : State :=
  { s with freeze := { s.freeze with state := .frozen, since := s.time, stopTime := s.time } }

/-- A pending tick-aligned freeze stops the clocks once every stage has signalled and every other hold's work is done
(R520, R524). -/
def State.freezeSettle (s : State) : State :=
  if s.freeze.state == .pending && s.allDone && s.holds.all (fun h => h.reason == 4) then s.freezeNow else s

/-- The sources of a freeze. -/
inductive FreezeSource where
  | pin | viumond | breakpoint
  deriving DecidableEq, Repr

/-- A freeze request: recorded as a source; it stops the clocks at once or places the hold of reason 4 (R520, R524). -/
def State.requestFreeze (s : State) (src : FreezeSource) (immediate : Bool) : State :=
  let f := match src with
    | .pin => { s.freeze with spin := true }
    | .viumond => { s.freeze with sviu := true }
    | .breakpoint => { s.freeze with sbrk := true }
  let s : State := { s with freeze := f }
  match s.freeze.state with
  | .frozen | .dead => s
  | .pending => if immediate then s.freezeNow else s
  | .running =>
    if immediate then s.freezeNow
    else
      let s := s.placeHold 4
      ({ s with freeze := { s.freeze with state := .pending } } : State).freezeSettle

/-! ### Stage-done (R206, R215, R274) -/

/-- Close markers of a core to the parity cores it updated in the tick (R274). -/
def State.closeMarks (s : State) (k : Site) : State :=
  let c := s.core k
  let ms := c.guardTouched.map fun d => (⟨d, k, s.tick.n⟩ : CloseMsg)
  { s.setCore k { c with guardTouched := [] } with
    transit := { s.transit with closes := s.transit.closes ++ ms } }

/-- A core's BARR has found every queue complete: it signals stage-done and waits; the last core of a stage makes the
stage's own signal (R206, R215, R226, R230). -/
def State.coreDone (s : State) (k : Site) : State :=
  let s := (s.mapCore k fun c => { c with atBarrier := true }).closeMarks k
  match (s.core k).tab.assign with
  | none => s
  | some a =>
    if s.stageAtBarrier a.stage && !(s.tick.stageDone.any (·.1 == a.stage)) then
      let s : State := { s with tick := { s.tick with stageDone := s.tick.stageDone ++ [(a.stage, s.time, k.panel)] } }
      ((s.lateStage a.stage k.panel).markDone).freezeSettle
    else s

end Sys2Proof.Machine
end

