-- ==== Sys2Proof/Machine/Array.lean ====
section
/-! DEFINITION. The array: tiles and their loading (R82 to R85, R92, R143 to R146, R156, R157), streams (R86, R87, R93,
R94, R147 to R151), ADRAIN (R152) and the activity ramp (R90). -/

namespace Sys2Proof.Machine

/-! ### Tiles -/

/-- The mode of ALOAD's MODE field (R144). -/
def tileMode : Nat → TileMode
  | 0 => .t158
  | 1 => .w2
  | 2 => .w4
  | 3 => .w8
  | 4 => .e4m3
  | 5 => .e5m2
  | 6 => .bf16hi
  | _ => .bf16lo

/-- Is the source a 1 KiB BF16 block (R145)? -/
def TileMode.isBF16 : TileMode → Bool
  | .bf16hi | .bf16lo => true
  | _ => false

/-- FP8 or BF16: integer accumulation is illegal (R148). -/
def TileMode.isFloat : TileMode → Bool
  | .e4m3 | .e5m2 | .bf16hi | .bf16lo => true
  | _ => false

def TileMode.sourceBytes (m : TileMode) : Nat := if m.isBF16 then 1024 else 512

/-- Output columns of a mode (R85). -/
def TileMode.outs : TileMode → Nat
  | .t158 | .w2 => 64
  | .w4 => 32
  | _ => 16

/-- The 2-bit code of cell (i, j) in the tile's bytes (R82). -/
def cellCode (bs : List Byte) (i j : Nat) : Nat :=
  let b := (bs.getD (16 * i + j / 4) 0#8).toNat
  b / 2 ^ (6 - 2 * (j % 4)) % 4

/-- A slice's value under an interpretation (R84). -/
def oddVal : Nat → Int
  | 0 => -3
  | 1 => -1
  | 2 => 1
  | _ => 3
def ternVal : Nat → Int
  | 0 => 0
  | 1 => 1
  | 2 => 0
  | _ => -1
def signedVal : Nat → Int
  | 0 => 0
  | 1 => 1
  | 2 => -2
  | _ => -1

/-- The value of cell (i, j) (R84, R85). -/
def sliceVal (m : TileMode) (bs : List Byte) (i j : Nat) : Int :=
  let c := cellCode bs i j
  match m with
  | .t158 => ternVal c
  | .w2 => oddVal c
  | .w4 => if j % 2 = 0 then signedVal c else c
  | _ => if j % 4 = 0 then signedVal c else c

/-- The code of output column k in cell row i: Σ mⱼ vᵢⱼ over the column's group (R85). -/
def outCode (m : TileMode) (bs : List Byte) (i k : Nat) : Int :=
  match m with
  | .t158 | .w2 => sliceVal m bs i k
  | .w4 => 4 * sliceVal m bs i (2 * k) + sliceVal m bs i (2 * k + 1)
  | _ => 64 * sliceVal m bs i (4 * k) + 16 * sliceVal m bs i (4 * k + 1) + 4 * sliceVal m bs i (4 * k + 2)
      + sliceVal m bs i (4 * k + 3)

def sumInt (xs : List Int) : Int := xs.foldl (· + ·) 0

/-- The checksum column c (R92). -/
def chkColOf (m : TileMode) (bs : List Byte) : List Int :=
  (List.range 32).map fun i => sumInt ((List.range m.outs).map (outCode m bs i))
/-- The checksum row r (R92). -/
def chkRowOf (m : TileMode) (bs : List Byte) : List Int :=
  (List.range 64).map fun j => sumInt ((List.range 32).map fun i => sliceVal m bs i j)

/-- A tile with the checksums of its codes (R92). -/
def mkTile (m : TileMode) (addr : Nat) (bs : List Byte) (exps : List Int) : Tile :=
  let cc := chkColOf m bs
  { mode := m, addr := addr, data := bs, colExp := exps, chkCol := cc, chkRow := chkRowOf m bs, corner := sumInt cc }

/-- Sign, effective exponent and significand of an FP8 element (R156). -/
def fp8Parts (e4 : Bool) (b : Byte) : Bool × Nat × Nat :=
  let v := b.toNat
  let ex := if e4 then v / 8 % 16 else v / 4 % 32
  let fr := if e4 then v % 8 else v % 4
  (b.getLsbD 7, max 1 ex, fr + (if ex = 0 then 0 else if e4 then 8 else 4))

/-- One FP8 column converted to codes, with its column exponent (R156). -/
def fp8Column (e4 : Bool) (xs : List Byte) : List Int × Int :=
  let ps := xs.map (fp8Parts e4)
  let f := ps.foldl (fun acc p => if p.2.2 = 0 then acc else max acc p.2.1) 1
  let d : Int := if e4 then 3 else 4
  (ps.map fun p => rheInt p.1 p.2.2 ((p.2.1 : Int) - f + d), (f : Int) - (if e4 then 13 else 21))

/-- Codes of 16 columns of 32 rows as a tile's bytes in the W8 placement (R82). -/
def packW8 (cols : List (List Int)) : List Byte :=
  (List.range 32).flatMap fun i => (List.range 16).map fun k => codeByte ((cols.getD k []).getD i 0)

/-- The tile loader (R145, R146, R156, R157): a tile from its source bytes, or none where it refuses the source. -/
def loadTile (m : TileMode) (addr : Nat) (src : List Byte) : Option Tile :=
  let zeros : List Int := List.replicate 64 0
  match m with
  | .t158 =>
    if (List.range 512).any fun n => (List.range 4).any fun j => cellCode src (n / 16) (4 * (n % 16) + j) == 2 then none
    else some (mkTile m addr src zeros)
  | .w2 | .w4 | .w8 => some (mkTile m addr src zeros)
  | .e4m3 | .e5m2 =>
    let e4 := m == .e4m3
    if src.any fun b => !(if e4 then ofE4M3 b else ofE5M2 b).isFin then none
    else
      let cs := (List.range 16).map fun k => fp8Column e4 ((List.range 32).map fun i => src.getD (16 * i + k) 0#8)
      some (mkTile m addr (packW8 (cs.map (·.1))) (cs.map (·.2)))
  | .bf16hi | .bf16lo =>
    let el (i k : Nat) : BitVec 16 := BitVec.ofNat 16 (fieldAt src (32 * i + 2 * k) 2)
    if (List.range 32).any fun i => (List.range 16).any fun k => (el i k).toNat / 128 % 256 == 255 then none
    else
      let cs := (List.range 16).map fun k => bf16Split ((List.range 32).map fun i => el i k)
      let hi := m == .bf16hi
      some (mkTile m addr (packW8 (cs.map fun c => c.2.map fun p => if hi then p.1 else p.2))
        (cs.map fun c => (c.1 : Int) - (if hi then 133 else 140)))

/-- The tile at an address of the weight store, as a replay reloads it (R463). -/
def Core.reload (c : Core) (addr : Nat) (m : TileMode) : Option Tile := loadTile m addr (c.rd 1 addr m.sourceBytes)

/-! ### Positions (R88, R143, R149) -/

/-- An arrived tile moves from the in-flight to a free shadow position, which completes its ALOAD (R143). -/
def State.promote (s : State) (k : Site) : State :=
  let c := s.core k
  match c.inflight, c.shadow with
  | some fl, none =>
    match fl.tile with
    | some t => (s.setCore k { c with shadow := some t, inflight := none }).complete k .array fl.entry.word
    | none => s
  | _, _ => s

/-- ALOAD (R144, R145). -/
def opAload (s : State) (k : Site) (e : QEntry) : Res :=
  let c := s.core k
  let m := tileMode (fld e.word 21 18)
  let addr := ((e.aReg (fld e.word 41 38)).toNat + 512 * fld e.word 37 22) % 2 ^ 24
  if c.inflight.isSome then .wait
  else if addr % m.sourceBytes ≠ 0 then .illegal s
  else if !c.inWindow 1 addr m.sourceBytes then .region s addr 1 false
  else .later (s.setCore k { c with inflight := some { entry := e, addr := addr, mode := m, tile := none } })

/-! ### Streams -/

/-- The 32 signed codes of a line (R86). -/
def rowCodes (bs : List Byte) : List Int := bs.map (·.toInt)

/-- Yₖ of a row: Σᵢ aᵢ wᵢₖ (R85). -/
def dotCol (t : Tile) (a : List Int) (k : Nat) : Int :=
  sumInt ((List.range 32).map fun i => a.getD i 0 * outCode t.mode t.data i k)

/-- Does a comparison of R93 fail for a row? -/
def rowFails (t : Tile) (a : List Int) : Bool :=
  let y64 := sumInt ((List.range 32).map fun i => a.getD i 0 * t.chkCol.getD i 0)
  let ys := sumInt ((List.range t.mode.outs).map (dotCol t a))
  y64 != ys || t.chkRow != chkRowOf t.mode t.data || t.corner != sumInt t.chkCol

/-- An accumulate operation on an entry (R87). -/
def accumulate (acc : Nat) (e : Word) (y : Int) (ex : Int) (sr sc : Word) : Word :=
  let p := (((Fp.ofInt y).mul (Fp.pow2 ex)).mul (ofF32 sr)).mul (ofF32 sc)
  match acc with
  | 0 => wordOf y
  | 1 => wordOf (e.toInt + y)
  | 2 => toF32 p
  | _ => toF32 (p.add (ofF32 e))

/-- The FP32 pattern of 1.0. -/
def one32 : Word := 0x3F800000#32

/-- The address of row t's line and of its scale entry (R148). -/
def streamLine (e : QEntry) (t : Nat) : Nat := (actAddr (e.aReg (fld e.word 41 38)) + 32 * 2 ^ fld e.word 10 7 * t) % 2 ^ 21
def streamScale (e : QEntry) (t : Nat) : Nat := (actAddr (e.aReg (fld e.word 37 34)) + 2 * 2 ^ fld e.word 6 5 * t) % 2 ^ 21

/-- One row's codes and scale, none for an illegal scale entry (R148). -/
def Core.streamRow (c : Core) (e : QEntry) (t : Nat) : List Int × Option Word :=
  let a := rowCodes (c.rd 0 (streamLine e t) 32)
  if flag e.word 4 then (a, some one32)
  else
    let h := leNat (c.rd 0 (streamScale e t) 2)
    (a, if a8Legal h then some (a8Word h) else none)

/-- Writes the outputs of one row to a partial-sum line (R87, R148); entries beyond them are unchanged. -/
def State.writeRow (s : State) (k : Site) (line acc : Nat) (tile : Tile) (a : List Int) (sr : Word) (sc : VReg) : State :=
  let old := (s.core k).line line
  let ys := (List.range tile.mode.outs).map fun j =>
    accumulate acc (old.getD j 0#32) (dotCol tile a j) (tile.colExp.getD j 0) sr (lane sc j)
  s.jwrite k 2 (lineAddr line) (bytesOfWords ys) false

/-- Rows t, t + 1, … of a stream (R94, R148): the first failed comparison or illegal scale ends it. -/
def streamRows (k : Site) (e : QEntry) (tile : Tile) (sc : VReg) (acc : Nat) (ign : Bool) : Nat → Nat → State → Res
  | 0, _, s => .ok s
  | n + 1, t, s =>
    let r := (s.core k).streamRow e t
    match r.2 with
    | none => .illegal s
    | some sr =>
      if rowFails tile r.1 && !ign then .detected s 0x0201 0 0
      else streamRows k e tile sc acc ign n (t + 1) (s.writeRow k (fld e.word 28 18 + t) acc tile r.1 sr sc)

/-- The store accesses of a stream of n rows. -/
def streamAccs (e : QEntry) (n : Nat) : List Acc :=
  (List.range n).map (fun t => ⟨false, 0, streamLine e t, 32⟩) ++
    (if flag e.word 4 then [] else (List.range n).map fun t => ⟨false, 0, streamScale e t, 2⟩)

/-- Alignment and count of a stream's operands (R147, R150). -/
def streamLegal (e : QEntry) : Bool :=
  let n := (e.sReg (fld e.word 33 29)).toNat
  decide (1 ≤ n) && n ≤ 65535 && (e.aReg (fld e.word 41 38)).toNat % 32 == 0 &&
    (flag e.word 4 || (e.aReg (fld e.word 37 34)).toNat % 2 == 0)

/-- ASTRM (R147 to R149): `ign` runs on over failed comparisons (R464). -/
def opAstrm (s : State) (k : Site) (e : QEntry) (ign : Bool) : Res :=
  let c := s.core k
  let n := (e.sReg (fld e.word 33 29)).toNat
  let pb := fld e.word 28 18
  let acc := fld e.word 17 16
  if !streamLegal e then .illegal s
  else if pb + n > 2048 then .region s (lineAddr pb) 2 false
  else if c.shadow.isNone && c.inflight.isSome then .wait
  else
    match (if c.shadow.isSome then c.shadow else c.active) with
    | none => .illegal s
    | some tile =>
      if acc < 2 && tile.mode.isFloat then .illegal s
      else
        let s := if c.shadow.isSome then (s.setCore k { c with active := some tile, shadow := none }).promote k else s
        let s := s.mapCore k fun c => { c with cols := 64 }
        streamRows k e tile (c.vreg (fld e.word 15 11)) acc ign n 0 s

/-- The sum of two tiles' checksums and slices, for the third pass of ASTRC (R151). -/
def pairFails (c d : Tile) (u : List Int) : Bool :=
  let y64 := sumInt ((List.range 32).map fun i => u.getD i 0 * (c.chkCol.getD i 0 + d.chkCol.getD i 0))
  let ys := sumInt ((List.range 64).map fun j => dotCol c u j + dotCol d u j)
  y64 != ys

/-- One complex row: real and imaginary parts of each column, written as R151 states. -/
def State.writeComplex (s : State) (k : Site) (l0 l1 acc : Nat) (c d : Tile) (a b u : List Int) (sa sb su : Word)
    (sc : VReg) : State :=
  let term (y : Int) (x : Word) : Fp := (Fp.ofInt y).mul (ofF32 x)
  let e0 := (s.core k).line l0
  let e1 := (s.core k).line l1
  let put (p : Fp) (old : Word) : Word := if acc = 2 then toF32 p else toF32 (p.add (ofF32 old))
  let re := (List.range 64).map fun j =>
    put ((ofF32 (lane sc j)).mul ((term (dotCol c a j) sa).add (term (dotCol d b j) sb).neg)) (e0.getD j 0#32)
  let im := (List.range 64).map fun j =>
    put ((ofF32 (lane sc j)).mul (((term (dotCol c u j + dotCol d u j) su).add (term (dotCol c a j) sa).neg).add
      (term (dotCol d b j) sb).neg)) (e1.getD j 0#32)
  (s.jwrite k 2 (lineAddr l0) (bytesOfWords re) false).jwrite k 2 (lineAddr l1) (bytesOfWords im) false

/-- Rows of ASTRC (R150, R151). -/
def complexRows (k : Site) (e : QEntry) (c d : Tile) (sc : VReg) (acc total : Nat) (ign : Bool) :
    Nat → Nat → State → Res
  | 0, _, s => .ok s
  | n + 1, t, s =>
    let core := s.core k
    let ra := core.streamRow e (3 * t)
    let rb := core.streamRow e (3 * t + 1)
    let ru := core.streamRow e (3 * t + 2)
    match ra.2, rb.2, ru.2 with
    | some sa, some sb, some su =>
      if (rowFails c ra.1 || rowFails d rb.1 || pairFails c d ru.1) && !ign then .detected s 0x0201 0 0
      else
        let pb := fld e.word 28 18
        complexRows k e c d sc acc total ign n (t + 1)
          (s.writeComplex k (pb + t) (pb + total + t) acc c d ra.1 rb.1 ru.1 sa sb su sc)
    | _, _, _ => .illegal s

/-- ASTRC (R150, R151). -/
def opAstrc (s : State) (k : Site) (e : QEntry) (ign : Bool) : Res :=
  let c := s.core k
  let n := (e.sReg (fld e.word 33 29)).toNat
  let pb := fld e.word 28 18
  if !streamLegal e then .illegal s
  else if pb + 2 * n > 2048 then .region s (lineAddr pb) 2 false
  else
    match c.shadow, c.inflight with
    | none, some _ => .wait
    | none, none => .illegal s
    | some _, none => .illegal s
    | some tc, some fl =>
      match fl.tile with
      | none => .wait
      | some td =>
        if tc.mode ≠ .w2 ∨ td.mode ≠ .w2 then .illegal s
        else
          let s := (s.setCore k { c with active := some tc, shadow := none, inflight := none, cols := 64 }).complete k .array
            fl.entry.word
          complexRows k e tc td (c.vreg (fld e.word 15 11)) (fld e.word 17 16) n ign n 0 s

/-- ADRAIN (R152): it waits for every earlier array instruction, then may ramp down and empty the positions. -/
def opAdrain (s : State) (k : Site) (e : QEntry) : Res :=
  let c := s.core k
  if c.inflight.isSome then .wait
  else
    let c := if flag e.word 41 then { c with cols := (s.panel k.panel).ballast } else c
    let c := if flag e.word 40 then { c with active := none, shadow := none } else c
    .ok (s.setCore k c)

/-- All words of the tile in flight have arrived: it is loaded, and moves on when the shadow position is free; a refused
tile never reaches it (R138, R143, R146). -/
def State.tileArrives (s : State) (k : Site) : State :=
  let c := s.core k
  match c.inflight with
  | none => s
  | some fl =>
    if fl.tile.isSome then s
    else
      match loadTile fl.mode fl.addr (c.rd 1 fl.addr fl.mode.sourceBytes) with
      | some t => (s.setCore k { c with inflight := some { fl with tile := some t } }).promote k
      | none => (s.setCore k { c with inflight := none }).illegal k .array fl.entry

end Sys2Proof.Machine
end

