-- ==== Sys2Proof/Machine/Router.lean ====
section
/-! DEFINITION. Routers and the fabric (R31 to R66): topology, unicast paths with detours and fences, delivery,
multicast, reduction and merge trees, and a router that dies. -/

namespace Sys2Proof.Machine

/-! ### Topology (R31 to R33, R57, R58) -/

/-- The site one hop away inside a canopy, if there is one. -/
def neighbour (k : Site) (p : Port) : Option Site :=
  let c := siteCanopy k
  let g := siteG k
  let h := siteH k
  match p with
  | .north => if h = 0 then none else some (siteAt c g (h - 1))
  | .south => if h = 95 then none else some (siteAt c g (h + 1))
  | .west => if g = 0 then none else some (siteAt c (g - 1) h)
  | .east => if g = 155 then none else some (siteAt c (g + 1) h)
  | _ => none

/-- The port on which a hop through `p` arrives. -/
def opposite : Port → Port
  | .north => .south
  | .south => .north
  | .east => .west
  | .west => .east
  | p => p

/-- The interior gateway at a corner router, 0 to 3 (R33, R58). -/
def interiorAt (k : Site) : Option Nat :=
  let g := siteG k
  let h := siteH k
  let col := if g = 38 ∨ g = 39 then some 0 else if g = 116 ∨ g = 117 then some 1 else none
  let row := if h = 23 ∨ h = 24 then some 0 else if h = 71 ∨ h = 72 then some 2 else none
  match col, row with
  | some c, some r => some (c + r)
  | _, _ => none

/-- Canopies share edges: C0 C1 north, C2 C3 south (R43). -/
def eastOf (c : Nat) : Bool := c == 1 || c == 3
def southOf (c : Nat) : Bool := c ≥ 2

/-! ### Dead routers and fences (R47 to R49) -/

/-- Is a router dead or in a fenced panel? -/
def State.deadAt (s : State) (k : Site) : Bool := (s.router k).dead || (s.panel k.panel).fenced

/-- The dead routers of a panel as (column, row). -/
def State.deadIn (s : State) (p : Nat) : List (Nat × Nat) :=
  s.routers.filterMap fun e => if e.1.panel = p ∧ e.2.dead then some (e.1.col, e.1.row) else none

/-- Does pitching accept a panel's dead routers for detour (R47)? -/
def detourable (ds : List (Nat × Nat)) : Bool :=
  let dist (a b : Nat × Nat) : Nat := (a.1 - b.1) + (b.1 - a.1) + (a.2 - b.2) + (b.2 - a.2)
  ds.all (fun d => decide (1 ≤ d.1) && d.1 ≤ 11 && decide (1 ≤ d.2) && d.2 ≤ 10) &&
    ds.all fun a => ds.all fun b => a == b || decide (2 < dist a b)

/-- A rectangle of panels: first and last column, first and last row. -/
structure Rect where
  c0 : Nat
  c1 : Nat
  r0 : Nat
  r1 : Nat
  deriving DecidableEq, Repr

/-- Fenced panels of a canopy as (column, row). -/
def State.fencedIn (s : State) (can : Nat) : List (Nat × Nat) :=
  (List.range 96).filterMap fun i =>
    if (s.panel (can * 96 + i)).fenced then some (i % 12, i / 12) else none

/-- A rectangle grown over every fenced panel that touches it by an edge or a corner (R49). -/
def growRect (fs : List (Nat × Nat)) : Nat → Rect → Rect
  | 0, r => r
  | n + 1, r =>
    let r' := fs.foldl (fun r f =>
      if r.c0 ≤ f.1 + 1 ∧ f.1 ≤ r.c1 + 1 ∧ r.r0 ≤ f.2 + 1 ∧ f.2 ≤ r.r1 + 1 then
        ⟨min r.c0 f.1, max r.c1 f.1, min r.r0 f.2, max r.r1 f.2⟩ else r) r
    if r' = r then r else growRect fs n r'

/-- The fenced area that holds a panel (R49). -/
def State.areaOf (s : State) (can c r : Nat) : Rect := growRect (s.fencedIn can) 20 ⟨c, c, r, r⟩

/-- Does an area touch two opposite boundaries (R49)? -/
def Rect.cuts (r : Rect) : Bool := (r.c0 == 0 && r.c1 == 11) || (r.r0 == 0 && r.r1 == 7)

/-- Fences a panel, and every panel of the area that then holds it; an area that cuts the canopy fences all of it
(R47, R49). -/
def State.fencePanel (s : State) (p : Nat) : State :=
  let s := s.mapPanel p fun x => { x with fenced := true }
  let can := canopyOf p
  let r := s.areaOf can (pcolOf p) (prowOf p)
  (List.range 96).foldl (fun s i =>
    let c := i % 12
    let w := i / 12
    if r.cuts ∨ (r.c0 ≤ c ∧ c ≤ r.c1 ∧ r.r0 ≤ w ∧ w ≤ r.r1) then s.mapPanel (can * 96 + i) fun x => { x with fenced := true }
    else s) s

/-- A router declared dead, with the fences that follow (R47, R49). -/
def State.killRouter (s : State) (k : Site) : State :=
  let s := s.mapRouter k fun r => { r with dead := true, inq := [] }
  if detourable (s.deadIn k.panel) then s else s.fencePanel k.panel

/-! ### Unicast paths (R42 to R45, R48, R49) -/

/-- One step of a coordinate toward a target. -/
def toward (a b : Nat) : Nat := if a < b then a + 1 else if b < a then a - 1 else a

/-- Hops along one line from `a` (exclusive) to `b` (inclusive). -/
def hopsLine (can : Nat) (fixed : Nat) (alongRow : Bool) : Nat → Nat → Nat → List Hop
  | 0, _, _ => []
  | n + 1, a, b =>
    if a = b then []
    else
      let x := toward a b
      ⟨if alongRow then siteAt can x fixed else siteAt can fixed x, true⟩ :: hopsLine can fixed alongRow n x b

/-- The way round a fenced area from (g, h) for a flit blocked on a row (`onRow`) or a column: the hops on the detour
channel, and where they end (R49). -/
def aroundArea (can : Nat) (r : Rect) (onRow : Bool) (g h dg dh : Nat) : List Hop × Nat × Nat :=
  let top := 12 * r.r0
  let bottom := 12 * r.r1 + 11
  let left := 13 * r.c0
  let right := 13 * r.c1 + 12
  if onRow then
    let wantNorth := if dh < h then true else if h < dh then false else r.r0 ≠ 0
    let north := if wantNorth then r.r0 ≠ 0 else r.r1 = 7
    let hh := if north then top - 1 else bottom + 1
    let far := if g < dg then right + 1 else left - 1
    let gg := if (g < dg ∧ dg < far) ∨ (dg < g ∧ far < dg) then dg else far
    (hopsLine can g false 200 h hh ++ hopsLine can hh true 200 g gg, gg, hh)
  else
    let wantEast := if g < dg then true else if dg < g then false else r.c1 ≠ 11
    let east := if wantEast then r.c1 ≠ 11 else r.c0 = 0
    let gg := if east then right + 1 else left - 1
    let far := if h < dh then bottom + 1 else top - 1
    let hh := if (h < dh ∧ dh < far) ∨ (dh < h ∧ far < dh) then dh else far
    (hopsLine can h true 200 g gg ++ hopsLine can gg false 200 h hh, gg, hh)

/-- The way round one dead router (R48); a flit whose turn lies at the dead router goes on from beside it. -/
def aroundRouter (can : Nat) (onRow : Bool) (g h dg dh : Nat) : List Hop × Nat × Nat :=
  if onRow then
    let v := if h < dh then h + 1 else h - 1
    let g1 := toward g dg
    let g2 := if g < dg then g + 2 else g - 2
    if g1 = dg then ([⟨siteAt can g v, true⟩, ⟨siteAt can g1 v, true⟩], g1, v)
    else ([⟨siteAt can g v, true⟩, ⟨siteAt can g1 v, true⟩, ⟨siteAt can g2 v, true⟩, ⟨siteAt can g2 h, true⟩], g2, h)
  else
    let v := if dg < g then g - 1 else g + 1
    let h1 := toward h dh
    let h2 := if h < dh then h + 2 else h - 2
    ([⟨siteAt can v h, true⟩, ⟨siteAt can v h1, true⟩, ⟨siteAt can v h2, true⟩, ⟨siteAt can g h2, true⟩], g, h2)

/-- Hops from (g, h) to (dg, dh) inside a canopy: along the row first, or along the column first where `colFirst`
(R42, R43), round dead routers and fenced areas (R48, R49). -/
def State.pathIn (s : State) (can : Nat) (colFirst : Bool) : Nat → Nat → Nat → Nat → Nat → List Hop
  | 0, _, _, _, _ => []
  | n + 1, g, h, dg, dh =>
    if g = dg ∧ h = dh then []
    else
      let onRow := if colFirst then h = dh else g ≠ dg
      let ng := if onRow then toward g dg else g
      let nh := if onRow then h else toward h dh
      let nx := siteAt can ng nh
      if !s.deadAt nx ∨ (ng = dg ∧ nh = dh) then ⟨nx, false⟩ :: s.pathIn can colFirst n ng nh dg dh
      else
        let d := if (s.panel nx.panel).fenced then
            aroundArea can (s.areaOf can (pcolOf nx.panel) (prowOf nx.panel)) onRow g h dg dh
          else aroundRouter can onRow g h dg dh
        d.1 ++ s.pathIn can colFirst n d.2.1 d.2.2 dg dh

/-- The boundary router that stitch `j` attaches at index `i` of an edge of a canopy: `ew` for an east or west edge
(R44, R57). -/
def stitchRouter (can : Nat) (ew : Bool) (j i : Nat) : Nat × Nat :=
  if ew then (if eastOf can then 0 else 155, 6 * j + 1 + 2 * i)
  else (156 * j / 16 + 1 + 3 * i, if southOf can then 0 else 95)

/-- The whole path of a unicast flit from a site (R42 to R45). -/
def State.path (s : State) (k : Site) (dcan dg dh : Nat) : List Hop :=
  let can := siteCanopy k
  let g := siteG k
  let h := siteH k
  let fuel := 600
  if can = dcan then s.pathIn can false fuel g h dg dh
  else
    let ew := eastOf can != eastOf dcan
    let ns := southOf can != southOf dcan
    if ew && ns then
      -- east–west edge first, then the hem ring of the intermediate canopy, then the north–south edge (R43, R45)
      let q := (dh + dg) % 4
      let j1 := if southOf can then q else 12 + q
      let a := stitchRouter can true j1 (h % 3)
      let j2 := if eastOf dcan then q else 12 + q
      let b := stitchRouter dcan false j2 (g % 3)
      s.pathIn can true fuel g h a.1 a.2 ++ [⟨siteAt dcan b.1 b.2, false⟩] ++ s.pathIn dcan false fuel b.1 b.2 dg dh
    else if ew then
      let j := dh / 6
      let a := stitchRouter can true j (h % 3)
      let b := stitchRouter dcan true j (h % 3)
      s.pathIn can true fuel g h a.1 a.2 ++ [⟨siteAt dcan b.1 b.2, false⟩] ++ s.pathIn dcan false fuel b.1 b.2 dg dh
    else
      let j := 16 * dg / 156
      let a := stitchRouter can false j (g % 3)
      let b := stitchRouter dcan false j (g % 3)
      s.pathIn can false fuel g h a.1 a.2 ++ [⟨siteAt dcan b.1 b.2, false⟩] ++ s.pathIn dcan false fuel b.1 b.2 dg dh

/-- The port on which a flit from `a` arrives at `b`: their common link, or the edge it crossed (R43). -/
def arrivalPort (a b : Site) : Port :=
  if siteCanopy a = siteCanopy b then
    if siteG a < siteG b then .west else if siteG b < siteG a then .east
    else if siteH a < siteH b then .north else .south
  else if siteG b = 0 ∧ southOf (siteCanopy a) = southOf (siteCanopy b) then .west
  else if siteG b = 155 ∧ southOf (siteCanopy a) = southOf (siteCanopy b) then .east
  else if siteH b = 0 then .north else .south

/-! ### Sending and delivering -/

/-- Does a router run: its panel's link domain on, itself alive, links not stopped (R32, R54, R482)? -/
def State.routerRuns (s : State) (k : Site) : Bool :=
  ((s.panel k.panel).dom.get VLNK).on && !s.deadAt k && !s.errors.fatal && !(s.freeze.state == .frozen)

/-- Puts a flit on the link to the next router of its path. -/
def State.sendHop (s : State) (k : Site) (f : Flit) (path : List Hop) : State :=
  match path with
  | [] => s
  | h :: r =>
    let w : Wire := { dst := h.site, port := arrivalPort k h.site, vc := 2 * rClass f + (if h.detour then 1 else 0)
                      flit := f, path := r }
    { s with transit := { s.transit with wires := s.transit.wires ++ [w] } }

/-- Injects a flit at a core's local port (R33). -/
def State.inject (s : State) (k : Site) (f : Flit) : State :=
  let w : Wire := { dst := k, port := .here, vc := 2 * rClass f, flit := f, path := [] }
  { s with transit := { s.transit with wires := s.transit.wires ++ [w] } }

/-- A format error of a flit at a router (R40): discarded and reported. -/
def State.fabricFormat (s : State) (k : Site) (p : Port) (f : Flit) : State :=
  s.raise { code := 0x0103, cls := .contained, kind := 1, loc := physLoc k, arg0 := f.side.toNat, arg1 := portNum p }

/-- May a site's core receive program traffic (R53)? -/
def State.receives (s : State) (k : Site) : Bool :=
  ((s.panel k.panel).dom.get VLOG).on && (s.logicalCol k).isSome && (s.core k).tab.assign.isSome

/-- A flit put into a landing buffer: the buffer its message is filling, or a free one; none where all four are full
(R185). -/
def Core.land (c : Core) (f : Flit) : Option Core :=
  let kind := if rMode f = 1 then 1 else 0
  match c.landing.findIdx? (fun b => b.kind == kind && b.chan == rChan f && !b.done) with
  | some i =>
    some { c with landing := c.landing.modify i fun b => { b with flits := b.flits ++ [f], done := rLast f } }
  | none =>
    if c.landing.length < 4 then
      some { c with landing := c.landing ++ [{ kind := kind, chan := rChan f, flits := [f], done := rLast f }] }
    else none

/-- A flit at the local port of its site (R53, R78, R185, R189). -/
def State.deliverLocal (s : State) (k : Site) (p : Port) (vc : Nat) (f : Flit) : State :=
  if rClass f ≥ 2 then s
  else if !s.receives k then s.countCode k.panel 0x0106 (physLoc k) 0 1 0
  else if rMode f ≥ 2 then s.mapCore k fun c => { c with rootIn := c.rootIn ++ [f] }
  else
    match (s.core k).land f with
    | some c => s.setCore k c
    | none => s.mapRouter k fun r => { r with inq := r.inq ++ [{ port := p, vc := vc, flit := f }] }

/-- Held class-0 flits delivered after a landing buffer came free (R78, R185). -/
def State.drainHeld (s : State) (k : Site) : State :=
  let mine := (s.router k).inq.filter fun h => rMode h.flit < 2
  let s := s.mapRouter k fun r => { r with inq := r.inq.filter fun h => rMode h.flit ≥ 2 }
  mine.foldl (fun s h => s.deliverLocal k h.port h.vc h.flit) s

/-- A class-0 multicast flit at a port gateway: a whole message becomes one STAGE frame; a tree with V clear is
discarded and reported (R389). -/
def State.gateIn (s : State) (k : Site) (p : Port) (l : Nat) (f : Flit) : State :=
  match (s.guy l).trees.find? (fun t => t.1 = rChan f) with
  | none => s.fabricFormat k p f
  | some t =>
    let mine := (s.guy l).gather.filter fun x => rChan x = rChan f
    if rLast f then
      (s.mapGuy l fun g => { g with gather := g.gather.filter fun x => rChan x ≠ rChan f }).guyStage l t.2 (mine ++ [f])
    else s.mapGuy l fun g => { g with gather := g.gather ++ [f] }

/-- A flit leaves by one port: local delivery, the next router, a Lantern behind an interior gateway, or a port
gateway (R42, R46, R59, R66, R389). -/
def State.outPort (s : State) (k : Site) (inp : Port) (vc : Nat) (p : Port) (f : Flit) : State :=
  match p with
  | .here => s.deliverLocal k inp vc f
  | .sixth =>
    match interiorAt k with
    | some i =>
      if rMode f = 3 then
        { s with transit := { s.transit with lists := s.transit.lists ++ [(siteCanopy k * 4 + i, f)] } }
      else s
    | none => s
  | p =>
    match neighbour k p with
    | some n =>
      let w : Wire := { dst := n, port := opposite p, vc := vc, flit := f, path := [] }
      { s with transit := { s.transit with wires := s.transit.wires ++ [w] } }
    | none =>
      match linkAt k p with
      | some l => if rMode f = 1 ∧ rClass f = 0 then s.gateIn k inp l f else s
      | none => s

/-! ### Trees (R59 to R66) -/

/-- A router's reduction-table entry for a tree (R59). -/
def Router.entry (r : Router) (tree : Nat) : Option RedEntry := r.red.find? (fun e => e.tree == tree)

/-- Ports an entry expects, in the order of R61. -/
def RedEntry.ports (e : RedEntry) : List Port := allPorts.filter fun p => e.mask.getLsbD (portNum p)

/-- The flits of a tree at the head of an input: the first held flit of the port's class-1 channels must be of the
tree (R59). -/
def Router.headOf (r : Router) (p : Port) (tree : Nat) : Option Flit :=
  match r.inq.find? (fun h => h.port == p && rMode h.flit ≥ 2) with
  | some h => if rChan h.flit = tree then some h.flit else none
  | none => none

/-- The held list of a tree on a port, up to its LAST flit; none while it is incomplete (R66). -/
def Router.listOf (r : Router) (p : Port) (tree : Nat) : Option (List Flit) :=
  let fs := (r.inq.filter fun h => h.port == p && rMode h.flit == 3 && rChan h.flit == tree).map (·.flit)
  match fs.findIdx? rLast with
  | some i => some (fs.take (i + 1))
  | none => none

/-- Removes flits that were combined. -/
def Router.takeOut (r : Router) (p : Port) (fs : List Flit) : Router :=
  fs.foldl (fun r f =>
    match r.inq.findIdx? (fun h => h.port == p && h.flit == f) with
    | some i => { r with inq := r.inq.eraseIdx i }
    | none => r) r

/-- The tree is broken at a router for the rest of the tick (R62, R66): `what` 0 INDEX, 1 K, 2 OP, 3 COHORT. -/
def State.breakTree (s : State) (k : Site) (tree what a b : Nat) : State :=
  let s := s.mapRouter k fun r => { r with broken := r.broken ++ [tree], inq := r.inq.filter fun h => ¬ (rMode h.flit ≥ 2 ∧ rChan h.flit = tree) }
  s.raise { code := 0x0104, cls := .contained, kind := 1, loc := physLoc k, arg0 := tree + what * 256, arg1 := a + b * 65536 }

/-- The first pair of unequal values. -/
def firstDiff (xs : List Nat) : Option (Nat × Nat) :=
  match xs with
  | [] => none
  | x :: r => (r.find? (· ≠ x)).map fun y => (x, y)

/-- Combines the flits a router's expected inputs hold at their heads, once all do (R59 to R62). -/
def State.reduceCombine (s : State) (k : Site) (tree : Nat) : State :=
  let r := s.router k
  match r.entry tree with
  | none => s
  | some e =>
    let hs := e.ports.map fun p => r.headOf p tree
    let fs := hs.filterMap id
    if !s.routerRuns k || fs.length ≠ hs.length || fs.isEmpty || fs.any (fun f => rMode f ≠ 2) then s
    else
      match firstDiff (fs.map pIndex) with
      | some (a, b) => s.breakTree k tree 0 a b
      | none =>
        match firstDiff (fs.map rOp) with
        | some (a, b) => s.breakTree k tree 2 a b
        | none =>
          let s := s.setRouter k ((e.ports.zip fs).foldl (fun r x => r.takeOut x.1 [x.2]) r)
          s.outPort k .here 2 e.out (combineFlits fs)

/-- Merges the lists a router's expected inputs hold, once all are complete, and forwards the first K (R65, R66). -/
def State.mergeCombine (s : State) (k : Site) (tree : Nat) : State :=
  let r := s.router k
  match r.entry tree with
  | none => s
  | some e =>
    let ls := e.ports.map fun p => r.listOf p tree
    let lists := ls.filterMap id
    if !s.routerRuns k || lists.length ≠ ls.length || lists.isEmpty then s
    else
      let heads := lists.filterMap (·.head?)
      match firstDiff (heads.map pK) with
      | some (a, b) => s.breakTree k tree 1 a b
      | none =>
        match firstDiff (heads.map pCohort) with
        | some (a, b) => s.breakTree k tree 3 a b
        | none =>
          match heads with
          | [] => s
          | f :: _ =>
            let s := s.setRouter k ((e.ports.zip lists).foldl (fun r x => r.takeOut x.1 x.2) r)
            let cands := (lists.flatMap fun l => (l.flatMap flitCands).take (pK f))
            let out := listFlits (rCan f) (rCol f) (rRow f) tree (pK f) (pCohort f) (topK (pK f) cands)
            let nan := lists.any fun l => l.any pNan
            let bad := lists.any fun l => l.any (·.poisoned)
            out.foldl (fun s o =>
              let o := { o with poisoned := bad, side := if nan then o.side ||| 0x200#64 else o.side }
              s.outPort k .here 2 e.out o) s

/-! ### Arrival (R36, R37, R40) -/

/-- Flits a router input holds per virtual channel: 16 across a seam or from a hem gateway, 4 otherwise (R35); a merge
list's eight flits are counted as held by the merge unit (notes/assumptions/14). -/
def inputDepth (k : Site) (p : Port) (mode : Nat) : Nat :=
  let seam := match p with
    | .north => k.row == 0
    | .south => k.row == 11
    | .west => k.col == 0
    | .east => k.col == 12
    | .sixth => true
    | .here => false
  if seam then 16 else if mode = 3 then 8 else 4

/-- A reduce or merge flit at a router (R59, R62). -/
def State.treeArrival (s : State) (k : Site) (p : Port) (vc : Nat) (f : Flit) : State :=
  let r := s.router k
  if rChan f ∈ r.broken then s
  else
    match r.entry (rChan f) with
    | none => s.fabricFormat k p f
    | some e =>
      if !e.mask.getLsbD (portNum p) then s.fabricFormat k p f
      else if e.ports.length = 1 then s.outPort k p vc e.out f
      else s.setRouter k { r with inq := r.inq ++ [{ port := p, vc := vc, flit := f }] }

/-- The link check of R37: a mismatch marks the flit poisoned, and the first router to find it reports it. -/
def State.linkCheck (s : State) (k : Site) (p : Port) (f : Flit) (sb : Sideband) : State × Flit :=
  if checkBits f = sb.check then (s, f)
  else
    let r := s.router k
    let n := getK r.checkErrors p 0 + 1
    let s := s.setRouter k { r with checkErrors := putK r.checkErrors p n }
    let f' := { f with poisoned := true }
    if f.poisoned then (s, f')
    else (s.raise { code := 0x0102, cls := .replayed, kind := 1, loc := physLoc k, count := n, arg0 := portNum p }, f')

/-- Takes the flit off the link it was sent on, with the rest of its path; a flit that no modelled unit sent has
none. -/
def State.takeWire (s : State) (k : Site) (p : Port) (f : Flit) : State × Option (List Hop) :=
  match s.transit.wires.findIdx? (fun w => w.dst == k && w.port == p && w.flit == f) with
  | none => (s, none)
  | some i =>
    let path := (s.transit.wires[i]?).map (·.path)
    ({ s with transit := { s.transit with wires := s.transit.wires.eraseIdx i } }, path)

/-- A flit reaches a router (R36, R37, R40, R42, R46, R59). A modelled unit sends only on a credit (R36): its flit waits
while the input is full. Any other flit is then a violation. -/
def State.flitArrival (s : State) (k : Site) (p : Port) (f : Flit) (sb : Sideband) : State :=
  let vc := 2 * sb.cls.toNat + (if sb.detour then 1 else 0)
  let full := decide (inputDepth k p (rMode f) ≤ ((s.router k).inq.filter fun h => h.port = p ∧ h.vc = vc).length)
  let t := s.takeWire k p f
  if s.routerRuns k && full && t.2.isSome then s
  else
    let s := t.1
    if !s.routerRuns k then s
    else if full then
      s.raise { code := 0x0101, cls := .fatal, kind := 1, loc := physLoc k, arg0 := portNum p + vc * 8 }
    else
      let x := s.linkCheck k p f sb
      let s := x.1
      let f := x.2
      if !routeOk f sb then s.fabricFormat k p f
      else
        match rMode f with
        | 0 =>
          if siteCanopy k = rCan f ∧ siteG k = rCol f ∧ siteH k = rRow f then s.deliverLocal k p vc f
          else
            match t.2 with
            | some (h :: r) => s.sendHop k f (h :: r)
            | _ => s.sendHop k f (s.path k (rCan f) (rCol f) (rRow f))
        | 1 =>
          match (s.router k).mcast.find? (fun m => m.1 = rChan f) with
          | some m =>
            if m.2 = 0 then s.fabricFormat k p f
            else (allPorts.filter fun q => m.2.getLsbD (portNum q)).foldl (fun s q => s.outPort k p vc q f) s
          | none => s.fabricFormat k p f
        | _ => s.treeArrival k p vc f

/-- The routers of a tree above a router, root first: those its expected inputs come from (R59, R474). -/
def State.treeRouters (s : State) (tree : Nat) : Nat → Site → List Site
  | 0, _ => []
  | n + 1, k =>
    match (s.router k).entry tree with
    | none => []
    | some e => k :: (e.ports.flatMap fun p => match neighbour k p with
        | some x => s.treeRouters tree n x
        | none => [])

/-! ### The commands -/

/-- MERGE_COMBINE (R59, R65, R66). -/
def execMergeCombine (k : Site) (tree : Nat) (s : State) : Host.Outcome State Fault Refusal :=
  onUnit k.ok s fun s => s.mergeCombine k tree

end Sys2Proof.Machine
end

