-- ==== Sys2Proof/Machine/Vector.lean ====
section
/-! DEFINITION. The vector and rotation instructions on a core: VADD to VLOG2, VLD, VST, VQNT, VDEQ, VSPLT, VROT, VROPE
(R159 to R173), clipping (R117 to R122) and the sampling of duplicates (R471, R472). -/

namespace Sys2Proof.Machine

/-! ### Sampled duplication (R471, R472) -/

/-- The divisor D of a duplication fraction (R471, R492). -/
def dupDivisor (frac : Nat) : Nat :=
  match frac with
  | 1 => 1024
  | 2 => 256
  | 3 => 64
  | 4 => 16
  | _ => 0

/-- The physical position number of a core (R471). -/
def cidOf (k : Site) : Word := BitVec.ofNat 32 (siteG k + 256 * siteH k + 65536 * siteCanopy k)

/-- Is operation or message `i` of this tick sampled under key `key` (R471, R473)? -/
def sampled (tick i frac : Nat) (key : Word) : Bool :=
  let d := dupDivisor frac
  d != 0 && (mix ((BitVec.ofNat 32 tick + 0x9E3779B9#32 * BitVec.ofNat 32 (i + 1)) ^^^ key)).toNat % d == 0

/-- Numbers an eligible operation and, if it is sampled, sends it to the buddy (R471, R472). -/
def State.dupNote (s : State) (k : Site) (m : DupMsg) : State :=
  let c := s.core k
  let s' := s.setCore k { c with dupOp := c.dupOp + 1 }
  if s.tick.running && sampled s.tick.n c.dupOp s.tick.dupFrac (cidOf k) then
    match s.buddy k with
    | some b => s'.mapCore b fun x => { x with dupIn := x.dupIn ++ [m] }
    | none => s'
  else s'

/-! ### The register format -/

/-- The lanes an instruction writes: p[PS] under PE, all otherwise (R136). -/
def Core.laneMask (c : Core) (w : BitVec 56) : DWord := if wPE w then c.preg (wPS w) else BitVec.allOnes 64

/-- What a register-format instruction reads and writes: (operands, selecting bits, mask, old lanes, old p), and the
results (R162). Recomputed by DUP_CHECK from the same operands (R472). -/
def vecResult (op : CoreOp) (w : BitVec 56) (e : QEntry) (vs : List VReg) (psel mask : DWord) (old : VReg) : VReg :=
  let z : VReg := Vector.replicate 64 0#32
  let r := vecLanes op w e psel mask (vs.getD 0 z) (vs.getD 1 z) (vs.getD 2 z)
  if op = .vred then r else blend mask old r

/-- VCMP's new predicate register (R136, R162). -/
def cmpResult (w : BitVec 56) (vs : List VReg) (mask oldP : DWord) : DWord :=
  let z : VReg := Vector.replicate 64 0#32
  (oldP &&& ~~~mask) ||| (cmpBits w (vs.getD 0 z) (vs.getD 1 z) &&& mask)

/-- An instruction of the register format, VBCST included (R159 to R167). -/
def opVecReg (s : State) (k : Site) (e : QEntry) : Res :=
  let c := s.core k
  let w := e.word
  let mask := c.laneMask w
  let vs := if e.op = .vbcst then [] else [c.vreg (fld w 36 32), c.vreg (fld w 31 27), c.vreg (fld w 26 22)]
  let psel := c.preg (fld w 24 22)
  let vd := fld w 41 37
  let pd := fld w 39 37
  let msg (rs : List VReg) (rp : DWord) : DupMsg :=
    { src := k, entry := e, operands := vs, psel := psel, mask := mask, old := [c.vreg vd], oldP := c.preg pd
      results := rs, resultP := rp, cohort := (s.cohortOf k).getD 0 }
  if e.op = .vcmp then
    let r := cmpResult w vs mask (c.preg pd)
    .ok ((s.setCore k (c.setP pd r)).dupNote k (msg [] r))
  else
    let r := vecResult e.op w e vs psel mask (c.vreg vd)
    .ok ((s.setCore k (c.setV vd r)).dupNote k (msg [r] 0#64))

/-! ### VLD and VST (R168) -/

/-- Bytes per lane of a packing. -/
def packWidth (w : BitVec 56) : Nat :=
  if flag w 32 then 4
  else
    match fld w 31 30 with
    | 0 => 4
    | 1 => 2
    | _ => 1

/-- The store, byte address and length a VLD or VST names. -/
def vmemAcc (e : QEntry) : Nat × Nat × Nat :=
  let a := e.aReg (fld e.word 36 33)
  if flag e.word 32 then (2, 256 * a.toNat, 256) else (0, actAddr a, 64 * packWidth e.word)

/-- Is the address aligned to the register's bytes (R168)? -/
def vmemAligned (e : QEntry) : Bool :=
  flag e.word 32 || (e.aReg (fld e.word 36 33)).toNat % (64 * packWidth e.word) == 0

def opVld (s : State) (k : Site) (e : QEntry) : Res :=
  let c := s.core k
  let x := vmemAcc e
  if !vmemAligned e then .illegal s
  else if !c.inWindow x.1 x.2.1 x.2.2 then .region s x.2.1 x.1 false
  else
    let n := packWidth e.word
    let bs := c.rd x.1 x.2.1 x.2.2
    let r := vregOf ((List.range 64).map fun i => BitVec.ofNat 32 (fieldAt bs (n * i) n))
    let vd := fld e.word 41 37
    .ok (s.setCore k (c.setV vd (blend (c.laneMask e.word) (c.vreg vd) r)))

def opVst (s : State) (k : Site) (e : QEntry) : Res :=
  let c := s.core k
  let x := vmemAcc e
  if !vmemAligned e then .illegal s
  else if !c.inWindow x.1 x.2.1 x.2.2 then .region s x.2.1 x.1 false
  else
    let n := packWidth e.word
    let v := c.vreg (fld e.word 41 37)
    let mask := c.laneMask e.word
    let old := c.rd x.1 x.2.1 x.2.2
    let bs := (List.range 64).flatMap fun i =>
      if mask.getLsbD i then natLe n (lane v i).toNat else (old.drop (n * i)).take n
    .ok (if mask = 0#64 then s else s.jwrite k x.1 x.2.1 bs false)

/-! ### Quantisation (R114 to R122, R169) -/

/-- The saturation threshold of the loaded package (R117). -/
def State.satLimit (s : State) : Nat := match s.loaded with
  | some l => l.pkg.sat
  | none => 64

/-- Marks the row a block belongs to as clipped; a row that draws no token marks its sequence (R120, R316). -/
def State.clipRow (s : State) (cohort row : Nat) : State :=
  match s.serve.cohorts.find? (fun c => c.n = cohort) with
  | none => s
  | some co =>
    match co.rows[row]? with
    | none => s
    | some r => { s with serve := { s.serve with
        cohorts := s.serve.cohorts.map fun c =>
          if c.n = cohort then { c with rows := c.rows.modify row fun r => { r with clipped := true } } else c
        seqs := s.serve.seqs.map fun q => if q.slot = r.slot ∧ !r.draws then { q with clipMark := true } else q } }

/-- As `clipRow`, for a block whose row no rule names (notes/assumptions/13). -/
def State.clipSomeRow (s : State) (k : Site) : State :=
  match s.cohortOf k with
  | none => s
  | some co =>
    let n := match s.serve.cohorts.find? (fun c => c.n = co) with
      | some c => c.rows.length
      | none => 0
    let s' : State := { s with free := s.free + 1 }
    s'.clipRow co (Config.clippedRow s.free % max 1 n)

/-- The addresses VQNT and VDEQ name: codes of elements 0 to 31, of 32 to 63, and the scale entry. -/
def qLine0 (e : QEntry) : Nat := actAddr (e.aReg (fld e.word 36 33))
def qLine1 (e : QEntry) : Nat := (qLine0 e + 32 * 2 ^ fld e.word 32 29) % 2 ^ 21
def qEntry (e : QEntry) : Nat := actAddr (e.aReg (fld e.word 28 25))

/-- VQNT's source: (store, byte address) (R169). -/
def vqntSrc (e : QEntry) : Nat × Nat :=
  let a := e.aReg (fld e.word 41 38)
  if flag e.word 37 then (0, actAddr a) else (2, 256 * a.toNat)

def vqntAligned (e : QEntry) : Bool :=
  (!flag e.word 37 || (e.aReg (fld e.word 41 38)).toNat % 256 == 0) &&
    (e.aReg (fld e.word 36 33)).toNat % 32 == 0 && (e.aReg (fld e.word 28 25)).toNat % 2 == 0

/-- Writes a block's 64 codes to its two lines (R169). -/
def State.putCodes (s : State) (k : Site) (e : QEntry) (codes : List Int) : State :=
  (s.jwrite k 0 (qLine0 e) ((codes.take 32).map codeByte) false).jwrite k 0 (qLine1 e) ((codes.drop 32).map codeByte) false

/-- May a step replay for quantisation (R118 to R120, R464)? -/
def State.quantMayReplay (s : State) (k : Site) : Bool :=
  let c := s.core k
  s.rationOk k.panel ratQuant && c.rep.ckpt.isSome && !c.rep.unreplayable && !c.rep.lossMode &&
    decide (c.rep.replays < 4)

/-- VQNT (R169). -/
def opVqnt (s : State) (k : Site) (e : QEntry) : Res :=
  let c := s.core k
  let src := vqntSrc e
  if !vqntAligned e then .illegal s
  else if !c.inWindow src.1 src.2 256 then .region s src.2 src.1 false
  else
    let xs := wordsOf (c.rd src.1 src.2 256) 64
    let am := amaxOf xs
    let dyn := a8Scale am.1 am.2
    if flag e.word 24 then
      let q := quantBlock (ofBF16 dyn) 127 xs
      .ok ((s.putCodes k e q.1).jwrite k 0 (qEntry e) (natLe 2 dyn.toNat) false)
    else
      let h := leNat (c.rd 0 (qEntry e) 2)
      if !a8Legal h then .illegal s
      else
        let q := quantBlock (ofBF16 (BitVec.ofNat 16 h)) 127 xs
        if q.2.2 ≤ s.satLimit then .ok (s.putCodes k e q.1)
        else if qEntry e ∉ c.rep.rescaled ∧ s.quantMayReplay k then .rescale s (qEntry e) dyn.toNat
        else
          let s := s.putCodes k e q.1
          let s := s.mapCore k fun c => { c with rep := { c.rep with heldScales := putK c.rep.heldScales (qEntry e) dyn.toNat } }
          .ok ((s.countCode k.panel 0x020B (s.coreLoc k) 0 1 0).clipSomeRow k)

/-- VDEQ (R170). -/
def opVdeq (s : State) (k : Site) (e : QEntry) : Res :=
  let c := s.core k
  let h := leNat (c.rd 0 (qEntry e) 2)
  if (e.aReg (fld e.word 36 33)).toNat % 32 ≠ 0 ∨ (e.aReg (fld e.word 28 25)).toNat % 2 ≠ 0 then .illegal s
  else if !a8Legal h then .illegal s
  else
    let codes := rowsCodes c
    let sc := ofF32 (a8Word h)
    let r := vregOf (codes.map fun i => toF32 ((Fp.ofInt i).mul sc))
    let vd := fld e.word 41 37
    .ok (s.setCore k (c.setV vd (blend (c.laneMask e.word) (c.vreg vd) r)))
where
  rowsCodes (c : Core) : List Int := (c.rd 0 (qLine0 e) 32 ++ c.rd 0 (qLine1 e) 32).map (·.toInt)

/-- VSPLT (R171): hi and lo codes and scales of two rows. -/
def opVsplt (s : State) (k : Site) (e : QEntry) : Res :=
  let c := s.core k
  let ad := actAddr (e.aReg (fld e.word 31 28))
  let as := actAddr (e.aReg (fld e.word 27 24))
  if (e.aReg (fld e.word 31 28)).toNat % 128 ≠ 0 then .illegal s
  else
    let xs := (c.vreg (fld e.word 36 32)).toList.map lo16
    let bad := (xs.filter fun h => h.toNat / 128 % 256 = 255).length
    let put (s : State) (r : Nat) : State :=
      let p := bf16Split ((xs.drop (32 * r)).take 32)
      let s := s.jwrite k 0 (ad + 64 * r) (p.2.map fun x => codeByte x.1) false
      let s := s.jwrite k 0 (ad + 64 * r + 32) (p.2.map fun x => codeByte x.2) false
      let s := s.jwrite k 0 (as + 4 * r) (natLe 2 (splitScale p.1 true).toNat) false
      s.jwrite k 0 (as + 4 * r + 2) (natLe 2 (splitScale p.1 false).toNat) false
    let s := put (put s 0) 1
    .ok (if bad = 0 then s else (s.countCode k.panel 0x020C (s.coreLoc k) 0 bad 0).clipSomeRow k)

/-! ### Rotation (R172, R173) -/

/-- The registers a rotation reads or writes from `v` on. -/
def Core.vregs (c : Core) (v n : Nat) : List VReg := (List.range n).map fun i => c.vreg (v + i)
def Core.setVs (c : Core) (v : Nat) (rs : List VReg) : Core := rs.zipIdx.foldl (fun c x => c.setV (v + x.2) x.1) c

/-- A rotation's message for the buddy. -/
def rotMsg (s : State) (k : Site) (e : QEntry) (ins outs : List VReg) : DupMsg :=
  { src := k, entry := e, operands := ins, psel := 0, mask := BitVec.allOnes 64, old := [], oldP := 0
    results := outs, resultP := 0, cohort := (s.cohortOf k).getD 0 }

/-- VROT (R172). -/
def opVrot (s : State) (k : Site) (e : QEntry) : Res :=
  let c := s.core k
  if (e.sReg (fld e.word 23 19)).toNat > 65535 then .illegal s
  else
    let n := spanOf (fld e.word 31 30)
    let ins := c.vregs (fld e.word 36 32) n
    let outs := rotRegs e.word e ins
    .ok ((s.setCore k (c.setVs (fld e.word 41 37) outs)).dupNote k (rotMsg s k e ins outs))

/-- The activation-store address of the lengths table of the tick in progress (R205, R265). -/
def State.ltAddr (s : State) : Nat :=
  let slot := match s.loaded with
    | some l => l.pkg.kv.ltSlot
    | none => 0
  (slot + 16 * (s.tick.n % 2)) * 4096

/-- POS of a lengths-table row (R265). -/
def Core.rowPos (c : Core) (lt row : Nat) : Nat := bitsOf (leNat (c.rd 0 (lt + 16 * row + 4) 4)) 20 0

/-- A frequency table: aligned to 32 B, every entry finite (R270); none where it is illegal. -/
def Core.freqs (c : Core) (addr n : Nat) : Option (List Word) :=
  let fs := wordsOf (c.rd 0 addr (4 * n)) n
  if addr % 32 ≠ 0 ∨ fs.any (fun f => !(ofF32 f).isFin) then none else some fs

/-- VROPE (R173, R270, R271). The sampled message carries the position and the frequencies as extra operands. -/
def opVrope (s : State) (k : Site) (e : QEntry) : Res :=
  let c := s.core k
  let n := spanOf (fld e.word 22 21)
  match c.freqs (actAddr (e.aReg (fld e.word 31 28))) (headSize (fld e.word 22 21) / 2) with
  | none => .illegal s
  | some fs =>
    let pos := c.rowPos s.ltAddr (e.sReg (fld e.word 27 23)).toNat
    let ins := c.vregs (fld e.word 36 32) n
    let outs := ropeRegs e.word pos fs ins
    let aux := vregOf [BitVec.ofNat 32 pos] :: regsOf 2 fs
    .ok ((s.setCore k (c.setVs (fld e.word 41 37) outs)).dupNote k
      { rotMsg s k e ins outs with old := aux })

/-- The results a buddy recomputes for a sampled operation (R472). -/
def DupMsg.recompute (m : DupMsg) : List VReg × DWord :=
  let z : VReg := Vector.replicate 64 0#32
  match m.entry.op with
  | .vcmp => ([], cmpResult m.entry.word m.operands m.mask m.oldP)
  | .vrot => (rotRegs m.entry.word m.entry m.operands, 0)
  | .vrope =>
    let pos := (lane (m.old.getD 0 z) 0).toNat
    (ropeRegs m.entry.word pos (blockOf (m.old.drop 1)) m.operands, 0)
  | op => ([vecResult op m.entry.word m.entry m.operands m.psel m.mask (m.old.getD 0 z)], 0)

/-! ### Accesses, for parity, windows and slot tags -/

def vectorAccs (e : QEntry) (s : State) : List Acc :=
  match e.op with
  | .vld => let x := vmemAcc e; [⟨false, x.1, x.2.1, x.2.2⟩]
  | .vst => let x := vmemAcc e; [⟨true, x.1, x.2.1, x.2.2⟩]
  | .vqnt =>
    let x := vqntSrc e
    [⟨false, x.1, x.2, 256⟩] ++ (if flag e.word 24 then [⟨true, 0, qEntry e, 2⟩] else [⟨false, 0, qEntry e, 2⟩]) ++
      [⟨true, 0, qLine0 e, 32⟩, ⟨true, 0, qLine1 e, 32⟩]
  | .vdeq => [⟨false, 0, qLine0 e, 32⟩, ⟨false, 0, qLine1 e, 32⟩, ⟨false, 0, qEntry e, 2⟩]
  | .vsplt => [⟨true, 0, actAddr (e.aReg (fld e.word 31 28)), 128⟩, ⟨true, 0, actAddr (e.aReg (fld e.word 27 24)), 8⟩]
  | .vrope =>
    [⟨false, 0, actAddr (e.aReg (fld e.word 31 28)), 2 * headSize (fld e.word 22 21)⟩,
     ⟨false, 0, s.ltAddr + 16 * (e.sReg (fld e.word 27 23)).toNat, 16⟩]
  | _ => []

end Sys2Proof.Machine
end

