-- ==== Sys2Proof/Machine/Fabric.lean ====
section
/-! DEFINITION. The fabric instructions of a core: FSEND, FRED, FMRG, FRECV, and the landing of messages (R41, R63, R64,
R123 to R127, R180 to R189, R462, R473). -/

namespace Sys2Proof.Machine

/-! ### Sending -/

/-- A send instruction's flits: those its ledger entry does not record are injected, in order (R462, R463). -/
def State.sendFlits (s : State) (k : Site) (fs : List Flit) : State :=
  let r := (s.core k).rep
  let sent := r.ledger.getD r.sendPos 0
  let ledger := if r.sendPos < r.ledger.length then r.ledger.set r.sendPos (max sent fs.length) else r.ledger ++ [fs.length]
  let s := (fs.drop sent).foldl (fun s f => s.inject k f) s
  s.mapCore k fun c => { c with rep := { c.rep with ledger := ledger, sendPos := r.sendPos + 1 } }

/-- Has this send instruction sent its flits in an earlier run of the step? -/
def Core.sentBefore (c : Core) : Bool := decide (c.rep.sendPos < c.rep.ledger.length)

/-- Numbers a message of a tree in the tick, and says whether it is sampled (R473). -/
def State.redNumber (s : State) (k : Site) (tree : Nat) : Bool × State :=
  let c := s.core k
  let j := getK c.redCount tree 0
  (s.tick.running && s.tick.dupRed && sampled s.tick.n j s.tick.dupFrac (BitVec.ofNat 32 tree * 0x01010101#32),
   s.setCore k { c with redCount := putK c.redCount tree (j + 1) })

/-- The route word, without payload, of an injected flit to a site. -/
def sideTo (mode cls : Nat) (dst : Site) (chan op : Nat) (last : Bool) (pay : Nat) : DWord :=
  sideBits mode cls (siteCanopy dst) (siteG dst) (siteH dst) chan op last pay

/-- FSEND's source: store and address; count; tag; scale address. -/
def fsendSrc (e : QEntry) : Nat × Nat :=
  let st := if flag e.word 37 then 1 else 0
  (st, storeAddr' st (e.aReg (fld e.word 41 38)))
where
  storeAddr' (st : Nat) (x : Word) : Nat := if st = 0 then actAddr x else x.toNat
def fsendNf (e : QEntry) : Nat := fld e.word 29 23
def fsendTag (e : QEntry) : Nat := fld e.word 22 19
def fsendAsc (e : QEntry) : Nat := actAddr (e.aReg (fld e.word 18 15))

/-- FSEND's destination: mode, site and CHAN, or none where it is outside the window (R41, R46, R175, R563). -/
def State.fsendDst (s : State) (k : Site) (e : QEntry) : Option (Nat × Site × Nat) :=
  let t := (s.core k).tab
  let d := fld e.word 35 30
  if flag e.word 36 then (if d ∈ t.mcSource then some (1, k, d) else none)
  else
    match t.dest.find? (fun x => x.entry == d) with
    | some x => if (s.core x.site).tab.assign.isSome then some (0, x.site, x.chan) else none
    | none => none

/-- The route word of a refused unicast or multicast: an entry the package does not define has none of its own, and
shows as zero fields (notes/assumptions/28). -/
def State.fsendRoute (s : State) (k : Site) (e : QEntry) : Nat :=
  let d := fld e.word 35 30
  let w := if flag e.word 36 then sideTo 1 0 k d 0 false 0
    else
      match (s.core k).tab.dest.find? (fun x => x.entry == d) with
      | some x => sideTo 0 0 x.site x.chan 0 false 0
      | none => 0#64
  w.toNat / 2 ^ 32

/-- FSEND (R180 to R182). -/
def opFsend (s : State) (k : Site) (e : QEntry) : Res :=
  let c := s.core k
  let src := fsendSrc e
  let nf := fsendNf e
  let tag := fsendTag e
  let w := scaleBytes tag
  let scales := c.rd 0 (fsendAsc e) (w * nf)
  if src.2 % 64 ≠ 0 then .illegal s
  else if !c.inWindow src.1 src.2 (64 * nf) then .region s src.2 src.1 false
  else if tag = 3 ∧ scales.any (fun b => b.getLsbD 7) then .illegal s
  else
    match s.fsendDst k e with
    | none => .region s (s.fsendRoute k e) 0 true
    | some (mode, dst, chan) =>
      let fs := (List.range nf).map fun f =>
        ({ data := blockOfBytes (c.rd src.1 (src.2 + 64 * f) 64)
           side := sideTo mode 0 dst chan 0 (f + 1 == nf) (dataPayload tag ((scales.drop (w * f)).take w))
           poisoned := false } : Flit)
      .ok (s.sendFlits k fs)

/-- A core's root-table entry for a tree (R174). -/
def CoreTables.root (t : CoreTables) (tree : Nat) : Option RootEntry := t.roots.find? (fun x => x.tree == tree)

/-- Reductions that carry 32 BF16 elements a flit (R60). -/
def redHalf (op : Nat) : Bool := op == 1 || op == 4

/-- Partial-sum lines of `nf` reduce flits (R183). -/
def redLines (op nf : Nat) : Nat := if redHalf op then ceilDiv nf 2 else ceilDiv nf 4

def fredLine (e : QEntry) : Nat := (e.aReg (fld e.word 41 38)).toNat
def fredNf (e : QEntry) : Nat := fld e.word 37 31
def fredTree (e : QEntry) : Nat := fld e.word 27 22

/-- Flit `f` of a contributor (R183). -/
def Core.redFlit (c : Core) (line op nf tree : Nat) (root : Site) (f : Nat) : Flit :=
  let xs := if redHalf op then ((c.line (line + f / 2)).drop (32 * (f % 2))).take 32
    else ((c.line (line + f / 4)).drop (16 * (f % 4))).take 16
  let nan := (op ≠ 2 ∧ op ≠ 5) && xs.any isNan32
  { data := packElems op xs
    side := sideTo 2 1 root tree op (f + 1 == nf) (redPayload f 1 nan false)
    poisoned := false }

/-- FRED (R180, R181, R183, R473). -/
def opFred (s : State) (k : Site) (e : QEntry) : Res :=
  let c := s.core k
  let op := redOp e.word
  let nf := fredNf e
  let tree := fredTree e
  let line := fredLine e
  if line + redLines op nf > 2048 then .region s (lineAddr line) 2 false
  else
    match c.tab.root tree with
    | none => .region s 0 0 true
    | some r =>
      let fs := (List.range nf).map (c.redFlit line op nf tree r.root)
      if c.sentBefore then .ok (s.sendFlits k fs)
      else
        let n := s.redNumber k tree
        .ok (n.2.sendFlits k (if n.1 then fs ++ fs else fs))

def fmrgList (e : QEntry) : Nat := actAddr (e.aReg (fld e.word 41 38))
def fmrgK (e : QEntry) : Nat := fld e.word 37 31

/-- FMRG (R180, R181, R184). -/
def opFmrg (s : State) (k : Site) (e : QEntry) : Res :=
  let c := s.core k
  let n := fmrgK e
  let tree := fld e.word 30 25
  let bs := c.rd 0 (fmrgList e) (8 * n)
  if (e.aReg (fld e.word 41 38)).toNat % 64 ≠ 0 then .illegal s
  else if (List.range n).any fun i => bs.getD (8 * i + 7) 0#8 != 0#8 then .illegal s
  else
    match c.tab.root tree with
    | none => .region s 0 0 true
    | some r =>
      let l := topK n ((List.range n).map fun i => candOf (fieldAt bs (8 * i) 8))
      .ok (s.sendFlits k (listFlits (siteCanopy r.root) (siteG r.root) (siteH r.root) tree n ((s.cohortOf k).getD 0) l))

/-! ### Receiving -/

/-- Bytes a receive writes, saved as redo data and noted in the memo (R460, R462). -/
def State.recvWrite (s : State) (k : Site) (nth : Nat) (ws : List (Nat × Nat × List Byte)) (err : Option (Nat × Nat)) : State :=
  let s := ws.foldl (fun s x => s.jwrite k x.1 x.2.1 x.2.2 true) s
  s.mapCore k fun c => { c with rep := { c.rep with
    memo := putK c.rep.memo nth ⟨err, ws.map fun x => ⟨x.1, x.2.1, x.2.2, true⟩⟩ } }

/-- What a posted receive writes of a landed message: the data, then the scales (R127, R182, R188). -/
def Posted.writes (p : Posted) (fs : List Flit) : List (Nat × Nat × List Byte) :=
  (p.sdst, p.dst, fs.flatMap flitBytes) ::
    (if scaleBytes p.tag = 0 then [] else [(0, p.asc, fs.flatMap fun f => payloadScale p.tag (payload f))])

/-- The first fault of a landed message against its receive: (payload word, flit index) (R126, R188). -/
def Posted.fault (p : Posted) (fs : List Flit) : Option (Nat × Nat) :=
  if fs.length ≠ p.nf then
    let i := if fs.length < p.nf then fs.length - 1 else p.nf
    some ((fs[i]?.map payload).getD 0, i)
  else
    match fs.findIdx? (fun f => !f.poisoned && !dataOk p.tag f) with
    | some i => some ((fs[i]?.map payload).getD 0, i)
    | none => none

/-- The landed message that goes next to a posted receive: its place in the buffers and the receive's place (R186). -/
def Core.nextLanding (c : Core) : Option (Nat × Nat) :=
  let cand := c.landing.zipIdx.filterMap fun x =>
    if !x.1.done || c.landing.zipIdx.any (fun y => y.2 < x.2 && y.1.done && y.1.kind == x.1.kind && y.1.chan == x.1.chan) then none
    else (c.posted.findIdx? fun p => p.got.isNone && p.kind == x.1.kind && p.chan == x.1.chan).map fun j => (x.2, j)
  cand.head?

/-- Accesses of a receive's copy, for slot tags (R210). -/
def accsOf (ws : List (Nat × Nat × List Byte)) : List Acc := ws.map fun x => ⟨true, x.1, x.2.1, x.2.2.length⟩

/-- One landed message copied to its receive (R126, R185, R186). -/
def State.takeLanding (s : State) (k : Site) (i j : Nat) : State :=
  let c := s.core k
  match c.landing[i]?, c.posted[j]? with
  | some m, some p =>
    let s := s.setCore k { c with landing := c.landing.eraseIdx i }
    match p.fault m.flits with
    | some (pay, idx) => (s.formatTag k p.entry pay idx).drainHeld k
    | none =>
      let ws := p.writes m.flits
      let err := if m.flits.any (·.poisoned) then some (0x0102, 0) else none
      match (if s.debug then c.tagFault .transfer (accsOf ws) else none) with
      | some x => (s.slotStop k .transfer p.entry x).drainHeld k
      | none =>
        let s := if s.debug then s.mapCore k (·.touchTags .transfer (accsOf ws)) else s
        let s := s.recvWrite k p.nth ws err
        let s := s.mapCore k fun c => { c with posted := c.posted.modify j fun p => { p with got := some err } }
        s.drainHeld k
  | _, _ => s

/-- Receives whose messages have been copied complete in the order they were posted (R186); one that met an error
replays its step or loses it (R462 to R464). -/
def State.completePosted (k : Site) : Nat → State → State
  | 0, s => s
  | n + 1, s =>
    let c := s.core k
    match c.posted with
    | [] => s
    | p :: r =>
      match p.got with
      | none => s
      | some err =>
        let s := (s.setCore k { c with posted := r }).complete k .transfer p.entry.word
        match err with
        | none => s.completePosted k n
        | some (code, arg1) =>
          if c.rep.lossMode then s.completePosted k n
          else if c.mayReplay p.entry.idx code p.nth then s.detectReplay k Core.reload p.entry.idx code p.nth arg1
          else (s.loseStep k p.entry.idx code).completePosted k n

/-- Copies every landed message that has a receive, and completes receives (R185, R186). -/
def State.takeLanded (k : Site) : Nat → State → State
  | 0, s => s
  | n + 1, s =>
    if QueueId.transfer ∈ (s.core k).stopped then s
    else
      match (s.core k).nextLanding with
      | none => s
      | some (i, j) => ((s.takeLanding k i j).completePosted k 17).takeLanded k n

/-- Is there a landing deadlock with this FRECV at the head of the transfer queue (R187)? -/
def Core.landingDead (c : Core) (e : QEntry) : Bool :=
  let kind := fld e.word 41 40
  decide (kind < 2) && c.landing.length == 4 && c.landing.all (·.done) &&
    c.landing.all (fun m => !(c.posted.any fun p => p.got.isNone && p.kind == m.kind && p.chan == m.chan)) &&
    (c.posted.length ≥ 16 || c.landing.all fun m => !(m.kind == kind && m.chan == recvChan e.word))

/-- A receive that ran in an earlier run of the step completes at once with its memo's outcome (R463). -/
def replayRecv (s : State) (k : Site) (nth : Nat) (m : RecvMemo) (ign : Bool) : Res :=
  let s := s.recvWrite k nth (m.writes.map fun j => (j.store, j.addr, j.bytes)) m.error
  let s := s.mapCore k fun c => { c with rep := { c.rep with recvPos := nth + 1 } }
  match m.error with
  | some (code, arg1) => if ign then .ok s else .detected s code nth arg1
  | none => .ok s

/-- The flits of a tree that reached a root, in order. -/
def Core.rootFlits (c : Core) (tree : Nat) : List Flit := c.rootIn.filter fun f => rMode f == 2 && rChan f == tree

/-- One message of a root's flits: up to the first LAST flit, if it is there. -/
def firstMessage (fs : List Flit) : Option (List Flit) := (fs.findIdx? rLast).map fun i => fs.take (i + 1)

/-- The write of a reduce flit at the root (R183, R189). -/
def redWrite (line op : Nat) (f : Flit) : Nat × Nat × List Byte :=
  let i := pIndex f
  if redHalf op then (2, lineAddr (line + i / 2) + 128 * (i % 2), bytesOfWords (redElems op f))
  else (2, lineAddr (line + i / 4) + 64 * (i % 4), bytesOfWords (redElems op f))

/-- A second copy of a reduction that differs from the first (R473, R474). -/
def State.dupMismatchTree (s : State) (k : Site) (e : QEntry) (tree : Nat) : State :=
  let s := s.raise { code := 0x0A04, cls := .contained, kind := 0, loc := s.coreLoc k, iidx := some e.idx, arg0 := tree, arg1 := 1 }
  let s := match s.cohortOf k with
    | some co => s.markLost co e.idx 0x0A04 (s.coreLoc k)
    | none => s
  let s := s.observe k false 0
  (s.treeRouters tree 400 k).foldl (fun s r => s.observe r true 0) s

/-- Do two copies of a message carry the same data, INDEX by INDEX (R473)? -/
def sameData (a b : List Flit) : Bool :=
  a.all fun f => b.any fun g => pIndex g == pIndex f && g.data == f.data

/-- COUNT of the first flit that does not carry the contributor count (R64). -/
def badCount (n : Nat) (fs : List Flit) : Option Nat := (fs.map pCount).find? (· ≠ n)

/-- FRECV at a reduce root (R64, R189, R473): it completes when every flit of its message has arrived. -/
def opFrecvRoot (s : State) (k : Site) (e : QEntry) (ign : Bool) : Res :=
  let c := s.core k
  let w := e.word
  let tree := recvChan w
  let op := fld w 13 11
  let nf := recvNf w
  let line := (e.aReg (recvAdst w)).toNat
  let nth := c.rep.recvPos
  if line + redLines op nf > 2048 then .region s (lineAddr line) 2 false
  else
    match c.rep.memo.find? (fun m => m.1 == nth) with
    | some m => replayRecv s k nth m.2 ign
    | none =>
      let fs := c.rootFlits tree
      let n := s.redNumber k tree
      match firstMessage fs with
      | none => .wait
      | some m =>
        let rest := fs.drop m.length
        let twice := if n.1 then firstMessage rest else some []
        match twice with
        | none => .wait
        | some m2 =>
          let s := n.2.mapCore k fun c => { c with
            rootIn := c.rootIn.filter (fun f => !(rMode f == 2 && rChan f == tree)) ++ rest.drop m2.length }
          if m.length ≠ nf then
            let i := if m.length < nf then m.length - 1 else nf
            .format s ((m[i]?.map payload).getD 0) i
          else
            match m.findIdx? (fun f => rOp f != op) with
            | some i => .format s ((m[i]?.map payload).getD 0) i
            | none =>
              let want := ((c.tab.root tree).map (·.contributors)).getD 0
              let err := if (m ++ m2).any (·.poisoned) then some (0x0102, 0)
                else (badCount want (m ++ m2)).map fun x => (0x0204, tree + x * 2 ^ 16)
              let s := s.recvWrite k nth (m.map (redWrite line op)) err
              let s := s.mapCore k fun c => { c with rep := { c.rep with recvPos := nth + 1 } }
              let flagged := (m.filter fun f => pNan f || pOvf f).length
              let s := if flagged = 0 then s else s.countCode k.panel 0x020D (s.coreLoc k) 0 flagged tree
              let s := if n.1 && !sameData m m2 then s.dupMismatchTree k e tree else s
              match err with
              | some (code, arg1) => if ign then .ok s else .detected s code nth arg1
              | none => .ok s

/-- FRECV (R180, R186, R188, R189). -/
def opFrecv (s : State) (k : Site) (e : QEntry) (ign : Bool) : Res :=
  let c := s.core k
  let w := e.word
  let nth := c.rep.recvPos
  let sdst := if flag w 33 then 1 else 0
  let a := e.aReg (recvAdst w)
  let dst := if sdst = 1 then a.toNat else actAddr a
  if fld w 41 40 = 2 then opFrecvRoot s k e ign
  else if sdst = 1 ∧ dst % 64 ≠ 0 then .illegal s
  else if !c.inWindow sdst dst (64 * recvNf w) then .region s dst sdst false
  else
    match c.rep.memo.find? (fun m => m.1 == nth) with
    | some m => replayRecv s k nth m.2 ign
    | none =>
      if c.posted.length ≥ 16 then .wait
      else
        let p : Posted := { kind := fld w 41 40, chan := recvChan w, sdst := sdst, dst := dst, tag := fld w 28 25
                            asc := actAddr (e.aReg (fld w 24 21)), nf := recvNf w, entry := e, nth := nth, got := none }
        let s := s.setCore k { c with posted := c.posted ++ [p], rep := { c.rep with recvPos := nth + 1 } }
        .later (s.takeLanded k 5)

/-! ### Accesses -/

/-- The partial-sum accesses of a reduction's contributor, and the other sources of sends. -/
def fabricAccs (e : QEntry) : List Acc :=
  match e.op with
  | .fsend =>
    [⟨false, (fsendSrc e).1, (fsendSrc e).2, 64 * fsendNf e⟩,
     ⟨false, 0, fsendAsc e, scaleBytes (fsendTag e) * fsendNf e⟩]
  | .fred => [⟨false, 2, lineAddr (fredLine e), 256 * redLines (redOp e.word) (fredNf e)⟩]
  | .fmrg => [⟨false, 0, fmrgList e, 8 * fmrgK e⟩]
  | _ => []

end Sys2Proof.Machine
end

