-- ==== Sys2Proof/Machine/Control.lean ====
section
/-! DEFINITION. The control and debug instructions of a core's front end (R201 to R211). -/

namespace Sys2Proof.Machine

/-- How a front-end instruction ends. -/
inductive Ctl where
  /-- it ran; fetch goes on behind the instruction of this index -/
  | ran (s : State) (idx : Nat)
  /-- it ran and set the fetch index itself -/
  | jumped (s : State)
  /-- dispatch stops at it for now -/
  | stall
  /-- an illegal encoding (R203) -/
  | illegal
  deriving Repr

/-! ### SETI, SOP (R201, R202) -/

/-- SOP's operation. -/
def sopFn (fn : Nat) (a b : Word) : Word :=
  match fn with
  | 0 => a + b
  | 1 => a - b
  | 2 => a * b
  | 3 => a &&& b
  | 4 => a ||| b
  | 5 => a ^^^ b
  | 6 => a <<< (b.toNat % 32)
  | 7 => a >>> (b.toNat % 32)
  | 8 => a.sshiftRight (b.toNat % 32)
  | 9 => if a.toInt < b.toInt then a else b
  | 10 => if a.toInt < b.toInt then b else a
  | 11 => if a.toNat < b.toNat then a else b
  | _ => if a.toNat < b.toNat then b else a

/-- An s or a register. -/
def Core.reg (c : Core) (isA : Bool) (i : Nat) : Word := if isA then c.areg i else c.sreg i

def ctlSeti (s : State) (k : Site) (e : QEntry) : Ctl :=
  .ran (s.mapCore k fun c => c.setReg (flag e.word 55) (fld e.word 54 50) (BitVec.ofNat 32 (fld e.word 31 0))) e.idx

def ctlSop (s : State) (k : Site) (e : QEntry) : Ctl :=
  let w := e.word
  .ran (s.mapCore k fun c =>
    let a := c.reg (flag w 43) (fld w 42 38)
    let b := if flag w 44 then BitVec.ofNat 32 (fld w 31 0) else c.reg (flag w 37) (fld w 36 32)
    c.setReg (flag w 55) (fld w 54 50) (sopFn (fld w 49 45) a b)) e.idx

/-! ### LOOP and the fetch index (R203) -/

/-- The index fetched after instruction `i`, with the loops it ends: `fuel` bounds the bodies that end together. -/
def nextFetch : Nat → List LoopFrame → Nat → List LoopFrame × Nat
  | 0, l, i => (l, i + 1)
  | n + 1, l, i =>
    match l with
    | [] => ([], i + 1)
    | f :: r =>
      if i = f.last then
        if 0 < f.left then ({ f with left := f.left - 1 } :: r, f.first) else nextFetch n r i
      else (l, i + 1)

/-- Fetch goes on behind instruction `i`. -/
def Core.advance (c : Core) (i : Nat) : Core :=
  let x := nextFetch 5 c.loops i
  { c with loops := x.1, idx := x.2 }

/-- LOOP; the innermost running loop heads the list. -/
def ctlLoop (s : State) (k : Site) (e : QEntry) : Ctl :=
  let c := s.core k
  let n := fld e.word 33 20
  let count := if flag e.word 55 then fld e.word 49 34 else (c.sreg (fld e.word 54 50)).toNat
  let last := e.idx + n
  let inside := match c.loops with
    | [] => true
    | f :: _ => last ≤ f.last
  if c.loops.length ≥ 4 ∨ last > 16383 ∨ !inside then .illegal
  else if count = 0 then .ran s last
  else .jumped (s.setCore k { c with loops := ⟨e.idx + 1, last, count - 1⟩ :: c.loops, idx := e.idx + 1 })

/-! ### TOK (R100, R204) -/

/-- Tokens of a mask. -/
def tokMask (w : BitVec 56) : List Nat := (List.range 16).filter fun i => bitOf (fld w 54 39) i

def ctlTok (s : State) (k : Site) (e : QEntry) : Ctl :=
  let c := s.core k
  let ts := tokMask e.word
  if flag e.word 55 then
    if ts.any fun t => c.tok t == 0 then .stall
    else .ran (s.setCore k (ts.foldl (fun c t => c.setTok t (c.tok t - 1)) c)) e.idx
  else .ran (s.setCore k (ts.foldl (fun c t => c.signal .front t) c)) e.idx

/-! ### TPARM (R205) -/

/-- The rows of the cohort a core processes in this tick. -/
def State.cohortRows (s : State) (k : Site) : List Row :=
  match s.cohortOf k with
  | some n => match s.serve.cohorts.find? (fun c => c.n == n) with
    | some c => c.rows
    | none => []
  | none => []

/-- A tick parameter; before tick 0 no rule states one, and the value is free (notes/assumptions/2). -/
def State.tparm (s : State) (k : Site) (sel : Nat) : Word :=
  if !s.tick.running then Config.freeWord s.free
  else
    let rows := s.cohortRows k
    let stage := ((s.core k).tab.assign.map (·.stage)).getD 0
    BitVec.ofNat 32 (match sel with
      | 0 => rows.length
      | 1 => rows.countP fun r => r.kind == .prefill
      | 2 => rows.countP fun r => r.kind == .verify
      | 3 => s.tick.n + 2 ^ 32 - stage
      | 4 => s.tick.n
      | 5 => s.tick.start
      | _ => s.ltAddr)

def ctlTparm (s : State) (k : Site) (e : QEntry) : Ctl :=
  let v := s.tparm k (fld e.word 49 46)
  let s' := s.mapCore k fun c => c.setReg false (fld e.word 54 50) v
  .ran (if s.tick.running then s' else { s' with free := s.free + 1 }) e.idx

/-! ### BARR and STEP (R206, R207, R458) -/

/-- Has every instruction dispatched completed, and no queue stopped (R138, R206)? -/
def Core.drained (c : Core) : Bool := c.quiet && c.stopped.isEmpty

def ctlBarr (s : State) (k : Site) (_e : QEntry) : Ctl :=
  let c := s.core k
  if !c.loops.isEmpty then .illegal
  else if !c.drained then .stall
  else .jumped (s.coreDone k)

def ctlStep (s : State) (k : Site) (e : QEntry) : Ctl :=
  let c := s.core k
  if !c.loops.isEmpty then .illegal
  else if !c.drained then .stall
  else
    let c := c.advance e.idx
    .jumped (s.setCore k (c.newStep c.idx (some e.idx)))

/-! ### Debug instructions (R209, R210) -/

/-- The new tag of a slot under DTAG: tracked keeps a tag there is, and takes an untracked slot as FULL
(notes/assumptions/30). -/
def dtagSlot (mode rd : Nat) (old : Option SlotTag) : Option SlotTag :=
  match mode with
  | 0 => none
  | 1 => match old with
    | some t => some { t with readers := rd }
    | none => some ⟨.full, rd, 0, []⟩
  | _ => some ⟨.empty, rd, 0, []⟩

def ctlDtag (s : State) (k : Site) (e : QEntry) : Ctl :=
  let w := e.word
  if !s.debug then .ran s e.idx
  else
    .ran (s.mapCore k fun c => (List.range (fld w 46 37)).foldl (fun c i =>
      let sl := fld w 55 47 + i
      match dtagSlot (fld w 36 35) (fld w 34 33) (c.tagOf sl) with
      | some t => c.setTag sl t
      | none => { c with tags := delK c.tags sl }) c) e.idx

def ctlDtrace (s : State) (k : Site) (e : QEntry) : Ctl :=
  if !s.debug then .ran s e.idx
  else
    .ran (s.mapCore k fun c => { c with
      trace := putK c.trace c.traceNext ⟨e.idx, c.sreg (fld e.word 54 50), s.time⟩
      traceNext := (c.traceNext + 1) % 64 }) e.idx

def ctlDbrk (s : State) (k : Site) (e : QEntry) : Ctl :=
  let v := (s.core k).sreg (fld e.word 54 50)
  if !s.debug || (flag e.word 55 && v == 0#32) then .ran s e.idx
  else
    let s' := s.raise { code := 0x020E, cls := .note, kind := 0, loc := s.coreLoc k, iidx := some e.idx, arg0 := v.toNat }
    .ran (s'.requestFreeze .breakpoint s'.freeze.immediate) e.idx

end Sys2Proof.Machine
end

