-- ==== Sys2Proof/Machine/Fused.lean ====
section
/-! DEFINITION. The fused commands ATTEND, GATE and SAMPLE-FEED (R154, R190 to R200), with the KV frame layout, append
and rotary arithmetic they use (R256 to R264, R270 to R272). -/

namespace Sys2Proof.Machine

/-! ### Descriptors (R190, R191) -/

/-- The address a fused command's AD names, and its bytes. -/
def fusedAddr (e : QEntry) : Nat := actAddr (e.aReg (fld e.word 41 38))
def fusedAligned (e : QEntry) : Bool := (e.aReg (fld e.word 41 38)).toNat % 64 == 0

/-- ATTEND's descriptor (R191). -/
structure AttendDesc where
  lyr : Nat
  nh : Nat
  hdCode : Nat
  late : Bool
  app : Bool
  lay : Bool
  mask : Nat
  fin : Bool
  gq : Nat
  win : Nat
  qaddr : Nat
  kaddr : Nat
  vaddr : Nat
  oaddr : Nat
  maddr : Nat
  faddr : Nat
  scl : Word
  psb : Nat
  row0 : Nat
  nr : Nat
  ltab : Nat
  deriving DecidableEq, Repr

/-- Elements of a head. -/
def AttendDesc.hd (d : AttendDesc) : Nat := headSize d.hdCode

/-- The descriptor of 128 bytes, and whether every field is legal (R190, R191, R272). -/
def attendDesc (bs : List Byte) : AttendDesc × Bool :=
  let w (o : Nat) : Nat := fieldAt bs o 4
  let d : AttendDesc :=
    { lyr := bitsOf (w 0) 7 0, nh := bitsOf (w 0) 10 8, hdCode := bitsOf (w 0) 12 11, late := bitOf (w 0) 13
      app := bitOf (w 0) 14, lay := bitOf (w 0) 15, mask := bitsOf (w 0) 17 16, fin := bitOf (w 0) 18
      gq := bitsOf (w 0) 24 19, win := w 4, qaddr := w 8, kaddr := w 0xC, vaddr := w 0x10, oaddr := w 0x14
      maddr := w 0x18, faddr := w 0x1C, scl := BitVec.ofNat 32 (w 0x20), psb := bitsOf (w 0x24) 10 0
      row0 := bitsOf (w 0x28) 15 0, nr := bitsOf (w 0x28) 31 16, ltab := w 0x2C }
  (d, bitsOf (w 0) 31 25 == 0 && bitsOf (w 0x24) 31 11 == 0 && (bs.drop 0x30).all (· == 0#8) &&
    decide (1 ≤ d.nh) && d.nh ≤ 4 && d.hdCode ≤ 2 && d.mask ≤ 2 && decide (1 ≤ d.gq) &&
    (if d.mask = 1 then decide (1 ≤ d.win) && d.win ≤ 1048576 else d.win == 0) && (!d.fin || d.maddr == 0) &&
    decide (1 ≤ d.nr) && d.nr ≤ 4096 && !(d.late && d.lay))

/-- A lengths-table row as ATTEND reads it (R265). -/
structure LtRow where
  seq : Nat
  app : Bool
  starved : Bool
  pos : Nat
  len : Nat
  deriving DecidableEq, Repr

def ltRow (bs : List Byte) : LtRow :=
  let w (o : Nat) : Nat := fieldAt bs o 4
  ⟨bitsOf (w 0) 12 0, bitOf (w 0) 16, bitOf (w 0) 17, bitsOf (w 4) 20 0, bitsOf (w 8) 20 0⟩

/-- Row r of the command's rows. -/
def Core.attendRow (c : Core) (d : AttendDesc) (r : Nat) : LtRow := ltRow (c.rd 0 (d.ltab + 16 * (d.row0 + r)) 16)

/-! ### KV frames (R256 to R258) -/

/-- The format of the loaded plan: true for KV4 (R250). -/
def State.kv4 (s : State) : Bool := match s.loaded with
  | some l => l.pkg.kv.kv4
  | none => false

/-- Positions a page holds (R252). -/
def pagePos (kv4 : Bool) : Nat := if kv4 then 128 else 64

/-- Dimensions of a scale block (R257). -/
def kvBlk (kv4 : Bool) : Nat := if kv4 then 32 else 64

/-- Tile, cell row and output column of K at (t, d) (R256). -/
def kCell (kv4 : Bool) (t d : Nat) : Nat × Nat × Nat :=
  if kv4 then (4 * (t / 32) + d / 32, d % 32, t % 32) else (4 * (t / 16) + d / 32, d % 32, t % 16)
/-- Tile, cell row and output column of V at (t, d) (R256). -/
def vCell (kv4 : Bool) (t d : Nat) : Nat × Nat × Nat :=
  if kv4 then (16 + 4 * (t / 32) + d / 32, t % 32, d % 32) else (16 + 8 * (t / 32) + d / 16, t % 32, d % 16)
/-- Sidecar offsets of the scales of (t, b) (R257). -/
def kScaleOff (kv4 : Bool) (t b : Nat) : Nat := if kv4 then 16384 + 4 * t + b else 16384 + 2 * t + b
def vScaleOff (kv4 : Bool) (t b : Nat) : Nat := if kv4 then 16384 + 512 + 4 * t + b else 16384 + 128 + 2 * t + b

/-- Frame offset of a cell's byte, and the lowest bit and width of its code. -/
def cellOff (kv4 : Bool) (c : Nat × Nat × Nat) : Nat × Nat × Nat :=
  let w := if kv4 then 4 else 8
  (512 * c.1 + 16 * c.2.1 + c.2.2 * w / 8, 8 - w - c.2.2 * w % 8, w)

/-- The signed code in a cell of a frame's bytes (R258). -/
def cellVal (kv4 : Bool) (fr : List Byte) (c : Nat × Nat × Nat) : Int :=
  let o := cellOff kv4 c
  let v := (fr.getD o.1 0#8).toNat / 2 ^ o.2.1 % 2 ^ o.2.2
  if v < 2 ^ (o.2.2 - 1) then v else (v : Int) - 2 ^ o.2.2

/-- The FP32 value of a stored scale byte. -/
def kvScaleWord (b : Byte) : Word := toF32 (ofE4M3 b)

/-! ### Append (R194, R256, R260, R264) -/

/-- The code of an integer in a `w`-bit cell. -/
def cellCodeOf (w : Nat) (q : Int) : Nat := (BitVec.ofInt w q).toNat

/-- A vector of one head quantised for the cache: codes, scale bytes, blocks with a saturated element (R114 to R116). -/
def kvQuant (kv4 : Bool) (xs : List Word) : List Int × List Byte × Nat :=
  let n := kvBlk kv4
  let lim := if kv4 then 7 else 127
  let bs := (List.range (xs.length / n)).map fun b =>
    let x := (xs.drop (n * b)).take n
    let am := amaxOf x
    let sc := kvScale am.1 am.2 lim
    let q := quantBlock (ofE4M3 sc) lim x
    (q.1, sc, q.2.1)
  (bs.flatMap (·.1), bs.map (·.2.1), bs.countP (fun b => b.2.2 ≠ 0))

/-- Writes one code into a cell of frame `f`. -/
def State.putCell (s : State) (k : Site) (f : Nat) (kv4 : Bool) (c : Nat × Nat × Nat) (q : Int) : State :=
  let o := cellOff kv4 c
  let core := s.core k
  let a := core.tab.frameAddr f + o.1
  let b := (core.rd 1 a 1).getD 0 0#8
  let v := cellCodeOf o.2.2 q
  s.jwrite k 1 a [BitVec.ofNat 8 (b.toNat - b.toNat / 2 ^ o.2.1 % 2 ^ o.2.2 * 2 ^ o.2.1 + v * 2 ^ o.2.1)] false

/-- The frame of a pair's page and slice in this core (R264). -/
def Core.pageFrame (c : Core) (seq bind lpage slice : Nat) : Option Nat :=
  (c.chain seq bind).find? fun f =>
    let r := c.frameRec f
    r.lpage == lpage && r.slice == slice

/-- Writes a head's K or V codes and scales at a position: `isK` selects the half of the frame (R256, R257, R259). -/
def State.putHead (s : State) (k : Site) (kv4 isK : Bool) (frameAt : Nat → Option Nat) (t : Nat) (codes : List Int)
    (scales : List Byte) : State :=
  let s := codes.zipIdx.foldl (fun s x =>
    match frameAt (x.2 / 128) with
    | some f => s.putCell k f kv4 (if isK then kCell kv4 t (x.2 % 128) else vCell kv4 t (x.2 % 128)) x.1
    | none => s) s
  let per := 128 / kvBlk kv4
  scales.zipIdx.foldl (fun s x =>
    match frameAt (x.2 / per) with
    | some f =>
      let off := if isK then kScaleOff kv4 t (x.2 % per) else vScaleOff kv4 t (x.2 % per)
      s.jwrite k 1 ((s.core k).tab.frameAddr f + off) [x.1] false
    | none => s) s

/-- FP32 words of the activation store. -/
def Core.words (c : Core) (a n : Nat) : List Word := wordsOf (c.rd 0 a (4 * n)) n

/-- The append of row r and head h, if this core holds the page (R194, R264). -/
def State.attendAppend (s : State) (k : Site) (d : AttendDesc) (fs : List Word) (h r : Nat) : State :=
  let c := s.core k
  let row := c.attendRow d r
  let kv4 := s.kv4
  let bind := d.lyr * 4 + h
  let frameAt (sl : Nat) : Option Nat := c.pageFrame row.seq bind (row.pos / pagePos kv4) sl
  if !d.app || !row.app || row.starved || (frameAt 0).isNone then s
  else
    let off := 4 * (r * d.nh + h) * d.hd
    let kx := c.words (d.kaddr + off) d.hd
    let kx := if d.late then kx else rope false d.lay d.hd row.pos fs kx
    let vx := c.words (d.vaddr + off) d.hd
    let kq := kvQuant kv4 kx
    let vq := kvQuant kv4 vx
    let t := row.pos % pagePos kv4
    let s := s.putHead k kv4 true frameAt t kq.1 kq.2.1
    let s := s.putHead k kv4 false frameAt t vq.1 vq.2.1
    let bad := kq.2.2 + vq.2.2
    if bad = 0 then s
    else
      let s := s.countCode k.panel 0x020B (s.coreLoc k) 0 bad 0
      match s.cohortOf k with
      | some co => s.clipRow co (d.row0 + r)
      | none => s

/-! ### Scores and values (R193, R194, R261, R272) -/

/-- round_half_even of an exact value. -/
def rheFp : Fp → Int
  | .fin n m e => rheInt n m e
  | _ => 0

/-- The rotated codes of one 32-dimension column of a K tile, and the exponent its scale is multiplied by (R272). -/
def lateColumn (kv4 : Bool) (n d0 : Nat) (fs : List Word) (ks : List Int) : List Int × Int :=
  let rs := (List.range 32).map fun i =>
    let p := i / 2
    let a := Fp.ofInt (ks.getD (2 * p) 0)
    let b := Fp.ofInt (ks.getD (2 * p + 1) 0)
    let t := turns n (fs.getD (d0 / 2 + p) 0#32)
    let cs := cosSinF32 t.1 t.2
    let c := ofF32 cs.1
    let sn := ofF32 cs.2
    if i % 2 = 0 then (a.mul c).add (b.mul sn).neg else (a.mul sn).add (b.mul c)
  if kv4 then (rs.map fun r => rheFp (r.mul (Fp.ofInt 8)), -3)
  else
    let e : Nat := if rs.all (fun r => (rheFp r).natAbs ≤ 127) then 0 else 1
    (rs.map fun r => rheFp (r.mul (Fp.pow2 (-(e : Int)))), e)

/-- A frame held for a pair: logical page, slice, bytes (R264). -/
structure HeldFrame where
  lpage : Nat
  slice : Nat
  bytes : List Byte
  deriving DecidableEq, Repr

/-- The frames of a pair on this core, in chain order. -/
def Core.heldFrames (c : Core) (seq bind : Nat) : List HeldFrame :=
  (c.chain seq bind).map fun f =>
    let r := c.frameRec f
    ⟨r.lpage, r.slice, c.rd 1 (c.tab.frameAddr f) frameBytes⟩

/-- The bytes of a page's slice. -/
def sliceBytes (fr : List HeldFrame) (lpage slice : Nat) : List Byte :=
  ((fr.find? fun x => x.lpage == lpage && x.slice == slice).map (·.bytes)).getD []

/-- The score of a query and a position before SCL: K tiles in ascending dimension order (R194). -/
def score (d : AttendDesc) (kv4 : Bool) (fs : List Word) (fr : List HeldFrame) (lpage t : Nat) (qc : List Int)
    (qs : List Word) : Word :=
  (List.range (d.hd / 32)).foldl (fun acc τ =>
    let bs := sliceBytes fr lpage (τ / 4)
    let dl := 32 * (τ % 4)
    let ks := (List.range 32).map fun i => cellVal kv4 bs (kCell kv4 t (dl + i))
    let x := if d.late then lateColumn kv4 (pagePos kv4 * lpage + t) (32 * τ) fs ks else (ks, 0)
    let sc := kvScaleWord (bs.getD (kScaleOff kv4 t (dl / kvBlk kv4)) 0#8)
    let y := sumInt ((List.range 32).map fun i => qc.getD (32 * τ + i) 0 * x.1.getD i 0)
    accumulate (if τ = 0 then 2 else 3) acc y x.2 (qs.getD (τ / 2) 0#32) sc) 0#32

/-- Is position j visible to a row (R193)? -/
def visible (d : AttendDesc) (row : LtRow) (j : Nat) : Bool :=
  match d.mask with
  | 0 => j ≤ row.pos
  | 1 => j ≤ row.pos && row.pos < j + d.win
  | _ => j < row.len

/-- The running triple of a query: m, l and the output elements (R194). -/
structure Triple where
  m : Word
  l : Word
  o : List Word
  deriving DecidableEq, Repr

def negInf32 : Word := 0xFF800000#32

/-- An A8 block in dynamic mode: codes, and the scale as FP32 (R114, R115). -/
def a8Dynamic (xs : List Word) : List Int × Word :=
  let am := amaxOf xs
  let sc := a8Scale am.1 am.2
  ((quantBlock (ofBF16 sc) 127 xs).1, widenBF16 sc)

/-- One block of 64 positions from page-local position t0 applied to a query's triple (R194). -/
def attendBlock (d : AttendDesc) (kv4 : Bool) (fs : List Word) (fr : List HeldFrame) (lpage t0 : Nat) (row : LtRow)
    (qc : List Int) (qs : List Word) (x : Triple) : Triple :=
  let base := pagePos kv4 * lpage + t0
  let xs : List (Option Word) := (List.range 64).map fun j =>
    if visible d row (base + j) then some (mulF32 (score d kv4 fs fr lpage (t0 + j) qc qs) d.scl) else none
  let mb := xs.foldl (fun acc y => match y with
    | some v => maxF32 acc v
    | none => acc) x.m
  let al := exp2F32 (subF32 x.m mb)
  let p := xs.map fun y => match y with
    | some v => exp2F32 (subF32 v mb)
    | none => 0#32
  let l := addF32 (mulF32 x.l al) (treeSum addF32 0#32 p)
  let o := x.o.map fun v => mulF32 v al
  let blk := kvBlk kv4
  let per := 128 / blk
  let o := (List.range (d.hd / blk)).flatMap fun c =>
    let bs := sliceBytes fr lpage (c / per)
    let pc := p.zipIdx.map fun y => mulF32 y.1 (kvScaleWord (bs.getD (vScaleOff kv4 (t0 + y.2) (c % per)) 0#8))
    let q := a8Dynamic pc
    (List.range blk).map fun i =>
      let dl := blk * (c % per) + i
      (List.range 2).foldl (fun acc half =>
        let y := sumInt ((List.range 32).map fun j =>
          q.1.getD (32 * half + j) 0 * cellVal kv4 bs (vCell kv4 (t0 + 32 * half + j) dl))
        accumulate 3 acc y 0 q.2 one32) (o.getD (blk * c + i) 0#32)
  ⟨mb, l, o⟩

/-- A query's triple over every block held here that holds a visible position, in ascending position (R194, R264). -/
def attendQuery (d : AttendDesc) (kv4 : Bool) (fs : List Word) (fr : List HeldFrame) (row : LtRow) (q : List Word) : Triple :=
  let q := rope false d.lay d.hd row.pos fs q
  let bl := (List.range (d.hd / 64)).map fun b => a8Dynamic ((q.drop (64 * b)).take 64)
  let qc := bl.flatMap (·.1)
  let qs := bl.map (·.2)
  let pages := (fr.filter (fun f => f.slice = 0)).map (·.lpage)
  pages.foldl (fun x lp =>
    (List.range (pagePos kv4 / 64)).foldl (fun x i =>
      let base := pagePos kv4 * lp + 64 * i
      if (List.range 64).any fun j => visible d row (base + j) then attendBlock d kv4 fs fr lp (64 * i) row qc qs x else x) x)
    ⟨negInf32, 0#32, List.replicate d.hd 0#32⟩

/-- The writes of row r and head h: outputs, and pairs when FIN is 0 (R192, R194). -/
def Core.attendOut (c : Core) (kv4 : Bool) (d : AttendDesc) (fs : List Word) (h r : Nat) : List (Nat × List Byte) :=
  let row := c.attendRow d r
  let fr := c.heldFrames row.seq (d.lyr * 4 + h)
  (List.range d.gq).flatMap fun g =>
    let i := (r * d.nh + h) * d.gq + g
    let x := if row.starved then ⟨negInf32, 0#32, List.replicate d.hd 0#32⟩
      else attendQuery d kv4 fs fr row (c.words (d.qaddr + 4 * i * d.hd) d.hd)
    if d.fin then
      let rc := rcpF32 x.l
      [(d.oaddr + 4 * i * d.hd, bytesOfWords (if row.starved then x.o else x.o.map fun v => mulF32 v rc))]
    else [(d.oaddr + 4 * i * d.hd, bytesOfWords x.o), (d.maddr + 8 * i, bytesOfWords [x.m, x.l])]

/-- The scratch lines of ATTEND hold undefined values when it completes: free values (R191, notes/assumptions/2). -/
def State.scratch (s : State) (k : Site) (line n : Nat) : State :=
  let ws := (List.range (64 * n)).map fun i => Config.freeWord (s.free + i)
  let s := s.mapCore k fun c => c.wrRaw 2 (lineAddr line) (bytesOfWords ws)
  { s with free := s.free + 64 * n }

/-- The sampled operations inside a fused command are numbered with those of the core; how many there are is open
(notes/assumptions/29). -/
def State.fusedOps (s : State) (k : Site) : State :=
  let s' := s.mapCore k fun c => { c with dupOp := c.dupOp + Config.fusedOps s.free }
  { s' with free := s.free + 1 }

/-- Frames a command's pages name, for the window (R194). -/
def Core.attendFrames (c : Core) (d : AttendDesc) : List Nat :=
  (List.range d.nr).flatMap fun r => (List.range d.nh).flatMap fun h => c.chain (c.attendRow d r).seq (d.lyr * 4 + h)

/-- ATTEND (R191 to R194): each head's appends, then its rows. -/
def opAttend (s : State) (k : Site) (e : QEntry) : Res :=
  let c := s.core k
  let p := attendDesc (c.rd 0 (fusedAddr e) 128)
  let d := p.1
  let arrived := match c.inflight with
    | some fl => fl.tile.isSome
    | none => true
  if !fusedAligned e || !p.2 then .illegal s
  else
    match c.freqs (d.faddr % 2 ^ 21) (d.hd / 2) with
    | none => .illegal s
    | some fs =>
      if d.psb + 128 > 2048 then .region s (lineAddr d.psb) 2 false
      else
        match (c.attendFrames d).find? (fun f => !c.inWindow 1 (c.tab.frameAddr f) frameBytes) with
        | some f => .region s (c.tab.frameAddr f) 1 false
        | none =>
          if !arrived then .wait
          else
            let s := match c.inflight with
              | some fl => s.complete k .array fl.entry.word
              | none => s
            let s := (List.range d.nh).foldl (fun s h =>
              let s := (List.range d.nr).foldl (fun s r => s.attendAppend k d fs h r) s
              (List.range d.nr).foldl (fun s r =>
                ((s.core k).attendOut s.kv4 d fs h r).foldl (fun s x => s.jwrite k 0 x.1 x.2 false) s) s) s
            let s := (s.scratch k d.psb 128).fusedOps k
            .ok (s.mapCore k fun c => { c with active := none, shadow := none, inflight := none, cols := 64 })

/-! ### GATE (R196 to R198) -/

structure GateDesc where
  psl : Nat
  nr : Nat
  e : Nat
  k : Nat
  sigmoid : Bool
  norm : Bool
  baddr : Nat
  oaddr : Nat
  deriving DecidableEq, Repr

def gateDesc (bs : List Byte) : GateDesc × Bool :=
  let w (o : Nat) : Nat := fieldAt bs o 4
  let d : GateDesc :=
    { psl := bitsOf (w 0) 10 0, nr := bitsOf (w 4) 12 0, e := bitsOf (w 4) 21 13, k := bitsOf (w 4) 26 22
      sigmoid := bitOf (w 4) 27, norm := bitOf (w 4) 28, baddr := w 8, oaddr := w 0xC }
  (d, bitsOf (w 0) 31 11 == 0 && bitsOf (w 4) 31 29 == 0 && (bs.drop 0x10).all (· == 0#8) && decide (1 ≤ d.nr) &&
    d.nr ≤ 4096 && decide (1 ≤ d.e) && d.e ≤ 256 && decide (1 ≤ d.k) && d.k ≤ 16)

/-- log₂ e as R197 gives it. -/
def log2e : Word := 0x3FB8AA3B#32

/-- Scores of a row's logits (R197). -/
def gateScores (sigmoid : Bool) (xs : List Word) : List Word :=
  if sigmoid then xs.map fun x => rcpF32 (addF32 one32 (exp2F32 (mulF32 (flipSign x) log2e)))
  else
    let mx := match xs with
      | [] => 0#32
      | x :: r => r.foldl maxF32 x
    let es := xs.map fun x => exp2F32 (mulF32 (subF32 x mx) log2e)
    let groups := (List.range (ceilDiv es.length 64)).map fun g =>
      treeSum addF32 0#32 ((List.range 64).map fun i => es.getD (64 * g + i) 0#32)
    let sum := match groups with
      | [] => 0#32
      | x :: r => r.foldl addF32 x
    let rc := rcpF32 sum
    es.map fun x => mulF32 x rc

/-- The selected experts in rank order with their weights (R197). -/
def gateSelect (d : GateDesc) (xs bias : List Word) : List (Nat × Word) :=
  let sc := gateScores d.sigmoid xs
  let keys : List Cand := sc.zipIdx.map fun x => ⟨addF32 x.1 (bias.getD x.2 0#32), x.2⟩
  let sel := ((sortCands keys).take d.k).map (·.idx)
  let ws := sel.map fun i => sc.getD i 0#32
  let rc := match ws with
    | [] => 0#32
    | x :: r => rcpF32 (r.foldl addF32 x)
  sel.map fun i => (i, if d.norm then mulF32 (sc.getD i 0#32) rc else sc.getD i 0#32)

/-- A row's K records; ranks beyond the experts there are have no stated value (notes/assumptions/2). -/
def gateRecords (d : GateDesc) (free : Nat) (xs bias : List Word) : List Byte :=
  let sel := gateSelect d xs bias
  (List.range d.k).flatMap fun i =>
    match sel[i]? with
    | some (x, w) => natLe 4 (x + (narrowBF16 w).toNat * 2 ^ 16)
    | none => natLe 4 (Config.freeWord (free + i)).toNat

/-- GATE (R196 to R198). -/
def opGate (s : State) (k : Site) (e : QEntry) : Res :=
  let c := s.core k
  let p := gateDesc (c.rd 0 (fusedAddr e) 64)
  let d := p.1
  let lines := ceilDiv d.e 64
  if !fusedAligned e || !p.2 then .illegal s
  else if d.psl + d.nr * lines > 2048 then .region s (lineAddr d.psl) 2 false
  else
    let bias := if d.baddr = 0xFFFFFFFF then [] else c.words d.baddr d.e
    let s := (List.range d.nr).foldl (fun s r =>
      let xs := (List.range d.e).map fun i => ((s.core k).line (d.psl + r * lines + i / 64)).getD (i % 64) 0#32
      let s' := s.jwrite k 0 (d.oaddr + 4 * d.k * r) (gateRecords d s.free xs bias) false
      { s' with free := s.free + d.k }) s
    .ok (s.fusedOps k)

/-! ### SAMPLE-FEED (R199, R200) -/

structure FeedDesc where
  psl : Nat
  nr : Nat
  nv : Nat
  vbase : Nat
  k : Nat
  tree : Nat
  deriving DecidableEq, Repr

def feedDesc (bs : List Byte) : FeedDesc × Bool :=
  let w (o : Nat) : Nat := fieldAt bs o 4
  let d : FeedDesc :=
    { psl := bitsOf (w 0) 10 0, nr := bitsOf (w 4) 12 0, nv := bitsOf (w 4) 26 13, vbase := bitsOf (w 8) 23 0
      k := bitsOf (w 0xC) 6 0, tree := bitsOf (w 0xC) 12 7 }
  (d, bitsOf (w 0) 31 11 == 0 && bitsOf (w 4) 31 27 == 0 && bitsOf (w 8) 31 24 == 0 && bitsOf (w 0xC) 31 13 == 0 &&
    (bs.drop 0x10).all (· == 0#8) && decide (1 ≤ d.k) && d.k ≤ 64 && d.nr ≤ 4096 && decide (1 ≤ d.nv) && d.nv ≤ 8192 &&
    d.vbase + d.nv ≤ 2 ^ 24)

/-- The flits of one row's list (R200). -/
def Core.feedRow (c : Core) (d : FeedDesc) (root : Site) (cohort r : Nat) : List Flit :=
  let lines := ceilDiv d.nv 64
  let xs := (List.range d.nv).map fun i => (⟨(c.line (d.psl + r * lines + i / 64)).getD (i % 64) 0#32, d.vbase + i⟩ : Cand)
  listFlits (siteCanopy root) (siteG root) (siteH root) d.tree d.k cohort (topK d.k xs)

/-- SAMPLE-FEED (R199, R200). -/
def opSampleFeed (s : State) (k : Site) (e : QEntry) : Res :=
  let c := s.core k
  let p := feedDesc (c.rd 0 (fusedAddr e) 64)
  let d := p.1
  if !fusedAligned e || !p.2 then .illegal s
  else if d.psl + d.nr * ceilDiv d.nv 64 > 2048 then .region s (lineAddr d.psl) 2 false
  else if d.nr = 0 then .ok (s.sendFlits k [])
  else
    match c.tab.root d.tree with
    | none => .region s 0 0 true
    | some r => .ok (s.sendFlits k ((List.range d.nr).flatMap fun i => c.feedRow d r.root ((s.cohortOf k).getD 0) i))

/-! ### Accesses -/

def fusedAccs (e : QEntry) (c : Core) : List Acc :=
  match e.op with
  | .attend =>
    let p := attendDesc (c.rd 0 (fusedAddr e) 128)
    let d := p.1
    let n := 4 * d.nr * d.nh * d.hd
    ⟨false, 0, fusedAddr e, 128⟩ ::
      (if p.2 then
        [⟨false, 0, d.ltab + 16 * d.row0, 16 * d.nr⟩, ⟨false, 0, d.qaddr, n * d.gq⟩, ⟨false, 0, d.faddr, 2 * d.hd⟩] ++
          (if d.app then [⟨false, 0, d.kaddr, n⟩, ⟨false, 0, d.vaddr, n⟩] else []) ++
          (c.attendFrames d).flatMap (fun f => [⟨false, 1, c.tab.kvBase + 8 * f, 8⟩, ⟨false, 1, c.tab.frameAddr f, frameBytes⟩]) ++
          [⟨true, 0, d.oaddr, n * d.gq⟩] ++ (if d.fin then [] else [⟨true, 0, d.maddr, 8 * d.nr * d.nh * d.gq⟩])
       else [])
  | .gate =>
    let p := gateDesc (c.rd 0 (fusedAddr e) 64)
    let d := p.1
    ⟨false, 0, fusedAddr e, 64⟩ ::
      (if p.2 then
        [⟨false, 2, lineAddr d.psl, 256 * (d.nr * ceilDiv d.e 64)⟩] ++
          (if d.baddr = 0xFFFFFFFF then [] else [⟨false, 0, d.baddr, 4 * d.e⟩]) ++ [⟨true, 0, d.oaddr, 4 * d.k * d.nr⟩]
       else [])
  | .sampleFeed =>
    let p := feedDesc (c.rd 0 (fusedAddr e) 64)
    let d := p.1
    ⟨false, 0, fusedAddr e, 64⟩ :: (if p.2 then [⟨false, 2, lineAddr d.psl, 256 * (d.nr * ceilDiv d.nv 64)⟩] else [])
  | _ => []

end Sys2Proof.Machine
end

