-- ==== Sys2Proof/Machine/Transfer.lean ====
section
/-! DEFINITION. The store instructions of the transfer queue: XMOV, XTW, XFILL (R83, R176 to R179). -/

namespace Sys2Proof.Machine

/-- The byte address an address register names in a store: the activation store takes its low 21 bits (R77). -/
def storeAddr (st : Nat) (x : Word) : Nat := if st = 0 then actAddr x else x.toNat

/-- Is a unit count legal: 1 to 65,535 (R177)? -/
def unitCount (n : Nat) : Bool := decide (1 ≤ n) && n ≤ 65535

/-! ### XMOV and XFILL (R177, R178) -/

def xmovSrc (e : QEntry) : Nat × Nat := (fld e.word 37 36, storeAddr (fld e.word 37 36) (e.aReg (fld e.word 41 38)))
def xmovDst (e : QEntry) : Nat × Nat := (fld e.word 31 30, storeAddr (fld e.word 31 30) (e.aReg (fld e.word 35 32)))
def xmovCount (e : QEntry) : Nat := (e.sReg (fld e.word 29 25)).toNat

/-- Copies units from `a` to `b` in ascending order, each read before it is written (R178). -/
def State.copyUnits (k : Site) (sa a sb b : Nat) : Nat → State → State
  | 0, s => s
  | n + 1, s =>
    State.copyUnits k sa (a + 32) sb (b + 32) n (s.jwrite k sb b ((s.core k).rd sa a 32) false)

/-- XMOV. -/
def opXmov (s : State) (k : Site) (e : QEntry) : Res :=
  let c := s.core k
  let src := xmovSrc e
  let dst := xmovDst e
  let n := xmovCount e
  if !unitCount n || src.2 % 32 != 0 || dst.2 % 32 != 0 then .illegal s
  else if !c.inWindow src.1 src.2 (32 * n) then .region s src.2 src.1 false
  else if !c.inWindow dst.1 dst.2 (32 * n) then .region s dst.2 dst.1 false
  else .ok (s.copyUnits k src.1 src.2 dst.1 dst.2 n)

def xfillDst (e : QEntry) : Nat × Nat := (fld e.word 37 36, storeAddr (fld e.word 37 36) (e.aReg (fld e.word 41 38)))
def xfillCount (e : QEntry) : Nat := (e.sReg (fld e.word 35 31)).toNat

/-- Writes a unit of eight copies of a pattern to consecutive units. -/
def State.fillUnits (k : Site) (st : Nat) (unit : List Byte) : Nat → Nat → State → State
  | 0, _, s => s
  | n + 1, a, s => State.fillUnits k st unit n (a + 32) (s.jwrite k st a unit false)

/-- XFILL. -/
def opXfill (s : State) (k : Site) (e : QEntry) : Res :=
  let dst := xfillDst e
  let n := xfillCount e
  if !unitCount n || dst.2 % 32 != 0 then .illegal s
  else if !(s.core k).inWindow dst.1 dst.2 (32 * n) then .region s dst.2 dst.1 false
  else .ok (s.fillUnits k dst.1 (bytesOfWords (List.replicate 8 (e.sReg (fld e.word 30 26)))) n dst.2)

/-! ### XTW (R83, R179) -/

/-- Element width in bits. -/
def xtwWidth (e : QEntry) : Nat := 2 * 2 ^ xtwEw e.word
def xtwSrc (e : QEntry) : Nat := actAddr (e.aReg (fld e.word 41 38))
def xtwBlock (e : QEntry) : Bool := flag e.word 37
def xtwDst (e : QEntry) : Nat :=
  if xtwBlock e then actAddr (e.aReg (xtwAdst e.word)) else (e.aReg (xtwAdst e.word)).toNat
def xtwCol (e : QEntry) : Nat := (e.sReg (fld e.word 29 25)).toNat

/-- Is the pair of target and width one R83 lists, and the column in its range? -/
def xtwLegal (e : QEntry) : Bool :=
  let w := xtwWidth e
  let k := xtwCol e
  (if xtwBlock e then (w == 8 || w == 16 || w == 32) && k < 256 / w && xtwDst e % 1024 == 0
   else w ≤ 8 && k < 128 / w && xtwDst e % 512 == 0) && xtwSrc e % 32 == 0

/-- Element i of the source bytes (R179). -/
def xtwElem (e : QEntry) (src : List Byte) (i : Nat) : Nat :=
  let w := xtwWidth e
  leNat src / 2 ^ (w * i) % 2 ^ w

/-- The byte offset in a tile, and the lowest bit in that byte, of cell row i's output column k at width w (R82). -/
def tileCell (w i k : Nat) : Nat × Nat := (16 * i + k * w / 8, 8 - w - k * w % 8)

/-- A byte with `w` bits from bit `lo` replaced. -/
def spliceBits (b : Byte) (lo w v : Nat) : Byte :=
  BitVec.ofNat 8 (b.toNat - b.toNat / 2 ^ lo % 2 ^ w * 2 ^ lo + v * 2 ^ lo)

/-- The write of element i of a transposing write: store, address, bytes. -/
def xtwWrite (c : Core) (e : QEntry) (src : List Byte) (i : Nat) : Nat × Nat × List Byte :=
  let w := xtwWidth e
  let v := xtwElem e src i
  if xtwBlock e then (0, xtwDst e + 32 * i + xtwCol e * w / 8, natLe (w / 8) v)
  else
    let x := tileCell w i (xtwCol e)
    let a := xtwDst e + x.1
    (1, a, [spliceBits ((c.rd 1 a 1).getD 0 0#8) x.2 w v])

/-- XTW. -/
def opXtw (s : State) (k : Site) (e : QEntry) : Res :=
  if !xtwLegal e then .illegal s
  else if !xtwBlock e && !(s.core k).inWindow 1 (xtwDst e) 512 then .region s (xtwDst e) 1 false
  else
    let src := (s.core k).rd 0 (xtwSrc e) (4 * xtwWidth e)
    .ok ((List.range 32).foldl (fun s i =>
      let x := xtwWrite (s.core k) e src i
      s.jwrite k x.1 x.2.1 x.2.2 false) s)

/-! ### Accesses -/

def transferAccs (e : QEntry) : List Acc :=
  match e.op with
  | .xmov =>
    [⟨false, (xmovSrc e).1, (xmovSrc e).2, 32 * xmovCount e⟩, ⟨true, (xmovDst e).1, (xmovDst e).2, 32 * xmovCount e⟩]
  | .xfill => [⟨true, (xfillDst e).1, (xfillDst e).2, 32 * xfillCount e⟩]
  | .xtw =>
    let w := xtwWidth e
    ⟨false, 0, xtwSrc e, 4 * w⟩ ::
      (if xtwBlock e then [⟨true, 0, xtwDst e, 1024⟩]
       -- a tile's four words are read before they are written (R76, R83)
       else [⟨false, 1, xtwDst e, 512⟩, ⟨true, 1, xtwDst e, 512⟩])
  | _ => []

end Sys2Proof.Machine
end

