-- ==== Sys2Proof/Machine/Pipeline.lean ====
section
/-! DEFINITION. How a core's instructions move: dispatch (R98, R137, R140), issue (R99 to R102, R136), the checks before
an instruction acts (R73, R138, R210), replay and rescale (R118, R463, R464), and instruction-word repair (R466). -/

namespace Sys2Proof.Machine

/-! ### One instruction at issue -/

/-- Is the operation predicated lane by lane (R136)? -/
def CoreOp.lanes (op : CoreOp) : Bool := op.opcode / 0x20 == 1

/-- What a queue's instruction does when it issues. -/
def runOp (s : State) (k : Site) (e : QEntry) (ign : Bool) : Res :=
  match e.op with
  | .aload => opAload s k e
  | .astrm => opAstrm s k e ign
  | .astrc => opAstrc s k e ign
  | .adrain => opAdrain s k e
  | .vadd | .vsub | .vmul | .vfma | .vmax | .vmin | .vuna | .vcmp | .vsel | .vbcst | .vred | .vcvt | .vexp2 | .vrcp
  | .vrsq | .vlog2 => opVecReg s k e
  | .vld => opVld s k e
  | .vst => opVst s k e
  | .vqnt => opVqnt s k e
  | .vdeq => opVdeq s k e
  | .vsplt => opVsplt s k e
  | .vrot => opVrot s k e
  | .vrope => opVrope s k e
  | .xmov => opXmov s k e
  | .xtw => opXtw s k e
  | .xfill => opXfill s k e
  | .fsend => opFsend s k e
  | .frecv => opFrecv s k e ign
  | .fred => opFred s k e
  | .fmrg => opFmrg s k e
  | .attend => opAttend s k e
  | .gate => opGate s k e
  | .sampleFeed => opSampleFeed s k e
  | .seti | .sop | .loop | .tok | .tparm | .barr | .step | .dtag | .dtrace | .dbrk => .ok s

/-- The store accesses of an instruction. -/
def accesses (s : State) (k : Site) (e : QEntry) : List Acc :=
  match e.op with
  | .astrm => streamAccs e (e.sReg (fld e.word 33 29)).toNat
  | .astrc => streamAccs e (3 * (e.sReg (fld e.word 33 29)).toNat)
  | .xmov | .xtw | .xfill => transferAccs e
  | .fsend | .fred | .fmrg => fabricAccs e
  | .attend | .gate | .sampleFeed => fusedAccs e (s.core k)
  | _ => vectorAccs e s

/-- The first mismatched parity among an instruction's reads: store and address (R73). -/
def Core.parityFault (c : Core) (accs : List Acc) : Option (Nat × Nat) :=
  ((accs.filter (!·.wr)).filterMap fun x => (c.badIn x.st x.addr x.len).map fun a => (x.st, a)).head?

/-- Writes a rescaled A8 scale without journaling it (R118, R460). -/
def State.putScale (s : State) (k : Site) (entry scale : Nat) : State :=
  s.mapCore k fun c => c.wrRaw 0 entry (natLe 2 scale)

/-- The rescale of a block and the one replay of its step (R118, R119): the scale stands after the rollback as well
(notes/assumptions/24). -/
def State.rescaleReplay (s : State) (k : Site) (entry scale : Nat) : State :=
  let s := (s.replayCore k Core.reload).putScale k entry scale
  let s := s.mapCore k fun c => { c with rep := { c.rep with rescaled := c.rep.rescaled ++ [entry] } }
  (s.charge k.panel ratQuant 1).mapPanel k.panel fun p => { p with quantReplays := p.quantReplays + 1 }

/-- A parity error that replay did not clear: the shard or KV frame it lies in is repaired at the next release (R467,
R277). -/
def State.parityLost (s : State) (k : Site) (code addr : Nat) : State :=
  if code ≠ 0x0202 ∨ addr / 2 ^ 24 ≠ 1 then s
  else
    let a := addr % 2 ^ 24
    match (s.core k).tab.frameOf a with
    | some f =>
      if (k, f) ∈ s.errors.badFrames then s
      else { s with errors := { s.errors with badFrames := s.errors.badFrames ++ [(k, f)] } }
    | none =>
      if (k, a) ∈ s.errors.badWords then s
      else { s with errors := { s.errors with badWords := s.errors.badWords ++ [(k, a)] } }

/-- The end of an instruction that runs with errors ignored (R464). -/
def finishIgn (s0 : State) (k : Site) (q : QueueId) (e : QEntry) (r : Res) : Option State :=
  match r with
  | .ok s => some (s.complete k q e.word)
  | .later s => some s
  | .wait => none
  | .illegal s => some (s.illegal k q e)
  | .region s a st d => some (s.outOfRegion k q e a st d)
  | .format s p i => some (s.formatTag k e p i)
  | .landingFull => some (s0.landingStop k e)
  | .detected s _ _ _ => some (s.complete k q e.word)
  | .rescale s _ _ => some (s.complete k q e.word)

/-- A detected error: the step replays, or goes to cohort loss and the instruction runs on with the values it has
(R463, R464). -/
def detect (s0 s : State) (k : Site) (q : QueueId) (e : QEntry) (code addr arg1 : Nat) : Option State :=
  if (s.core k).mayReplay e.idx code addr then some (s.detectReplay k Core.reload e.idx code addr arg1)
  else
    let again := (s0.core k).rep.lastError == some (e.idx, code, addr)
    let s := s0.loseStep k e.idx code
    let s := if again then s.parityLost k code addr else s
    finishIgn s k q e (runOp s k e true)

/-- The end of an instruction at issue: `s0` is the state with the instruction taken from its queue. -/
def finish (s0 : State) (k : Site) (q : QueueId) (e : QEntry) (r : Res) : Option State :=
  match r with
  | .detected s code addr arg1 => detect s0 s k q e code addr arg1
  | .rescale s entry scale => some ((s.putScale k entry scale).rescaleReplay k entry scale)
  | r => finishIgn s0 k q e r

/-- An instruction acts: slot tags in debug mode, parity of what it reads, then its operation (R73, R210, R211). -/
def act (s : State) (k : Site) (q : QueueId) (e : QEntry) : Option State :=
  let c := s.core k
  let accs := accesses s k e
  match (if s.debug then c.tagFault q accs else none) with
  | some x => some (s.slotStop k q e x)
  | none =>
    let s := if s.debug then s.mapCore k (·.touchTags q accs) else s
    if c.rep.lossMode then finishIgn s k q e (runOp s k e true)
    else
      match c.parityFault accs with
      | some (st, a) => detect s s k q e 0x0202 (a + st * 2 ^ 24) (a + st * 2 ^ 24)
      | none => finish s k q e (runOp s k e false)

/-! ### Issue (R98 to R102) -/

/-- The instructions of a queue. -/
def Core.queue (c : Core) (q : QueueId) : List QEntry :=
  match q with
  | .array => c.aq
  | .vector => c.vq
  | .transfer => c.tq
  | .front => []

def Core.setQueue (c : Core) (q : QueueId) (l : List QEntry) : Core :=
  match q with
  | .array => { c with aq := l }
  | .vector => { c with vq := l }
  | .transfer => { c with tq := l }
  | .front => c

/-- Does a fused command and the vector queue let the head issue (R99)? -/
def Core.fuseOk (c : Core) (q : QueueId) (e : QEntry) : Bool :=
  match q with
  | .array => !e.op.fused || c.vq.all fun x => e.ord < x.ord
  | .vector => c.aq.all fun x => !x.op.fused || e.ord < x.ord
  | _ => true

/-- Issues the head of a queue if it may issue; none otherwise. -/
def issueHead (s : State) (k : Site) (q : QueueId) : Option State :=
  let c := s.core k
  match c.queue q with
  | [] => none
  | e :: rest =>
    if q ∈ c.stopped ∨ c.heldSignals.any (·.1 == q) then none
    else if e.op = .frecv ∧ c.landingDead e then some (s.landingStop k e)
    else if (wWE e.word && c.tok (wWT e.word) == 0) || !c.fuseOk q e then none
    else
      let c' := c.setQueue q rest
      let c' := if wWE e.word then c'.setTok (wWT e.word) (c.tok (wWT e.word) - 1) else c'
      let s' := s.setCore k { c' with issued := c.issued + 1 }
      if wPE e.word && !e.op.lanes && !(c.preg (wPS e.word)).getLsbD 0 then some (s'.complete k q e.word)
      else act s' k q e

/-! ### Dispatch (R98, R137, R138, R140) -/

/-- The words of a core's kind. -/
def State.kindWords (s : State) (k : Site) : List DWord :=
  match s.loaded, (s.core k).tab.assign with
  | some l, some a => ((l.pkg.kinds[a.kind]?).map (·.words)).getD []
  | _, _ => []

/-- The nearest other active core of the same kind, in hops (R466). -/
def State.nearestKin (s : State) (k : Site) : Option Site :=
  match (s.core k).tab.assign with
  | none => none
  | some a =>
    let dist (x : Site) : Nat := (s.path k (siteCanopy x) (siteG x) (siteH x)).length
    (s.assigned.filter fun x => x.2.kind == a.kind && x.1 != k).foldl (fun best x =>
      match best with
      | none => some x.1
      | some b => if dist x.1 < dist b then some x.1 else some b) none

/-- An instruction word failed parity: it is fetched from the nearest core of the kind and the step replays; with none,
the word is lost (R81, R466). -/
def State.instrParity (s : State) (k : Site) (idx : Nat) : State :=
  match s.nearestKin k with
  | none =>
    let s : State := { s with errors := { s.errors with stuck := true } }
    ((s.stopQueue k .front).placeHold 2).raise { code := 0x020F, cls := .contained, kind := 0, loc := s.coreLoc k, iidx := some idx }
  | some b =>
    let bytes := (s.core b).rd 3 (8 * idx) 8
    let s := s.mapCore k fun c => c.wrRaw 3 (8 * idx) bytes
    if (s.core k).mayReplay idx 0x0203 idx then s.detectReplay k Core.reload idx 0x0203 idx 0
    else s.loseStep k idx 0x0203

/-- The front end runs a control or debug instruction (R201, R209). -/
def runCtl (s : State) (k : Site) (e : QEntry) : Ctl :=
  match e.op with
  | .seti => ctlSeti s k e
  | .sop => ctlSop s k e
  | .loop => ctlLoop s k e
  | .tok => ctlTok s k e
  | .tparm => ctlTparm s k e
  | .barr => ctlBarr s k e
  | .step => ctlStep s k e
  | .dtag => ctlDtag s k e
  | .dtrace => ctlDtrace s k e
  | _ => ctlDbrk s k e

/-- Dispatches the oldest fetched instruction, if the front end may; none otherwise. -/
def dispatchHead (s : State) (k : Site) : Option State :=
  let c := s.core k
  match c.stream with
  | [] => none
  | x :: rest =>
    let e := { x with idx := c.idx, ord := c.dispatched, s := c.s, a := c.a }
    let n := (s.kindWords k).length
    if QueueId.front ∈ c.stopped ∨ c.atBarrier ∨ c.heldSignals.any (·.1 == .front) then none
    else if 0 < n ∧ n ≤ c.idx then
      -- fetch past the kind's last instruction (R203)
      let s' := (s.setCore k { c with stream := [] }).stopQueue k .front
      some (s'.raise { code := 0x0205, cls := .contained, kind := 0, loc := s.coreLoc k, iidx := some (n - 1)
                       arg0 := ((s.kindWords k).getD (n - 1) 0#64).toNat, arg1 := 3 })
    else if (3, c.idx) ∈ c.badParity then some (s.instrParity k c.idx)
    else if !legalWord e.op e.word then some ((s.setCore k { c with stream := rest }).illegal k .front e)
    else
      let s' := s.setCore k { c with stream := rest, issued := c.issued + 1 }
      match e.op.queue with
      | .front =>
        match runCtl s' k e with
        | .ran t i => some (t.mapCore k fun c => c.advance i)
        | .jumped t => some t
        | .stall => none
        | .illegal => some (s'.illegal k .front e)
      | q =>
        if (c.queue q).length ≥ 16 then none
        else
          let c' := ({ c with stream := rest, dispatched := c.dispatched + 1 } : Core).setQueue q (c.queue q ++ [e])
          some (s.setCore k (c'.advance c.idx))

/-! ### The pump -/

/-- Signals that waited for their counts to fall (R100). -/
def State.retrySignals (s : State) (k : Site) : State :=
  let c := s.core k
  if c.heldSignals.isEmpty then s
  else s.setCore k (c.heldSignals.foldl (fun c x => c.signal x.1 x.2) { c with heldSignals := [] })

/-- A step of the first that may take one. -/
def tryEach (s : State) (fs : List (State → Option State)) : State × Bool :=
  fs.foldl (fun acc f => match f acc.1 with
    | some t => (t, true)
    | none => acc) (s, false)

/-- One round of a core: the array, vector and transfer queue issue in this order (R101), then the front end dispatches;
`true` if any moved. -/
def pumpRound (s : State) (k : Site) : State × Bool :=
  tryEach (s.retrySignals k) [fun s => issueHead s k .array, fun s => issueHead s k .vector,
    fun s => issueHead s k .transfer, fun s => dispatchHead s k]

/-- Moves a core's instructions on until none can move. -/
def pump (k : Site) : Nat → State → State
  | 0, s => s
  | n + 1, s =>
    if !s.coreRuns k then s
    else
      let r := pumpRound s k
      if r.2 then pump k n (r.1.promote k) else r.1

/-- Work a core has waiting, as fuel for the pump. -/
def Core.work (c : Core) : Nat := 4 * (c.stream.length + c.aq.length + c.vq.length + c.tq.length) + 8

def State.pumpCore (s : State) (k : Site) : State := pump k (s.core k).work s

/-! ### The commands of a core's front end -/

/-- An instruction fetched by a running core joins its stream (R98). -/
def State.fetched (s : State) (k : Site) (op : CoreOp) (w : BitVec 56) : State :=
  if !s.coreRuns k then s
  else
    let c := s.core k
    let e : QEntry := { op := op, word := w, idx := c.idx, ord := c.dispatched, s := c.s, a := c.a }
    (s.setCore k { c with stream := c.stream ++ [e] }).pumpCore k

end Sys2Proof.Machine
end

