-- ==== Sys2Proof/Machine/Kv.lean ====
section
/-! DEFINITION. Page tables as the serving controllers and zips edit them: head groups, frame records with their
mirrors, directory ways, MAP, TRUNCATE, SHIFT and freeing (R250 to R269, R275, R277). -/

namespace Sys2Proof.Machine

/-! ### Sequences and cohorts -/

def State.seqAt (s : State) (q : Nat) : Option Seq := s.serve.seqs.find? (fun x => x.slot == q)

/-- The sequence in a slot changed. -/
def State.mapSeq (s : State) (q : Nat) (f : Seq → Seq) : State :=
  { s with serve := { s.serve with seqs := s.serve.seqs.map fun x => if x.slot = q then f x else x } }

/-- A cohort is in flight until its last stage has processed it, the one built for the next tick included (R213, R291). -/
def State.flying (s : State) : List Cohort :=
  (s.serve.cohorts.filter fun c => s.tick.n < c.n + s.stageCount) ++ s.serve.built.toList

/-- Has a sequence a row in a cohort in flight? -/
def State.rowsFly (s : State) (q : Nat) : Bool := s.flying.any fun c => c.rows.any fun r => r.slot == q

/-! ### Head groups (R250 to R252) -/

def State.groups (s : State) : List KvGroup := match s.loaded with
  | some l => l.pkg.kv.groups
  | none => []

/-- The core with an index in a region. -/
def State.coreAtIndex (s : State) (region index : Nat) : Option Site :=
  (s.assigned.find? fun x => x.2.region == region && x.2.index == index).map (·.1)

/-- The member that holds a logical page of a group for a sequence with page base `bq`. -/
def State.member (s : State) (g : KvGroup) (page bq : Nat) : Option Site :=
  if g.d = 0 then none else s.coreAtIndex g.region (g.first + (page + bq + g.offset) % g.d)

/-- A member's binding in a group (R251). -/
def State.bindOf (s : State) (k : Site) (gi : Nat) : Nat :=
  match (s.core k).tab.binds.find? (fun b => b.group == gi) with
  | some b => b.lyr * 4 + b.hslot
  | none => 0

/-- Frames a page takes on a member: two for a head of 256 (R259). -/
def KvGroup.slices (g : KvGroup) : Nat := if g.hd = 2 then 2 else 1

/-- The page base of a slot (R252). -/
def KvPlan.baseOf (p : KvPlan) (q : Nat) : Nat := q * p.stride % 2 ^ 32

/-! ### Frame records and chains (R262 to R264, R275) -/

/-- Writes a frame record, and its copy in the buddy's mirror. -/
def State.putFrameRec (s : State) (k : Site) (f : Nat) (r : FrameRec) : State :=
  let bs := natLe 8 r.num
  let s' := s.mapCore k fun c => c.wrRaw 1 (c.tab.kvBase + 8 * f) bs
  match s.buddy k with
  | some b => s'.mapCore b fun c => c.wrRaw 1 (c.tab.kvBase + 0xA000 + 8 * f) bs
  | none => s'

/-- The free record (R269, R538). -/
def freeRec : FrameRec := ⟨0, 0, 0, 0, 0, 0⟩

/-- The place of a frame in its chain: logical page, then slice. -/
def FrameRec.place (r : FrameRec) : Nat := 2 * r.lpage + r.slice

/-- The frames of a chain with one more, in ascending place. -/
def insertFrame (c : Core) (f place : Nat) : List Nat → List Nat
  | [] => [f]
  | x :: r => if place < (c.frameRec x).place then f :: x :: r else x :: insertFrame c f place r

/-- Writes the NEXT fields and the directory way of a pair's chain; a pair with no frame has no way. -/
def State.relink (s : State) (k : Site) (seq bind : Nat) (fs : List Nat) : State :=
  let nexts := (fs.drop 1) ++ [0x3FF]
  let s := (fs.zip nexts).foldl (fun s x => s.putFrameRec k x.1 { (s.core k).frameRec x.1 with next := x.2 }) s
  let c := s.core k
  let b := dirBucket seq bind
  let put (w : Nat) (d : DirWay) : State := s.mapCore k fun c => c.wrRaw 1 (c.dirAddr b w) (natLe 8 d.num)
  match c.findWay seq bind, fs with
  | some w, [] => put w { c.dirWay b w with v := false, count := 0 }
  | none, [] => s
  | some w, f :: _ => put w ⟨true, seq, bind, f, fs.length⟩
  | none, f :: _ => match c.freeWay seq bind with
    | some w => put w ⟨true, seq, bind, f, fs.length⟩
    | none => s

/-- Free data frames of a core, lowest first. -/
def Core.freeFrames (c : Core) : List Nat := (List.range c.tab.frames).filter fun f => (c.frameRec f).st == 0

/-- Does a pair's chain hold a logical page? -/
def Core.holdsPage (c : Core) (seq bind page : Nat) : Bool :=
  (c.chain seq bind).any fun f => (c.frameRec f).lpage == page

/-- What a member lacks for a page: frames, a directory way. -/
structure Short where
  frame : Nat
  way : Nat
  deriving DecidableEq, Repr

/-- Maps a page of a sequence on one member: the lowest free data frames, one per slice (R268). -/
def State.mapOn (s : State) (k : Site) (gi slices seq page : Nat) : State × Short :=
  let bind := s.bindOf k gi
  let c := s.core k
  if c.holdsPage seq bind page then (s, ⟨0, 0⟩)
  else
    let free := c.freeFrames.take slices
    let noFrame := free.length < slices
    let noWay := (c.findWay seq bind).isNone && (c.freeWay seq bind).isNone
    if noFrame ∨ noWay then (s, ⟨if noFrame then 1 else 0, if noWay then 1 else 0⟩)
    else
      let s := ((List.range slices).zip free).foldl (fun s x =>
        let s := s.putFrameRec k x.2 ⟨1, x.1, bind, seq, page, 0x3FF⟩
        s.relink k seq bind (insertFrame (s.core k) x.2 (2 * page + x.1) ((s.core k).chain seq bind))) s
      (s, ⟨0, 0⟩)

/-- Maps a page of a sequence in every group that lacks it; what is short, summed over the groups (R268, R279). -/
def State.mapPage (s : State) (seq bq page : Nat) : State × Short :=
  (s.groups.zipIdx).foldl (fun acc x =>
    match acc.1.member x.1 page bq with
    | none => (acc.1, ⟨acc.2.frame + 1, acc.2.way⟩)
    | some k =>
      let r := acc.1.mapOn k x.2 x.1.slices seq page
      (r.1, ⟨acc.2.frame + r.2.frame, acc.2.way + r.2.way⟩)) (s, ⟨0, 0⟩)

/-- Is a page of a sequence mapped in every group? -/
def State.pageMapped (s : State) (seq bq page : Nat) : Bool :=
  (s.groups.zipIdx).all fun x => match s.member x.1 page bq with
    | some k => (s.core k).holdsPage seq (s.bindOf k x.2) page
    | none => false

/-- Logical pages a plan's format allows (R268). -/
def State.pageLimit (s : State) : Nat := if s.kv4 then 8192 else 16384

/-- The mapped frames of a sequence, as (core, frame, record), in no order. -/
def State.framesOf (s : State) (seq : Nat) : List (Site × Nat × FrameRec) :=
  s.cores.flatMap fun e =>
    (List.range e.2.tab.frames).filterMap fun f =>
      let r := e.2.frameRec f
      if r.st = 1 ∧ r.seq = seq then some (e.1, f, r) else none

/-- Frees the frames of a sequence that a test selects: their records are free and their chains relinked (R269). -/
def State.freePages (s : State) (seq : Nat) (sel : FrameRec → Bool) : State :=
  let fs := s.framesOf seq
  let pairs := (fs.map fun x => (x.1, x.2.2.bind)).eraseDups
  pairs.foldl (fun s p =>
    let c := s.core p.1
    let ch := c.chain seq p.2
    let gone := ch.filter fun f => sel (c.frameRec f)
    if gone.isEmpty then s
    else
      let keep := ch.filter fun f => !sel (c.frameRec f)
      let s := gone.foldl (fun s f => s.putFrameRec p.1 f freeRec) s
      s.relink p.1 seq p.2 keep) s

/-- Lowers every remaining logical page of a sequence by `n` (R269). -/
def State.lowerPages (s : State) (seq n : Nat) : State :=
  (s.framesOf seq).foldl (fun s x => s.putFrameRec x.1 x.2.1 { x.2.2 with lpage := x.2.2.lpage - n }) s

/-- Logical pages of a sequence that some group maps. -/
def State.mappedPages (s : State) (seq : Nat) : List Nat := ((s.framesOf seq).map fun x => x.2.2.lpage).eraseDups

/-- Data frames a function's sequences hold (R279, R323). -/
def State.framesUsed (s : State) (f : Nat) : Nat :=
  ((s.serve.seqs.filter fun q => q.req.func == f).map fun q => (s.framesOf q.slot).length).sum

/-- Frames one page takes over all groups. -/
def State.pageFrames (s : State) : Nat := (s.groups.map KvGroup.slices).sum

/-! ### Losing KV (R276 to R278, R307) -/

/-- One more than a sequence's highest appended position, its rows in flight among them, which complete; a position whose
token is not in the history does not count (R307). -/
def State.appendedTo (s : State) (x : Seq) : Nat :=
  min x.history.length ((s.flying.flatMap (·.rows)).foldl
    (fun m r => if r.slot == x.slot && r.app then max m (r.pos + 1) else m) x.len)

/-- A sequence whose KV is lost from a position enters REBUILD, or restarts its rebuild from the lower position; it
rebuilds up to its highest appended position, and a prompt goes on after it (R307). A sequence that is not running keeps
its state and rebuilds when it runs again. -/
def State.enterRebuild (s : State) (q pos : Nat) : State :=
  s.mapSeq q fun x =>
    if x.state.terminal then x
    else
      let hi := s.appendedTo x
      let x : Seq := if x.next < x.promptEnd then { x with next := max x.next hi, len := max x.len hi } else x
      match x.state with
      | .rebuild => { x with rebuildFrom := min x.rebuildFrom pos, rebuildTo := max x.rebuildTo hi, tokenReady := true }
      | .paused =>
        if x.was = .rebuild then { x with rebuildFrom := min x.rebuildFrom pos, rebuildTo := max x.rebuildTo hi, kvLost := true }
        else { x with rebuildFrom := pos, rebuildTo := hi, kvLost := true, tokenReady := true }
      | .kept => { x with rebuildFrom := pos, rebuildTo := hi, kvLost := true }
      | st => { x with was := st, state := .rebuild, rebuildFrom := pos, rebuildTo := hi, tokenReady := true }

/-- A function's sequence that starts to rebuild reports STATE 3 in the next batch (R342). -/
def stateRec (x : Seq) (a : Nat) : Nat × CRec :=
  (x.req.func, ⟨3, 0, x.req.ring, x.req.idx, none, x.req.utag, some x.slot, a, 0⟩)

/-- Sequences enter REBUILD together, each from its position; the running ones report it. The number that entered. -/
def State.rebuildAll (s : State) (qs : List (Nat × Nat)) : State × Nat :=
  let live := qs.filter fun x => match s.seqAt x.1 with
    | some q => !q.state.terminal
    | none => false
  let recs := live.filterMap fun x => match s.seqAt x.1 with
    | some q => if q.state = .prefill ∨ q.state = .decode then some (stateRec q 3) else none
    | none => none
  let s := live.foldl (fun s x => s.enterRebuild x.1 x.2) s
  -- rows in flight complete and their tokens are discarded (R307)
  let hit (q : Nat) : Bool := live.any fun x => x.1 == q
  let strike (c : Cohort) : Cohort := { c with rows := c.rows.map fun r => if hit r.slot then { r with discard := true } else r }
  ({ s with serve := { s.serve with
      recs := s.serve.recs ++ recs
      cohorts := s.serve.cohorts.map strike
      built := s.serve.built.map strike
      drawn := s.serve.drawn.filter fun d => !hit d.slot } }, live.length)

/-- Rebuilds a data frame's bytes from its group's other frames (R276, R277); none without a guard. -/
def State.frameFromGuard (s : State) (k : Site) (f : Nat) : Option (List Byte) :=
  match s.guardMap.find? (fun g => g.contains (k, f)) with
  | none => none
  | some g =>
    some ((g.filter (· ≠ (k, f))).foldl (fun acc x =>
      let c := s.core x.1
      xorBytes acc (c.rd 1 (c.tab.frameAddr x.2) frameBytes)) (List.replicate frameBytes 0#8))

/-- A frame whose parity failed again is retired until the next pitching; its page is rebuilt into the lowest free data
frame of the core, or its sequence enters REBUILD; a retired parity frame leaves its group unguarded (R277, R278). -/
def State.retireFrame (s : State) (k : Site) (f : Nat) : State :=
  let c := s.core k
  let r := c.frameRec f
  let loc := s.coreLoc k
  let retired : FrameRec := { freeRec with st := 3 }
  let drop (s : State) : State := { s with guardMap := s.guardMap.filter fun g => g.head? ≠ some (k, f) }
  match r.st with
  | 2 => (drop (s.putFrameRec k f retired)).raise { code := 0x0403, cls := .degraded, kind := 0, loc := loc, arg0 := f }
  | 1 =>
    let first := s.frameFromGuard k f
    let ch := c.chain r.seq r.bind
    let pos := pagePos s.kv4 * r.lpage
    match first, c.freeFrames with
    | some bs, nf :: _ =>
      let s := (s.putBytes k 1 (c.tab.frameAddr nf) bs).putFrameRec k nf { r with next := 0x3FF }
      let s := s.putFrameRec k f retired
      let s := s.relink k r.seq r.bind (insertFrame (s.core k) nf r.place (ch.filter (· ≠ f)))
      s.raise { code := 0x0402, cls := .corrected, kind := 0, loc := loc, arg0 := f }
    | _, _ =>
      let s := (s.putFrameRec k f retired).relink k r.seq r.bind (ch.filter (· ≠ f))
      let x := s.rebuildAll [(r.seq, pos)]
      if first.isSome then x.1.raise { code := 0x0402, cls := .corrected, kind := 0, loc := loc, count := x.2, arg0 := f }
      else x.1.raise { code := 0x0404, cls := .contained, kind := 0, loc := loc, count := x.2, arg0 := f }
  | _ => s.putFrameRec k f retired

end Sys2Proof.Machine
end

