-- ==== Sys2Proof/Machine/Rings.lean ====
section
/-! DEFINITION. Rings and records: fetching descriptors, completion batches, status lines, interrupts, and the host-DMA
rations (R285, R322, R327 to R331, R341 to R346, R350). -/

namespace Sys2Proof.Machine

/-! ### Controllers (R284) -/

/-- The canopy of the lead controller: that of stage 0's first region, or C0 while no package is loaded. -/
def State.leadCanopy (s : State) : Nat :=
  match s.loaded with
  | none => 0
  | some l =>
    let r := match l.plan.stages with
      | g :: _ => g.freg
      | [] => 0
    match s.assigned.find? (fun x => x.2.region == r) with
    | some x => siteCanopy x.1
    | none => 0

/-- The panel that serving traffic of a controller's canopy is charged to (R285). -/
def servePanel (canopy : Nat) : Nat := panelAt canopy 2 1

/-! ### Host DMA (R219, R220, R223, R323) -/

/-- Is a host transfer of a function granted: the panel's counter and the function's cap allow it? -/
def State.dmaOk (s : State) (p f : Nat) : Bool :=
  s.linkUp && s.rationOk p ratDma && (!s.tick.running || (s.fn f).dmaLatched == 0 || decide ((s.fn f).dmaUsed < (s.fn f).dmaLatched))

/-- Charges a transfer of `bytes` to a panel and a function. -/
def State.dmaCharge (s : State) (p f bytes : Nat) : State :=
  let n := ceilDiv bytes 64
  (s.charge p ratDma n).mapFn f fun x => { x with dmaUsed := x.dmaUsed + n }

/-! ### Descriptors (R328, R336, R345, R346) -/

/-- The 64 bytes of a ring's entry. -/
def State.ringEntry (s : State) (r : Ring) (i : Nat) : List Byte := s.hostRead (r.base + 64 * (i % r.size)) 64

def Fn.ring (x : Fn) (i : Nat) : Ring := x.rings.toList.getD i {}
def Fn.setRing (x : Fn) (i : Nat) (r : Ring) : Fn := { x with rings := x.rings.setIfInBounds i r }
def State.mapRing (s : State) (f i : Nat) (g : Ring → Ring) : State := s.mapFn f fun x => x.setRing i (g (x.ring i))

/-- May a ring be fetched from: enabled, not stopped, an entry waiting, the link up (R322, R328, R331)? -/
def State.ringReady (s : State) (f i : Nat) : Bool :=
  let r := (s.fn f).ring i
  s.linkUp && r.en && !r.stopped && decide (0 < r.waiting)

/-- Does a LOAD or an UNLOAD of the function await its completion? A LOAD holds every later descriptor of the ring (R346), and
an UNLOAD counts as accepted only once it is complete (notes/assumptions/53). -/
def State.loadWaits (s : State) (f : Nat) : Bool :=
  (match s.loaded with
    | some l => !l.started && l.func == f
    | none => false) || (s.loadPending.any fun l => l.func == f) ||
    match s.unloading with
    | some (some u) => u.1 == f
    | _ => false

/-- A control descriptor: its index, tag and bytes. -/
structure Ctrl where
  idx : Nat
  utag : Nat
  bs : List Byte
  deriving Repr

/-- The control descriptor at the head of a function's control ring, if it has the kind. -/
def State.ctrl (s : State) (f kind : Nat) : Option Ctrl :=
  if !s.ringReady f 4 || s.loadWaits f then none
  else
    let i := ((s.fn f).ring 4).own
    let bs := s.ringEntry ((s.fn f).ring 4) i
    if fieldAt bs 0 1 = kind then some ⟨i, fieldAt bs 0x38 8, bs⟩ else none

/-- The head of a control ring passes one descriptor. -/
def State.ctrlNext (s : State) (f : Nat) : State := s.mapRing f 4 fun r => { r with own := (r.own + 1) % 2 ^ 32 }

/-! ### Completion records (R341 to R344) -/

/-- The 64 bytes of a record at a ring index. -/
def CRec.bytes (r : CRec) (i size : Nat) : List Byte :=
  natLe 1 r.typ ++ natLe 1 ((i / size + 1) % 2 + r.ring % 8 * 2) ++ natLe 2 r.status ++ natLe 4 r.index ++
    natLe 8 (r.tick.getD (2 ^ 64 - 1)) ++ natLe 8 r.utag ++
    natLe 4 (match r.slot with
      | some q => q + 2 ^ 13
      | none => 0) ++ natLe 4 r.a ++ natLe 8 r.b ++ List.replicate 24 0#8

/-- Writes held records while the completion ring has room (R344). -/
def State.drainRecs (f : Nat) : Nat → State → State
  | 0, s => s
  | n + 1, s =>
    let x := s.fn f
    let r := x.ring 5
    match x.heldRecs with
    | [] => s
    | c :: rest =>
      if r.room 1 then
        let s := s.hostWrite f (r.base + 64 * (r.own % r.size)) (c.bytes r.own r.size)
        State.drainRecs f n (s.mapFn f fun x => { x.setRing 5 { r with own := (r.own + 1) % 2 ^ 32 } with heldRecs := rest })
      else s

/-- The place of a record type in a batch (R343). -/
def recOrder (typ : Nat) : Nat :=
  match typ with
  | 1 => 0
  | 3 => 1
  | 2 => 2
  | 4 => 3
  | 5 => 4
  | _ => 5

/-- A record goes before another in a batch: by type, then by slot, or by ring index for CONTROL. -/
def recBefore (a b : CRec) : Bool :=
  let key (r : CRec) : Nat := if r.typ = 5 then r.index else match r.slot with
    | some q => q
    | none => 8192
  decide (recOrder a.typ < recOrder b.typ) || (recOrder a.typ == recOrder b.typ && decide (key a ≤ key b))

/-- Inserts a record into a sorted batch, after its equals. -/
def insertRec (x : CRec) : List CRec → List CRec
  | [] => [x]
  | y :: r => if recBefore x y && !recBefore y x then x :: y :: r else y :: insertRec x r

/-- The indices a status line shows (R329). -/
def State.statusWords (s : State) (f : Nat) : List Nat := (List.range 7).map fun i => ((s.fn f).ring i).own

/-- Writes a function's status line: the indices and the low 32 bits of the tick number, all ones while no tick runs
(R329, R330). -/
def State.writeStatus (s : State) (f : Nat) : State :=
  let all := s.statusWords f ++ [(s.tickNow.getD (2 ^ 64 - 1)) % 2 ^ 32]
  s.hostWrite f (s.fn f).stAddr (all.flatMap fun w => natLe 8 w)

/-- Writes a function's held records as far as the ring has room; a batch's TICK record is followed by the status line and
the message (R344, R348, R350). At a release any written record is followed by the status line (R330). -/
def State.flushHeld (s : State) (f : Nat) (release : Bool) : State :=
  let old := (s.fn f).heldRecs
  let s := State.drainRecs f old.length s
  let wrote := old.take (old.length - (s.fn f).heldRecs.length)
  if wrote.any fun r => r.typ == 6 then (s.writeStatus f).sendMsi f (s.fn f).cvec false
  else if release && !wrote.isEmpty then s.writeStatus f
  else s

/-- While records of a function are held it is reported, once a second (R344, R528). -/
def State.reportFull (s : State) (f : Nat) : State :=
  let n := (s.fn f).heldRecs.length
  if n = 0 then s
  else
    let q := s.errors.nextSeq
    let s := s.raiseEvery secNs (0x0503, f) { code := 0x0503, cls := .note, kind := 6, func := some f, loc := hostLoc, count := n }
    if s.errors.nextSeq == q then s else s.fnSticky f 0b100#3 q

/-- Writes a function's batch, its status line and its message (R343, R344, R348, R350). -/
def State.writeBatch (s : State) (f : Nat) (tick : Option Nat) : State :=
  let mine := (s.serve.recs.filter fun r => r.1 == f).map fun r => { r.2 with tick := tick }
  if mine.isEmpty then s
  else
    let sorted := mine.foldl (fun acc r => insertRec r acc) []
    let full := sorted ++ [⟨6, 0, 0, 0, tick, 0, none, sorted.length, s.time⟩]
    let s : State := { s with serve := { s.serve with recs := s.serve.recs.filter fun r => r.1 != f } }
    ((s.mapFn f fun x => { x with heldRecs := x.heldRecs ++ full }).flushHeld f true).reportFull f

/-- Functions that have state of their own, in ascending order. -/
def State.liveFns (s : State) : List Nat :=
  let fs := ((s.fns.map (·.1)) ++ s.serve.recs.map (·.1)).eraseDups
  (List.range 512).filter fun f => f ∈ fs

/-- Adds a record for the next batch; while no tick runs there is no release to wait for, and the batch goes at once
(notes/assumptions/31). -/
def State.addRec (s : State) (f : Nat) (r : CRec) : State :=
  let s : State := { s with serve := { s.serve with recs := s.serve.recs ++ [(f, r)] } }
  if s.tick.running then s else s.writeBatch f none

/-- Completes a control descriptor. -/
def State.control (s : State) (f : Nat) (c : Ctrl) (status a b : Nat) : State :=
  s.addRec f ⟨5, status, 4, c.idx, none, c.utag, none, a, b⟩

/-- KINDs of control descriptors that name an operation (R345, R373). -/
def controlKinds : List Nat := [1, 2, 3, 4, 5, 6, 7, 8, 9, 0x20, 0x21, 0x22, 0x23, 0x24]

/-- Refuses the descriptors of reserved kinds at the head of a control ring (R345); `n` bounds their number. -/
def State.refuseKinds (f : Nat) : Nat → State → State
  | 0, s => s
  | n + 1, s =>
    if !s.ringReady f 4 || s.loadWaits f then s
    else
      let i := ((s.fn f).ring 4).own
      let bs := s.ringEntry ((s.fn f).ring 4) i
      if fieldAt bs 0 1 ∈ controlKinds then s
      else State.refuseKinds f n ((s.ctrlNext f).control f ⟨i, fieldAt bs 0x38 8, bs⟩ 0x40 0 0)

/-- What `g` does with the control descriptor of a kind that stands at the ring's head, reserved kinds refused first. -/
def State.ctrlPeek (s : State) (f kind : Nat) (g : Ctrl → State → State) : State :=
  let s := State.refuseKinds f ((s.fn f).ring 4).waiting s
  match s.ctrl f kind with
  | none => s
  | some c => g c s

/-- Takes the control descriptor at the ring's head; `g` completes it. -/
def State.ctrlRun (s : State) (f kind : Nat) (g : Ctrl → State → State) : State :=
  s.ctrlPeek f kind fun c s => g c (s.ctrlNext f)

/-! ### Control descriptors' reserved bits (R345) -/

/-- Are all bits of a descriptor outside KIND, UTAG and the listed fields 0? Fields are (byte offset, width in bits). -/
def descClear (bs : List Byte) (fields : List (Nat × Nat)) : Bool :=
  let mask := ((0, 8) :: (0x38, 64) :: fields).foldl (fun m x => m ||| ((2 ^ x.2 - 1) * 2 ^ (8 * x.1))) 0
  (fieldAt bs 0 64) &&& (2 ^ 512 - 1 - mask) == 0

end Sys2Proof.Machine
end

