-- ==== Sys2Proof/Machine/Zip.lean ====
section
/-! DEFINITION. Zips (R233 to R239, R267 to R269, R290 to R292, R368, R369, R531): entries, validation, commit, and
what each kind of entry does. -/

namespace Sys2Proof.Machine

/-! ### Entries -/

/-- An entry's 16 bytes (R233). -/
def zipEntryOf (bs : List Byte) : ZipEntry := ⟨fieldAt bs 0 2, fieldAt bs 2 2, fieldAt bs 4 4, fieldAt bs 8 8⟩

/-- Result codes (R236). -/
def zipFull : Nat := 1
def zipKind : Nat := 2
def zipTarget : Nat := 3
def zipValue : Nat := 4
def zipState : Nat := 5
def zipBusy : Nat := 6
def zipAborted : Nat := 7
def zipExpired : Nat := 8

/-- The function an owner acts for; none for the engine, whose scope is every sequence. -/
def ZipOwner.fn : ZipOwner → Option Nat
  | .engine => none
  | .host f => some f
  | .register f => some f

/-- Does a slot lie in an owner's scope (R267, R290)? -/
def ZipOwner.owns (o : ZipOwner) (q : Seq) : Bool := match o.fn with
  | none => true
  | some f => q.req.func == f

/-- An entry's effect, or the code of the check it fails. -/
abbrev ZipRes := Except Nat State

/-- The sequence an entry names, in the owner's scope. -/
def withSeq (s : State) (o : ZipOwner) (q : Nat) (g : Seq → ZipRes) : ZipRes :=
  match s.seqAt q with
  | none => .error zipTarget
  | some x => if o.owns x then g x else .error zipTarget

/-! ### PAGE_TABLE (R267 to R269) -/

/-- A sequence shortened to a length: its history keeps the token that comes next (notes/assumptions/32). -/
def Seq.shorten (x : Seq) (n : Nat) : Seq :=
  if x.len ≤ n then x
  else
    let y : Seq := { x with len := n, next := min x.next n, rebuildTo := min x.rebuildTo n
                            rebuildFrom := min x.rebuildFrom n, tokenReady := true }
    if x.next < x.promptEnd then y else { y with history := x.history.take (n + 1), promptEnd := min x.promptEnd n }

def commitPage (s : State) (o : ZipOwner) (e : ZipEntry) : ZipRes :=
  let q := bitsOf e.target 12 0
  let op := bitsOf e.target 15 13
  let n := bitsOf e.value 13 0
  if e.target / 2 ^ 16 ≠ 0 then .error zipKind
  else if op = 0 ∨ op > 4 ∨ (op = 1 ∧ o.fn.isSome) then .error zipTarget
  else if e.value / 2 ^ 14 ≠ 0 ∨ (op = 4 ∧ e.value ≠ 0) then .error zipKind
  else if op = 3 ∧ n = 0 then .error zipValue
  else withSeq s o q fun x =>
    if op = 1 then
      if x.state.terminal ∨ s.pageLimit ≤ n ∨ s.pageMapped q x.base n then .error zipState
      else
        let r := s.mapPage q x.base n
        if r.2 = ⟨0, 0⟩ then .ok r.1 else .error zipState
    else if x.state ≠ .paused ∨ s.rowsFly q then .error zipState
    else if op = 2 then
      .ok ((s.freePages q fun r => decide (n ≤ r.lpage)).mapSeq q fun x => x.shorten (pagePos s.kv4 * n))
    else if op = 4 then .ok ((s.freePages q fun _ => true).mapSeq q fun x => x.shorten 0)
    else if s.groups.any (fun g => !g.late) then .error zipState
    else if (s.mappedPages q).length < n ∨ 2 ^ 32 ≤ x.base + n then .error zipValue
    else
      let p := pagePos s.kv4 * n
      .ok (((s.freePages q fun r => decide (r.lpage < n)).lowerPages q n).mapSeq q fun x =>
        { x with base := x.base + n, len := x.len - p, history := x.history.drop p, next := x.next - p
                 promptEnd := x.promptEnd - p, rebuildFrom := x.rebuildFrom - p, rebuildTo := x.rebuildTo - p })

/-! ### SEQUENCE (R290 to R292) -/

/-- Pauses a running sequence, with its STATE record. -/
def State.pauseSeq (s : State) (q : Nat) (r : PauseReason) (starvedFlag : Bool) : State :=
  match s.seqAt q with
  | none => s
  | some x =>
    let code := match r with
      | .host => 0
      | .latency => 1
      | .starved => 2
    let s := s.mapSeq q fun x => { x with state := .paused, was := x.state, reason := r, pausedAt := s.time }
    { s with serve := { s.serve with
        recs := s.serve.recs ++ [stateRec x (1 + code * 16 + if starvedFlag then 256 else 0)] } }

/-- Resumes a paused sequence, into REBUILD where KV was lost meanwhile. -/
def State.resumeSeq (s : State) (q : Nat) : State :=
  match s.seqAt q with
  | none => s
  | some x =>
    let s := s.mapSeq q fun x =>
      if x.kvLost ∧ x.was ≠ .rebuild then { x with state := .rebuild, kvLost := false }
      else { x with state := x.was, kvLost := false }
    { s with serve := { s.serve with recs := s.serve.recs ++ [stateRec x 2] } }

/-- The DONE record of a request: outcome, finish or refusal code, KEPT (R342). -/
def doneRec (x : Seq) (outcome code : Nat) (kept : Bool) : Nat × CRec :=
  (x.req.func, ⟨4, outcome * 256 + code, x.req.ring, x.req.idx, none, x.req.utag, some x.slot, x.emitted,
    (if kept then 1 else 0) + (if x.clipSeen then 2 else 0) + (if x.lateSeen then 4 else 0)⟩)

/-- Removes a sequence: its pages, history and slot are free (R287, R291). -/
def State.dropSeq (s : State) (q : Nat) : State :=
  let s := s.freePages q fun _ => true
  { s with serve := { s.serve with seqs := s.serve.seqs.filter fun x => x.slot ≠ q } }

/-- SEQUENCE RELEASE; a paused request ends by it (notes/assumptions/33). -/
def State.releaseSeq (s : State) (q : Nat) : State :=
  match s.seqAt q with
  | none => s
  | some x =>
    let s := s.dropSeq q
    if x.state = .kept then s
    else { s with serve := { s.serve with
      recs := s.serve.recs ++ [doneRec x 2 0 false], ended := s.serve.ended ++ [(x.req.func, x.req.ring, x.req.idx)] } }

def commitSeq (s : State) (o : ZipOwner) (e : ZipEntry) : ZipRes :=
  let q := bitsOf e.target 12 0
  let op := bitsOf e.target 15 13
  let v := e.value
  if e.target / 2 ^ 16 ≠ 0 then .error zipKind
  else if op = 0 ∨ op > 4 then .error zipTarget
  else if (op = 1 ∧ v / 4 ≠ 0) ∨ (op = 2 ∧ v ≠ 0) ∨ (op = 3 ∧ v ≠ 0) ∨ (op = 4 ∧ v / 8 ≠ 0) then .error zipKind
  else if op = 1 ∧ (v = 3 ∨ (v ≠ 0 ∧ o.fn.isSome)) then .error zipValue
  else withSeq s o q fun x =>
    let runs := x.state = .prefill ∨ x.state = .decode ∨ x.state = .rebuild ∨ x.state = .paused
    if op = 1 then
      if ¬ runs then .error zipState
      else if x.state = .paused then .ok s
      else .ok (s.pauseSeq q (if v = 0 then .host else if v = 1 then .latency else .starved) (v == 2))
    else if op = 2 then
      if ¬ runs then .error zipState
      else if x.state ≠ .paused ∨ (o.fn.isNone ∧ x.reason ≠ .latency) then .ok s
      else .ok (s.resumeSeq q)
    else if op = 3 then
      if (x.state ≠ .paused ∧ x.state ≠ .kept) ∨ s.rowsFly q then .error zipState
      else .ok (s.releaseSeq q)
    else if v < (s.fn x.req.func).ceil then .error zipValue
    else if x.state.terminal then .error zipState
    else .ok (s.mapSeq q fun x => { x with cls := v })

/-! ### Weights (R368, R369) -/

/-- A stage's current area: the one a switch of this boundary names, or the area with no last epoch (R364). -/
def State.currentArea (s : State) (stage : Nat) : Option Nat :=
  match s.weights.switches.find? (fun x => x.1 == stage) with
  | some x => some x.2
  | none => (s.weights.areas.find? fun a => a.stage == stage && a.last.isNone).map (·.area)

def WeightOp.isReplace : WeightOp → Bool
  | .replace .. => true
  | _ => false

def commitPointer (s : State) (o : ZipOwner) (e : ZipEntry) : ZipRes :=
  let g := bitsOf e.target 7 0
  if e.target / 256 ≠ 0 ∨ e.value / 2 ≠ 0 then .error zipKind
  else if o.fn ≠ some 0 ∨ s.stageCount ≤ g then .error zipTarget
  else if 0xFFFFFFFE < s.weights.epoch + 1 then .error zipValue
  else if s.currentArea g = some e.value ∨ (g, e.value) ∉ s.weights.copies ∨ s.weights.op.isReplace then .error zipState
  else .ok { s with weights := { s.weights with
    switches := (s.weights.switches.filter fun x => x.1 ≠ g) ++ [(g, e.value)] } }

def commitEpoch (s : State) (o : ZipOwner) (e : ZipEntry) : ZipRes :=
  let g := bitsOf e.target 7 0
  if e.target / 256 ≠ 0 ∨ e.value ≠ 0 then .error zipKind
  else if o.fn.isSome ∨ s.stageCount ≤ g then .error zipTarget
  else if 0xFFFFFFFE < s.weights.epoch + (if s.weights.switches.isEmpty then 1 else 2) then .error zipValue
  else .ok { s with weights := { s.weights with bumps := s.weights.bumps ++ [g] } }

/-- At the end of a boundary's commits: every WEIGHT_POINTER switch together raises the epoch by one, and so does every
EPOCH bump (R369). A switched copy is no longer a copy that waits. -/
def State.applyEpochs (s : State) : State :=
  let w := s.weights
  let w1 := if w.switches.isEmpty then w
    else
      { w with
        epoch := w.epoch + 1
        areas := (w.areas.map fun a =>
            if a.last.isNone && w.switches.any (·.1 == a.stage) then { a with last := some w.epoch } else a) ++
          w.switches.map fun x => ⟨x.1, x.2, w.epoch + 1, none⟩
        copies := w.copies.filter fun c => c ∉ w.switches }
  { s with weights := { w1 with
      epoch := w1.epoch + if w.bumps.isEmpty then 0 else 1
      switches := [], bumps := [] } }

/-! ### REG (R233, R531) -/

def commitReg (s : State) (o : ZipOwner) (e : ZipEntry) : ZipRes :=
  if o.fn ≠ some 0 ∨ e.target < 0x3000 ∨ 0x301C < e.target ∨ e.target % 4 ≠ 0 then .error zipTarget
  else
    let i := (e.target - 0x3000) / 4
    let m := e.value / 2 ^ 32
    let old := s.regs.goals.getD i 0
    let new := (old &&& (2 ^ 32 - 1 - m)) ||| (e.value % 2 ^ 32 &&& m)
    .ok { s with regs := { s.regs with goals := s.regs.goals.set i new } }

/-! ### Commit and validation (R235 to R237) -/

/-- Commits one entry on a state. -/
def commitEntry (s : State) (o : ZipOwner) (e : ZipEntry) : ZipRes :=
  if e.reserved ≠ 0 then .error zipKind
  else
    match e.kind with
    | 1 => commitReg s o e
    | 2 => commitPage s o e
    | 3 => commitPointer s o e
    | 4 => commitEpoch s o e
    | 5 => commitSeq s o e
    | _ => .error zipKind

/-- Commits a zip's entries in order: the state they make, or the first failing entry and its code. -/
def commitEntries (o : ZipOwner) : Nat → List ZipEntry → State → Except (Nat × Nat) State
  | _, [], s => .ok s
  | i, e :: r, s =>
    match commitEntry s o e with
    | .ok s' => commitEntries o (i + 1) r s'
    | .error c => .error (i, c)

/-- A zip committed whole, or its failure: an overflowed zip fails as ZIP_FULL (R236). -/
def commitZip (s : State) (z : Zip) : Except (Nat × Nat) State :=
  if z.full then .error (4096, zipFull)
  else if s.loaded.isNone then
    match commitEntries z.owner 0 z.entries s with
    | .ok _ => .error (0, zipState)
    | .error x => .error x
  else commitEntries z.owner 0 z.entries s

/-- The zips that await commit, in commit order: the engine's, then the host's, each in close order (R237). -/
def commitOrder (zs : List Zip) : List Zip :=
  let eng (z : Zip) : Bool := z.owner == .engine
  zs.filter eng ++ zs.filter (fun z => !eng z)

/-- The state once the zips ahead of `z` have committed. -/
def State.afterAhead (s : State) (z : Zip) : State :=
  let ahead := (commitOrder (s.zips.filter fun x => x.phase != .open_)).takeWhile fun x => x.id ≠ z.id
  (ahead.filter fun x => x.failed.isNone).foldl (fun s x => match commitZip s x with
    | .ok t => t
    | .error _ => s) s

def State.mapZip (s : State) (id : Nat) (f : Zip → Zip) : State :=
  { s with zips := s.zips.map fun z => if z.id = id then f z else z }

/-- A zip's result: on its ZIP_CLOSE record, or in ZIP_RES0 and ZIP_RES1 (R236, R531). `tick` is the tick of effect. -/
def State.zipResult (s : State) (z : Zip) (fail : Option (Nat × Nat)) (tick : Option Nat) : State :=
  let code := match fail with
    | some x => x.2
    | none => 0
  let s := match z.owner with
    | .register f => s.mapFn f fun x => { x with
        zipId := z.id, zipCode := code, zipDone := true
        zipEntry := match fail with
          | some y => y.1
          | none => 0 }
    | _ => s
  match z.owner.fn, z.close with
  | some f, some (idx, utag) =>
    let e := match fail with
      | some x => x.1
      | none => 0xFFFF
    s.addRec f ⟨5, code, 4, idx, none, utag, none, z.id + e * 2 ^ 16, tick.getD (2 ^ 64 - 1)⟩
  | _, _ => s

/-- The end of a zip's validation (R235): it awaits its boundary, marked with the failure it met; with no package
loaded it fails at once. -/
def State.validate (s : State) (id : Nat) : State :=
  match s.zips.find? (fun z => z.id == id) with
  | none => s
  | some z =>
    if z.phase != .closed then s
    else
      let r := commitZip (s.afterAhead z) z
      let fail := match r with
        | .ok _ => none
        | .error x => some x
      if s.loaded.isNone then
        { s with zips := s.zips.filter fun x => x.id ≠ id }.zipResult z fail none
      else s.mapZip id fun z => { z with phase := .validated, failed := fail }

/-- Every validation whose end has come, at a time. -/
def State.settleZips (s : State) (now : Nat) : State :=
  (s.zips.filter fun z => z.phase == .closed && decide (z.validEnd ≤ now)).foldl (fun s z => s.validate z.id) s

/-- The commits of a boundary, and the results they report; `tick` is the tick the boundary begins (R235 to R238). -/
def State.commitZips (s : State) (tick : Nat) : State :=
  let zs := commitOrder (s.zips.filter fun z => z.phase == .validated)
  let s : State := { s with zips := s.zips.filter fun z => z.phase != .validated }
  let s := zs.foldl (fun s z =>
    match z.failed with
    | some x => s.zipResult z (some x) (some tick)
    | none => match commitZip s z with
      | .ok t => t.zipResult z none (some tick)
      | .error x => s.zipResult z (some x) (some tick)) s
  s.applyEpochs

/-! ### Opening and closing (R234, R235) -/

/-- Register-clock cycles in ns (R10). -/
def regCycles (n : Nat) : Nat := 5 * n

/-- Host zips open or awaiting commit. -/
def State.hostZips (s : State) : Nat := (s.zips.filter fun z => z.owner != .engine).length

/-- The open zip of a function. -/
def State.openZip (s : State) (f : Nat) : Option Zip :=
  s.zips.find? fun z => z.phase == .open_ && z.owner == .host f

/-- The end of the validation of a zip of `n` entries that closes now: after every zip closed before it (R235). -/
def State.validAt (s : State) (n : Nat) : Nat :=
  (s.zips.filter fun z => z.phase == .closed).foldl (fun t z => max t z.validEnd) (s.time + regCycles (64 + n))

/-- A zip of the engine: closed as it is made. -/
def State.engineZip (s : State) (es : List ZipEntry) : State :=
  { s with
    zips := s.zips ++ [⟨s.nextZip, .engine, es, .closed, s.time, false, none, s.validAt es.length, none⟩]
    nextZip := (s.nextZip + 1) % 65536 }

/-- A PAGE_TABLE MAP entry and a SEQUENCE entry. -/
def mapEntry (q page : Nat) : ZipEntry := ⟨2, 0, q + 2 ^ 13, page⟩
def seqEntry (q op v : Nat) : ZipEntry := ⟨5, 0, q + op * 2 ^ 13, v⟩

/-- Zips discarded when the package goes: results ZIP_ABORTED, the tick of effect all ones (R236). A zip still open has no
close to answer; a later descriptor that names it is answered so. -/
def State.abortZips (s : State) (sel : Zip → Bool) (silent : Bool) : State :=
  let gone := s.zips.filter sel
  let s : State := { s with zips := s.zips.filter fun z => !sel z }
  if silent then s
  else gone.foldl (fun s z =>
    if z.phase == .open_ then
      match z.owner.fn with
      | some f => s.mapFn f fun x => { x with zipsGone := putK x.zipsGone z.id zipAborted }
      | none => s
    else s.zipResult z (some (0xFFFF, zipAborted)) none) s

/-- A write to a ZP register: an entry of the function's open zip, or a one-entry zip (R234, R531). -/
def State.zpWrite (s : State) (f off : Nat) (value : Word) : State :=
  let e : ZipEntry := ⟨1, 0, off, value.toNat + (2 ^ 32 - 1) * 2 ^ 32⟩
  match s.openZip f with
  | some z => s.mapZip z.id fun z =>
    if z.entries.length ≥ 4096 then { z with full := true } else { z with entries := z.entries ++ [e] }
  | none =>
    if s.hostZips ≥ 64 then
      s.mapFn f fun x => { x with zipId := 0, zipEntry := 0xFFFF, zipCode := zipBusy, zipDone := true }
    else
      { s with
        zips := s.zips ++ [⟨s.nextZip, .register f, [e], .closed, s.time, false, none, s.validAt 1, none⟩]
        nextZip := (s.nextZip + 1) % 65536 }

end Sys2Proof.Machine
end

