-- ==== Sys2Proof/Machine/Lantern.lean ====
section
/-! DEFINITION. Lanterns (R309 to R316): arriving lists, penalties, automata, the draw, and which drawn tokens a sequence
accepts (R298, R305). -/

namespace Sys2Proof.Machine

/-! ### Automata (R313, R314) -/

/-- The edges of a state. -/
def Automaton.edgesOf (a : Automaton) (st : Nat) : List (Nat × Nat × Nat) :=
  match a.states[st]? with
  | some (first, n, _, _) => (a.edges.drop first).take n
  | none => []

/-- The state a token leads to, if its state allows the token. -/
def Automaton.next (a : Automaton) (st token : Nat) : Option Nat :=
  ((a.edgesOf st).find? fun e => e.1 ≤ token && token ≤ e.2.1).map (·.2.2)

/-- The automaton that constrains a request. -/
def State.autoOf (s : State) (x : Sampling) : Option Automaton :=
  if x.autoEn then (s.serve.autos.find? fun a => a.1 == x.auto).map (·.2) else none

/-- The state after a token; none where it is not allowed. -/
def autoStep (a : Option Automaton) (st token : Nat) : Option Nat := match a with
  | none => some st
  | some m => m.next st token

/-! ### The draw (R311, R312) -/

/-- The 24 random bits of a seed and position. -/
def rnd (seed : DWord) (n : Nat) : Nat :=
  let x := mix (seed.truncate 32 + BitVec.ofNat 32 (0x9E3779B9 * (n + 1)))
  (mix (x ^^^ (seed >>> 32).truncate 32)).toNat / 256

/-- A non-negative integer as binary32. -/
def natF32 (n : Nat) : Word := toF32 (Fp.ofInt n)


/-- What a draw needs of its row: the sampling record, the window of history entries, the automaton with its state, and
the position. -/
structure DrawIn where
  samp : Sampling
  window : List (Nat × Bool)
  auto : Option Automaton
  autoState : Nat
  pos : Nat
  deriving Repr

/-- The last PWIN history entries, generated ones only where GENONLY is set. -/
def penaltyWindow (x : Sampling) (h : List (Nat × Bool)) : List (Nat × Bool) :=
  (h.drop (h.length - x.pwin)).filter fun e => !x.genOnly || e.2

/-- A candidate's value after bias and penalties. -/
def penalised (d : DrawIn) (c : Cand) : Word :=
  let x := match d.samp.bias.find? (fun b => b.1 == c.idx) with
    | some b => addF32 c.val b.2
    | none => c.val
  let n := d.window.countP fun e => e.1 == c.idx
  let x := if 0 < n ∧ d.samp.rep ≠ one32 then
      (if ltF32 0#32 x then divF32 x d.samp.rep else mulF32 x d.samp.rep) else x
  subF32 x (mulF32 (natF32 n) d.samp.freq)

/-- Running sums in rank order, from +0. -/
def runSums : Word → List Word → List Word
  | _, [] => []
  | c, e :: r => let c' := addF32 c e; c' :: runSums c' r

/-- The candidates a draw keeps after penalties and masks, sorted. -/
def drawable (d : DrawIn) (l : List Cand) : List Cand :=
  let real := l.filter fun c => c.idx ≠ 0xFFFFFF && !isNan32 c.val
  sortCands ((real.map fun c => (⟨penalised d c, c.idx⟩ : Cand)).filter fun c =>
    (autoStep d.auto d.autoState c.idx).isSome && c.val != negInf32)

/-- The token and its probability under a positive temperature; where a value is not a number both are free, for no
rule states an order (notes/assumptions/34). -/
def sampleOf (d : DrawIn) (free : Nat) (l : List Cand) : Nat × Word :=
  let x0 := match l with
    | c :: _ => c.val
    | [] => 0#32
  let g := divF32 0x3FB8AA3B#32 d.samp.temp
  let e := l.zipIdx.map fun c => if c.2 = 0 then one32 else exp2F32 (mulF32 (subF32 c.1.val x0) g)
  if (l.any fun c => isNan32 c.val) || e.any isNan32 then
    ((l.getD (free % l.length) padCand).idx, Config.freeWord (2 ^ 32 + free))
  else
    let ranked := (l.zip e).zipIdx
    let kept := (ranked.filter fun x => (d.samp.topk == 0 || decide (x.2 < d.samp.topk)) && leF32 d.samp.minp x.1.2).map (·.1)
    let c := runSums 0#32 (kept.map (·.2))
    let last := c.getLast?.getD one32
    let n := if ltF32 d.samp.topp one32 then
        (match c.findIdx? (fun v => leF32 (mulF32 d.samp.topp last) v) with
          | some j => j + 1
          | none => kept.length)
      else kept.length
    let top := c.getD (n - 1) one32
    let u := toF32 (.fin false (rnd d.samp.seed d.pos) (-24))
    let t := mulF32 u top
    let j := match (c.take n).findIdx? (fun v => ltF32 t v) with
      | some j => j
      | none => n - 1
    let p := kept.getD j (padCand, one32)
    (p.1.idx, mulF32 p.2 (rcpF32 top))

/-- What a draw gives: token, probability, FORCED, and whether the request ends without one. -/
structure Draw where
  token : Nat
  prob : Word
  forced : Bool
  dead : Bool
  deriving DecidableEq, Repr

/-- The FORCE token of a state that holds one of its own edges (R314). -/
def forceOf (d : DrawIn) : Option Nat :=
  match d.auto with
  | none => none
  | some a => match a.states[d.autoState]? with
    | some (_, _, true, force) => if (a.next d.autoState force).isSome then some force else none
    | _ => none

def drawRow (d : DrawIn) (free : Nat) (l : List Cand) : Draw :=
  match drawable d l with
  | [] => match forceOf d with
    | some t => ⟨t, one32, true, false⟩
    | none => ⟨0, 0#32, false, true⟩
  | c :: r =>
    if (ofF32 d.samp.temp).cmp (Fp.ofInt 0) = 0 then ⟨c.idx, one32, false, false⟩
    else
      let x := sampleOf d free (c :: r)
      ⟨x.1, x.2, false, false⟩

/-! ### Rows of a cohort (R294, R298, R309) -/

def State.cohortNum (s : State) (n : Nat) : Option Cohort := s.serve.cohorts.find? fun c => c.n == n

def State.serving (s : State) : Option Serving := s.loaded.map (·.pkg.serving)

/-- Lanterns in use: 1, 2 or 4 (R308). -/
def Serving.lanterns (x : Serving) : Nat := 2 ^ x.ln

/-- The rows of a sequence in a cohort, with their row indices. -/
def Cohort.rowsOf (c : Cohort) (q : Nat) : List (Row × Nat) := c.rows.zipIdx.filter fun x => x.1.slot == q

/-- The input tokens of a sequence's drawing rows before a row of the cohort: its drafts so far. -/
def Cohort.draftsBefore (c : Cohort) (q row : Nat) : List Nat :=
  ((c.rowsOf q).filter fun x => x.1.kind == .verify && decide (x.2 ≤ row)).map fun x => x.1.token

/-- The automaton state after tokens. -/
def autoWalk (a : Option Automaton) (st : Nat) (ts : List Nat) : Nat :=
  ts.foldl (fun st t => (autoStep a st t).getD st) st

/-- What the draw of a cohort's row needs (R311). -/
def State.drawIn (s : State) (c : Cohort) (x : Seq) (row : Nat) (r : Row) : DrawIn :=
  let drafts := c.draftsBefore x.slot row
  let a := s.autoOf x.req.samp
  { samp := x.req.samp
    window := penaltyWindow x.req.samp (x.history.take (r.pos + 1 - drafts.length) ++ drafts.map fun t => (t, true))
    auto := a
    autoState := autoWalk a x.auto drafts
    pos := r.pos }

/-! ### Acceptance (R298, R305) -/

/-- A token that will be written: its entry's value and flags. -/
structure Emit where
  d : DrawnToken
  last : Bool
  deriving DecidableEq, Repr

/-- Finish reasons (R342). -/
def finishOf (x : Seq) (a : Option Automaton) (auto : Nat) (token emitted len : Nat) : Nat :=
  if emitted ≥ x.req.samp.maxNew then 1
  else if token ∈ x.req.samp.stops then 2
  else if (match a with
    | some m => (m.edgesOf auto).isEmpty
    | none => false) then 3
  else if len ≥ 1048576 then 4
  else 0

/-- Takes drawn tokens of a sequence in row order while each accepts the next draft: `rows` are its drawing rows still to
take. Answers the tokens, the sequence after them and whether the chain is decided; `ended` says that lists no longer
arrive, so a missing draw ends the chain. -/
def acceptRows (a : Option Automaton) (drawn : List DrawnToken) (ended : Bool) :
    List (Row × Nat) → Seq → List Emit → List Emit × Seq × Bool
  | [], x, out => (out, x, true)
  | (r, i) :: rest, x, out =>
    match drawn.find? (fun d => d.row == i) with
    | none => (out, x, ended)
    | some d =>
      if d.dead then (out, { x with finish := 5, tokenReady := false }, true)
      else
        let auto := (autoStep a x.auto d.token).getD x.auto
        let emitted := x.emitted + 1
        let fin := finishOf x a auto d.token emitted (r.pos + 1)
        let x' := { x with
          history := x.history ++ [(d.token, true)], auto := auto, emitted := emitted, len := r.pos + 1
          tokenReady := true, finish := fin }
        let out' := out ++ [(⟨d, fin != 0⟩ : Emit)]
        if fin ≠ 0 then (out', x', true)
        else
          match rest with
          | [] => (out', x', true)
          | (r', _) :: _ => if r'.token = d.token then acceptRows a drawn ended rest x' out' else (out', x', true)

/-- What a sequence takes from a cohort: none while undecided or where no row of it draws. -/
def State.takes (s : State) (c : Cohort) (x : Seq) (ended : Bool) : Option (List Emit × Seq) :=
  let rows := (c.rowsOf x.slot).filter fun y => y.1.draws && !y.1.discard && !y.1.starved && !y.1.drawn
  if rows.isEmpty ∨ c.lost ∨ x.tokenReady then none
  else
    let r := acceptRows (s.autoOf x.req.samp) (s.serve.drawn.filter fun d => d.cohort == c.n && d.slot == x.slot) ended rows x []
    if r.2.2 && (!r.1.isEmpty || r.2.1.finish != 0) then some (r.1, r.2.1) else none

/-- A sequence as it will stand once its drawn tokens are delivered (R293). -/
def State.afterDraws (s : State) (x : Seq) : Seq :=
  s.serve.cohorts.foldl (fun x c => match s.takes c x false with
    | some r => r.2
    | none => x) x

/-! ### Lists (R309) -/

/-- The list a Lantern reads from its flits: candidates and the NANSEEN mark. -/
def listOf (fs : List Flit) : List Cand × Bool :=
  let k := (fs.head?.map pK).getD 0
  ((fs.flatMap flitCands).take k, fs.any pNan)

/-- A list arrives: it goes to the cohort it names among those accepted, or is discarded and counted. -/
def State.listArrival (s : State) (i : Nat) (fs : List Flit) : State :=
  match s.serving, fs with
  | some sv, f :: _ =>
    let key := sv.scan * 4 + i
    let s : State := { s with transit := { s.transit with
      lists := fs.foldl (fun l f => l.erase (key, f)) s.transit.lists } }
    let la := s.lantern i
    match la.accepting.findIdx? (fun c => c.cohort % 256 == pCohort f) with
    | some j => s.setLantern i { la with
        accepting := la.accepting.modify j fun c => { c with lists := c.lists ++ [listOf fs] } }
    | none => s.setLantern i { la with discarded := la.discarded + 1 }
  | _, _ => s

/-- Marks a row of a cohort. -/
def State.mapRow (s : State) (n row : Nat) (f : Row → Row) : State :=
  { s with serve := { s.serve with cohorts := s.serve.cohorts.map fun c =>
      if c.n = n then { c with rows := c.rows.modify row f } else c } }

/-- A Lantern draws a token for a row whose list it holds (R311 to R314). -/
def State.lanternDraw (s : State) (i n row : Nat) : State :=
  match s.serving, s.cohortNum n with
  | some sv, some c =>
    match c.rows[row]? with
    | none => s
    | some r =>
      let done := s.serve.drawn.any fun d => d.cohort == n && d.row == row
      if row % sv.lanterns ≠ i ∨ !r.draws ∨ r.discard ∨ r.starved ∨ r.drawn ∨ c.lost ∨ done then s
      else
        match s.seqAt r.slot, ((s.lantern i).accepting.find? (fun x => x.cohort == n)).bind fun x => x.lists[row / sv.lanterns]? with
        | some x, some l =>
          if x.state.terminal then s
          else
            let d := drawRow (s.drawIn c x row r) (Config.freeWord s.free).toNat l.1
            let nan := l.2 || l.1.any fun c => isNan32 c.val
            { s with
              free := s.free + 1
              serve := { s.serve with drawn := s.serve.drawn ++
                [⟨r.slot, n, row, d.token, d.prob, d.forced, nan, d.dead⟩] } }
        | _, _ => s
  | _, _ => s

/-- LANTERN_LIST_ARRIVAL (R309). -/
def execLanternListArrival (i : Nat) (fs : List Flit) (s : State) : Host.Outcome State Fault Refusal :=
  onUnit (lanternOk i) s fun s => s.listArrival i fs

/-- LANTERN_DRAW (R311). -/
def execLanternDraw (i n row : Nat) (s : State) : Host.Outcome State Fault Refusal :=
  onUnit (lanternOk i) s fun s => s.lanternDraw i n row

end Sys2Proof.Machine
end

