-- ==== Sys2Proof/Machine/Cohort.lean ====
section
/-! DEFINITION. Building a cohort (R253, R279, R280, R288, R293 to R302, R366): latency control, admission, decode,
rebuild, prefill and verify rows, and the engine zips the build stages. -/

namespace Sys2Proof.Machine

/-! ### Latency (R299 to R302) -/

/-- The mean tick length as a fraction of ns over ticks: the last 64 ticks, or T before any tick has ended. -/
def State.tickMean (s : State) : Nat × Nat :=
  if s.tick.lastTicks.isEmpty then ((s.loaded.map (·.t)).getD 0, 1)
  else (s.tick.lastTicks.sum, s.tick.lastTicks.length)

/-- Is any request QUEUED, or any sequence in PREFILL or REBUILD (R294)? -/
def State.preBusy (s : State) : Bool :=
  !s.serve.queued.isEmpty || s.serve.seqs.any fun x => x.state == .prefill || x.state == .rebuild

/-- The rows reserved for prompts. -/
def State.preReserve (s : State) : Nat :=
  if s.preBusy then (s.serving.map (·.preMin)).getD 0 else 0

/-- The projected interval for `r` decode rows, as a fraction of ns. -/
def State.projected (s : State) (r : Nat) : Nat × Nat :=
  let rb := (s.loaded.map (·.rows)).getD 0
  let w := max s.stageCount (ceilDiv r (rb - s.preReserve))
  (w * s.tickMean.1, s.tickMean.2)

/-- Does an interval exceed `num`/`den` of a goal in µs; a goal of 0 is none? -/
def overGoal (i : Nat × Nat) (goal num den : Nat) : Bool := goal != 0 && decide (num * goal * 1000 * i.2 < den * i.1)

/-- Goals that pausing cannot meet (R302). -/
def State.unreachable (s : State) (c : Nat) : Bool :=
  let g := s.regs.goals.getD c 0
  g != 0 && decide (g * 1000 * s.tickMean.2 < s.stageCount * s.tickMean.1)

/-- Running decoding sequences. -/
def State.decoding (s : State) : List Seq := s.serve.seqs.filter fun x => x.state == .decode

def rowsNeeded (xs : List Seq) : Nat := (xs.map fun x => 1 + x.lastDrafts).sum

/-- Does a running set project a miss, with `extra` waiting rows of classes `cs` (R300)? -/
def State.misses (s : State) (xs : List Seq) (cs : List Nat) : Bool :=
  let i := s.projected (rowsNeeded xs + cs.length)
  (List.range 8).any fun c =>
    (xs.any (fun x => x.cls == c) || cs.contains c) && !s.unreachable c && overGoal i (s.regs.goals.getD c 0) 1 1

/-- The next sequence to pause: least urgent class, most recently admitted. -/
def pauseFirst (xs : List Seq) : Option Seq :=
  xs.foldl (fun best x => match best with
    | none => some x
    | some b => if b.cls < x.cls ∨ (b.cls = x.cls ∧ b.order < x.order) then some x else best) none

/-- The slots paused for latency, one at a time until no miss is projected; a waiting request counts against less urgent
sequences (R300, notes/assumptions/35). -/
def State.latencyPauses (s : State) : Nat → List Seq → List Nat
  | 0, _ => []
  | n + 1, xs =>
    match pauseFirst xs with
    | none => []
    | some x =>
      let cs := (s.serve.queued.filter fun r => r.cls < x.cls).map (·.cls)
      if s.misses xs cs then x.slot :: s.latencyPauses n (xs.filter fun y => y.slot ≠ x.slot) else []

/-- Does the interval with `r` rows stay within 7/8 of every goal (R288, R301)? -/
def State.withinGoals (s : State) (r : Nat) : Bool :=
  (List.range 8).all fun c => !overGoal (s.projected r) (s.regs.goals.getD c 0) 7 8

/-- The next sequence to resume: most urgent class, earliest paused. -/
def resumeFirst (xs : List Seq) : Option Seq :=
  xs.foldl (fun best x => match best with
    | none => some x
    | some b => if x.cls < b.cls ∨ (x.cls = b.cls ∧ x.pausedAt < b.pausedAt) then some x else best) none

/-- The slots resumed, at most `n` (R301): `r` rows run already. -/
def State.latencyResumes (s : State) : Nat → Nat → List Seq → List Nat
  | 0, _, _ => []
  | n + 1, r, xs =>
    match resumeFirst xs with
    | none => []
    | some x =>
      let r' := r + 1 + x.lastDrafts
      if s.withinGoals r' then x.slot :: s.latencyResumes n r' (xs.filter fun y => y.slot ≠ x.slot) else []

/-- Pauses, resumes and GOAL_UNREACHABLE of a build. -/
def State.latency (s : State) : State :=
  let s := (List.range 8).foldl (fun s c =>
    if s.unreachable c then
      s.raiseEvery secNs (0x0406, c) { code := 0x0406, cls := .note, kind := 11, arg0 := c, arg1 := s.regs.goals.getD c 0
                                       arg2 := s.stageCount * s.tickMean.1 / s.tickMean.2 }
    else s) s
  let xs := s.decoding
  let ps := s.latencyPauses xs.length xs
  let s' := ps.foldl (fun s q => s.engineZip [seqEntry q 1 1]) s
  if !ps.isEmpty then s'
  else
    let ys := s.serve.seqs.filter fun x => x.state == .paused && x.reason == .latency
    (s.latencyResumes 8 (rowsNeeded xs) ys).foldl (fun s q => s.engineZip [seqEntry q 2 0]) s'

/-! ### Admission (R287, R288, R366) -/

/-- Is an epoch held: does every stage have an area that serves it (R364)? -/
def State.epochHeld (s : State) (e : Nat) : Bool :=
  decide (0 < s.stageCount) && (List.range s.stageCount).all fun g => s.weights.areas.any fun a =>
    a.stage == g && decide (a.first ≤ e) && (match a.last with
      | none => decide (e ≤ s.weights.epoch)
      | some l => decide (e ≤ l))

/-- The epoch a request takes; none for an epoch-agnostic one (R366). -/
def State.epochOf (s : State) (r : Request) : Option Nat :=
  match r.cont.bind s.seqAt with
  | some x => x.epoch
  | none => if r.epany then none else if r.epoch = 0xFFFFFFFF then some s.weights.epoch else some r.epoch

/-- Entries of the history stores that sequences reserve (R306). -/
def State.historyUsed (s : State) : Nat := (s.serve.seqs.map fun x => x.promptEnd + x.req.samp.maxNew).sum

/-- The lowest free slot. -/
def State.freeSlot (s : State) : Option Nat :=
  (List.range (s.serve.seqs.length + 1)).find? fun q => decide (q < 8192) && !s.serve.seqs.any fun x => x.slot == q

/-- Slots a function holds. -/
def State.slotsUsed (s : State) (f : Nat) : Nat := s.serve.seqs.countP fun x => x.req.func == f

/-- May a request be admitted now, into a cohort of epoch `ep` (R288, R322, R344, R366, R370)? -/
def State.mayAdmit (s : State) (r : Request) (ep : Option Nat) : Bool :=
  let e := s.epochOf r
  let end_ := s.tick.start + (s.loaded.map (·.t)).getD 0
  let room := match r.cont.bind s.seqAt with
    | some x => decide (s.historyUsed - (x.promptEnd + x.req.samp.maxNew) + x.len + r.prompt.length + r.samp.maxNew ≤ 16777216) &&
        x.state == .kept && x.req.func == r.func
    | none => r.cont.isNone && s.freeSlot.isSome && decide (s.slotsUsed r.func < (s.fn r.func).seqQuota) &&
        decide (s.historyUsed + r.prompt.length + r.samp.maxNew ≤ 16777216)
  room && !r.cancelled && (r.deadline == 0 || decide (end_ < r.deadline)) && (s.fn r.func).heldRecs.isEmpty &&
    (e.isNone || ep.isNone || e == ep) && (e.isNone || !s.weights.op.isReplace) &&
    s.withinGoals (rowsNeeded s.decoding + s.serve.admitted.length + 1)

/-- A new sequence for an admitted request. -/
def State.newSeq (s : State) (r : Request) (q : Nat) : Seq :=
  { slot := q, req := r, cls := r.cls, state := .prefill, was := .prefill, reason := .host
    base := (s.loaded.map fun l => l.pkg.kv.baseOf q).getD 0, len := 0
    history := r.prompt.map fun t => (t, false), next := 0, promptEnd := r.prompt.length, epoch := s.epochOf r
    rebuildTo := 0, rebuildFrom := 0, auto := r.samp.start, emitted := 0, tokenReady := false, lastRow := 0
    order := s.serve.admitCount, pausedAt := 0, lastDrafts := 0, clipMark := false, clipSeen := false, lateSeen := false
    finish := 0, kvLost := false, silent := false }

/-- A kept sequence continued: its prompt follows its last position (R289, notes/assumptions/36). -/
def State.contSeq (s : State) (r : Request) (x : Seq) : Seq :=
  let st : SeqState := if x.kvLost then .rebuild else .prefill
  { x with
    req := r, cls := r.cls, state := st, was := .prefill, history := x.history.take x.len ++ r.prompt.map fun t => (t, false)
    next := x.len, promptEnd := x.len + r.prompt.length, auto := r.samp.start, emitted := 0, tokenReady := false
    order := s.serve.admitCount, lastDrafts := 0, clipMark := false, clipSeen := false, lateSeen := false, finish := 0
    kvLost := false, rebuildTo := min x.rebuildTo x.len }

/-- Admits a request. -/
def State.admitRequest (s : State) (r : Request) : State :=
  let queued := s.serve.queued.erase r
  match r.cont.bind s.seqAt with
  | some x =>
    let y := s.contSeq r x
    { s with serve := { s.serve with
        queued := queued, admitCount := s.serve.admitCount + 1, admitted := s.serve.admitted ++ [x.slot]
        seqs := s.serve.seqs.map fun z => if z.slot = x.slot then y else z } }
  | none => match s.freeSlot with
    | none => s
    | some q => { s with serve := { s.serve with
        queued := queued, admitCount := s.serve.admitCount + 1, admitted := s.serve.admitted ++ [q]
        seqs := s.serve.seqs ++ [s.newSeq r q] } }

/-- The function that comes next by smooth weighted round-robin over populations, and the credits after it (R70). -/
def nextByWeight (credit : List (Nat × Int)) (pops : List (Nat × Nat)) : Option Nat × List (Nat × Int) :=
  let total : Int := ((pops.map fun p => p.2).sum : Nat)
  let c := pops.foldl (fun c p => putK c p.1 (getK c p.1 0 + (p.2 : Int))) credit
  match pops.foldl (fun best p => match best with
      | none => some p.1
      | some b => if getK c b 0 < getK c p.1 0 then some p.1 else best) none with
  | none => (none, c)
  | some g => (some g, putK c g (getK c g 0 - total))

/-- Scans the QUEUED requests of one class: one request of each function in turn, each function's in ring order; a
request that is not admitted keeps its place, and the scan goes on past it (R288). `seen` holds those passed over. -/
def State.admitClass (cls : Nat) (ep : Option Nat) : Nat → List (Nat × Nat × Nat) → State → State
  | 0, _, s => s
  | n + 1, seen, s =>
    if s.serve.admitted.length ≥ 64 then s
    else
      let mine := s.serve.queued.filter fun r => r.cls == cls && !seen.contains (r.func, r.ring, r.idx)
      let fs := (List.range 512).filter fun f => mine.any fun r => r.func == f
      let x := nextByWeight s.serve.credit (fs.map fun f => (f, mine.countP fun r => r.func == f))
      let s : State := { s with serve := { s.serve with credit := x.2 } }
      match x.1.bind fun f => mine.find? fun r => r.func == f with
      | none => s
      | some r =>
        let ep := match ep with
          | some e => some e
          | none => (s.serve.admitted.filterMap fun q => (s.seqAt q).bind (·.epoch)).head?
        if s.mayAdmit r ep then State.admitClass cls ep n seen (s.admitRequest r)
        else State.admitClass cls ep n ((r.func, r.ring, r.idx) :: seen) s

/-- Admits the requests of a build, class by class. -/
def State.admitAll (s : State) (ep : Option Nat) : State :=
  if !s.linkUp then s
  else (List.range 8).foldl (fun s c => State.admitClass c ep s.serve.queued.length [] s) s

/-! ### Rows (R253, R265, R279, R280, R294) -/

/-- A build in progress: the engine's state, a copy in which its MAPs are already made, the rows, the sequences that get
no further row, blocks and appends per (core, binding), the cohort's epoch, and the engine zips to stage. -/
structure Build where
  s : State
  sim : State
  rows : List Row
  stop : List Nat
  load : List ((Site × Nat) × (Nat × Nat))
  epoch : Option Nat
  zips : List ZipEntry
  deriving Repr

/-- Blocks that a row walks and the appends it makes, per (core, binding): block `b` of 64 positions where b × 64 ≤ POS
(R253, notes/assumptions/37). -/
def State.rowLoad (s : State) (x : Seq) (pos : Nat) : List ((Site × Nat) × (Nat × Nat)) :=
  let p := pagePos s.kv4
  (s.groups.zipIdx).foldl (fun acc g =>
    let acc := (List.range (pos / 64 + 1)).foldl (fun acc b =>
      match s.member g.1 (64 * b / p) x.base with
      | none => acc
      | some k =>
        let key := (k, s.bindOf k g.2)
        let v := getK acc key (0, 0)
        putK acc key (v.1 + 1, v.2)) acc
    match s.member g.1 (pos / p) x.base with
    | none => acc
    | some k =>
      let key := (k, s.bindOf k g.2)
      let v := getK acc key (0, 0)
      putK acc key (v.1, v.2 + 1)) []

/-- Does a load with a row's added stay within BLKCAP and APPCAP? -/
def capsOk (blk app : Nat) (load add : List ((Site × Nat) × (Nat × Nat))) : Bool :=
  add.all fun e =>
    let v := getK load e.1 (0, 0)
    decide (v.1 + e.2.1 ≤ blk) && decide (v.2 + e.2.2 ≤ app)

def addLoad (load add : List ((Site × Nat) × (Nat × Nat))) : List ((Site × Nat) × (Nat × Nat)) :=
  add.foldl (fun l e =>
    let v := getK l e.1 (0, 0)
    putK l e.1 (v.1 + e.2.1, v.2 + e.2.2)) load

/-- A row starves: STARVED set, APP clear, its sequence paused and reported (R280). -/
def Build.starve (b : Build) (x : Seq) (r : Row) (why groups : Nat) : Build :=
  { b with
    rows := b.rows ++ [{ r with starved := true, app := false, draws := false }]
    stop := x.slot :: b.stop
    zips := b.zips ++ [seqEntry x.slot 1 2]
    s := b.s.raise { code := 0x0405, cls := .note, kind := 11, func := some x.req.func, count := groups
                     arg0 := x.slot + why * 2 ^ 13 } }

/-- Tries to build one row; `true` if it was built and appends. -/
def Build.row (b : Build) (x : Seq) (pos : Nat) (kind : RowKind) (token : Nat) (draws : Bool) : Build × Bool :=
  match b.s.loaded with
  | none => (b, false)
  | some l =>
    let ep := match b.epoch with
      | some e => some e
      | none => x.epoch
    let add := b.s.rowLoad x pos
    if b.stop.contains x.slot ∨ l.rows ≤ b.rows.length ∨ (x.epoch.isSome ∧ x.epoch ≠ ep) then (b, false)
    else if !capsOk l.pkg.kv.blkCap l.pkg.kv.appCap b.load add then ({ b with stop := x.slot :: b.stop }, false)
    else
      let r : Row := ⟨x.slot, pos, kind, true, false, token, pos + 1, draws, false, false, false⟩
      let page := pos / pagePos b.s.kv4
      let b := { b with epoch := ep }
      let put (b : Build) : Build × Bool := ({ b with rows := b.rows ++ [r], load := addLoad b.load add }, true)
      if b.sim.pageMapped x.slot x.base page then put b
      else
        let m := b.sim.mapPage x.slot x.base page
        if m.2.frame ≠ 0 ∨ b.s.pageLimit ≤ page then (b.starve x r 1 m.2.frame, false)
        else if m.2.way ≠ 0 then (b.starve x r 3 m.2.way, false)
        else if (b.s.fn x.req.func).kvQuota < m.1.framesUsed x.req.func then (b.starve x r 2 b.s.groups.length, false)
        else put { b with sim := m.1, zips := b.zips ++ [mapEntry x.slot page] }

/-- Consecutive rows of one sequence, until one is not built. -/
def Build.rowsFrom (x : Seq) (kind : RowKind) (token : Nat → Nat) (draws : Nat → Bool) : Nat → Nat → Build → Build
  | 0, _, b => b
  | n + 1, pos, b =>
    let r := b.row x pos kind (token pos) (draws pos)
    if r.2 then Build.rowsFrom x kind token draws n (pos + 1) r.1 else r.1

/-- The token at a position of a history. -/
def Seq.tokenAt (x : Seq) (pos : Nat) : Nat := (x.history.getD pos (0, false)).1

/-- Inserts by a strict order, after equals. -/
def insertBy {α : Type} (lt : α → α → Bool) (x : α) : List α → List α
  | [] => [x]
  | y :: r => if lt x y then x :: y :: r else y :: insertBy lt x r

def sortBy {α : Type} (lt : α → α → Bool) (l : List α) : List α := l.foldl (fun acc x => insertBy lt x acc) []

/-- Is a row of a sequence in a cohort that the coming boundary leaves in flight (R293)? -/
def State.stillFlies (s : State) (q : Nat) : Bool :=
  s.serve.cohorts.any fun c => decide (s.tick.n + 1 < c.n + s.stageCount) && c.rows.any fun r => r.slot == q

/-- Sequences that may get rows: running, of a function with no held record (R344). -/
def State.live (s : State) : List Seq := s.serve.seqs.filter fun x => (s.fn x.req.func).heldRecs.isEmpty

/-- The decode candidates of a build in pass order (R293, R294). -/
def State.decodeOrder (s : State) : List Seq :=
  let xs := (s.live.filter fun x => x.state == .decode).map s.afterDraws
  let ys := xs.filter fun x => x.tokenReady && x.finish == 0 && !s.stillFlies x.slot
  sortBy (fun x y => decide (x.cls < y.cls) || (x.cls == y.cls && (decide (x.lastRow < y.lastRow) ||
    (x.lastRow == y.lastRow && decide (x.slot < y.slot))))) ys

/-- Sequences of a state in class order, then admission order. -/
def State.classOrder (s : State) (st : SeqState) : List Seq :=
  sortBy (fun x y => decide (x.cls < y.cls) || (x.cls == y.cls && decide (x.order < y.order)))
    (s.live.filter fun x => x.state == st)

/-! ### Drafts (R297) -/

/-- The most recent earlier occurrence of the last `m` tokens in the last 65,536 entries: where its followers begin. -/
def draftSource (ts : List Nat) (m : Nat) : Option Nat :=
  let n := ts.length
  let key := ts.drop (n - m)
  let lo := n - 65536
  if n < m then none
  else ((List.range (n - m - lo)).reverse.find? fun i => (ts.drop (lo + i)).take m == key).map fun i => lo + i + m

/-- Drafts kept while the automaton allows them and none is a stop token. -/
def cutDrafts (a : Option Automaton) (stops : List Nat) : Nat → List Nat → List Nat
  | _, [] => []
  | st, t :: r => match autoStep a st t with
    | none => []
    | some st' => if t ∈ stops then [] else t :: cutDrafts a stops st' r

/-- A sequence's drafts: at most `room` of them. -/
def State.drafts (s : State) (x : Seq) (room : Nat) : List Nat :=
  match s.serving with
  | none => []
  | some sv =>
    let ts := x.history.map (·.1)
    match draftSource ts sv.match_ with
    | none => []
    | some i =>
      let n := min room (min sv.draftMax (min (x.req.samp.maxNew - x.emitted - 1) (1048576 - ts.length)))
      cutDrafts (s.autoOf x.req.samp) x.req.samp.stops x.auto ((ts.drop i).take n)

/-! ### The three passes (R294, R295) -/

def Build.passDecode (b : Build) (xs : List Seq) (room : Nat) : Build :=
  xs.foldl (fun b x =>
    if room ≤ b.rows.length then b
    else
      let pos := x.history.length - 1
      (b.row x pos .decode (x.tokenAt pos) true).1) b

def Build.passRebuild (b : Build) (xs : List Seq) : Build :=
  xs.foldl (fun b x => Build.rowsFrom x .rebuild x.tokenAt (fun _ => false) (x.rebuildTo - x.rebuildFrom) x.rebuildFrom b) b

def Build.passPrefill (b : Build) (xs : List Seq) (rb cmax cmin : Nat) : Build :=
  xs.foldl (fun b x =>
    let rest := x.promptEnd - x.next
    let take := min cmax (min rest (rb - b.rows.length))
    if rest = 0 ∨ take < min cmin rest then b
    else Build.rowsFrom x .prefill x.tokenAt (fun p => p + 1 == x.promptEnd) take x.next b) b

def Build.passDrafts (b : Build) (xs : List Seq) (rb : Nat) : Build :=
  xs.foldl (fun b x =>
    if b.rows.any fun r => r.slot == x.slot && r.kind == .decode && !r.starved then
      let ds := b.s.drafts x (rb - b.rows.length)
      let p := x.history.length
      Build.rowsFrom x .verify (fun pos => ds.getD (pos - p) 0) (fun _ => true) ds.length p b
    else b) b

/-- Every row's LEN: one more than the highest position of its sequence's rows in the cohort (R266). -/
def fixLens (rows : List Row) : List Row :=
  rows.map fun r => { r with len := (rows.filter fun y => y.slot == r.slot).foldl (fun m y => max m (y.pos + 1)) 1 }

/-- Builds the next cohort (R294). With the host link down, on the way to bivouac or a stop, no rows are built (R322, R431,
R433). Epoch 0 stands for the epoch that is current when its tick begins. -/
def State.buildCohort (s : State) : State :=
  match s.loaded with
  | none => s
  | some l =>
    let s := s.latency
    let sv := l.pkg.serving
    let n := s.tick.n + 1
    if !s.linkUp || s.power.state != .running then { s with serve := { s.serve with built := some ⟨n, 0, [], false⟩ } }
    else
      let s : State := { s with serve := { s.serve with admitted := [] } }
      let first := ((s.decodeOrder ++ s.classOrder .rebuild ++ s.classOrder .prefill).filterMap (·.epoch)).head?
      let room := l.rows - s.preReserve
      let s := s.admitAll first
      let xs := s.decodeOrder
      let b : Build := ⟨s, s, [], [], [], none, []⟩
      let b := b.passDecode xs room
      let b := b.passRebuild (s.classOrder .rebuild)
      let b := b.passPrefill (s.classOrder .prefill) l.rows sv.chunkMax sv.chunkMin
      let b := b.passDrafts xs l.rows
      let s := b.zips.foldl (fun s e => s.engineZip [e]) b.s
      { s with serve := { s.serve with built := some ⟨n, b.epoch.getD 0, fixLens b.rows, false⟩ } }

/-- COHORT_BUILD (R218, R294): once in a tick, and not by a module whose cores stand still. -/
def execCohortBuild (s : State) : Host.Outcome State Fault Refusal :=
  onUnit True s fun s => if s.tick.running && s.serve.built.isNone && !s.clocksStopped then s.buildCohort else s

end Sys2Proof.Machine
end

