-- ==== Sys2Proof/Machine/Weights.lean ====
section
/-! DEFINITION. Weight images (R352 to R373): manifests, packed tiles (R106, R107), sources and fetches, shard arrival,
repair, scrubbing, epochs, and the weight operations. -/

namespace Sys2Proof.Machine

/-! ### Manifests (R352, R353, R459) -/

/-- Load refusals a section can meet (R244). -/
def lcFormat : Nat := 3
def lcReserved : Nat := 5

def setRecOf (bs : List Byte) : SetRec × Nat :=
  (⟨fieldAt bs 0 4, fieldAt bs 4 4, fieldAt bs 8 4, bitOf (fieldAt bs 12 4) 0⟩, fieldAt bs 12 4 / 2)

def shardRecOf (bs : List Byte) : ShardRec × Nat :=
  (⟨fieldAt bs 0 2, fieldAt bs 2 2, fieldAt bs 4 4, fieldAt bs 8 8, bitsOf (fieldAt bs 0x10 4) 24 0, bitsOf (fieldAt bs 0x14 4) 24 0,
    bitsOf (fieldAt bs 0x18 4) 23 0, BitVec.ofNat 256 (fieldAt bs 0x20 32)⟩,
   bitsOf (fieldAt bs 0x10 4) 31 25 + bitsOf (fieldAt bs 0x14 4) 31 25 + bitsOf (fieldAt bs 0x18 4) 31 24 + fieldAt bs 0x1C 4)

/-- Bytes a shard takes in the store. -/
def ShardRec.stored (r : ShardRec) : Nat := r.size - r.packed + 512 * (r.packed / 410)

def shardOk (m : Manifest) (r : ShardRec) : Bool :=
  match m.sets[r.set]? with
  | none => false
  | some st =>
    decide (64 ≤ r.size) && decide (r.size ≤ 16777216) && r.size % 2 == 0 && r.packed % 410 == 0 && decide (r.packed ≤ r.size) &&
      r.dest % 512 == 0 && (r.layer == 0xFFFF || decide (r.layer < m.nlayer)) && decide (65536 ≤ st.span) &&
      decide (r.dest + r.stored ≤ st.span - 65536)

/-- Do two shards of one core overlap? -/
def shardsClash (a b : ShardRec) : Bool :=
  a.set == b.set && a.index == b.index && decide (a.dest < b.dest + b.stored) && decide (b.dest < a.dest + a.stored)

def setOk (m : Manifest) (i : Nat) (st : SetRec) : Bool :=
  decide (1 ≤ st.nsh) && st.span % 1024 == 0 && decide (65536 ≤ st.span) && decide (st.first + st.nsh ≤ m.shards.length) &&
    ((m.shards.drop st.first).take st.nsh).all fun r => r.set == i

/-- No two of a list clash. -/
def noClash : List ShardRec → Bool
  | [] => true
  | a :: r => r.all (fun b => !shardsClash a b) && noClash r

/-- Reads a manifest, or says why it is refused. -/
def parseManifest (bs : List Byte) : Except Nat Manifest :=
  let nset := fieldAt bs 8 4
  let nsh := fieldAt bs 12 4
  if bs.length < 64 ∨ fieldAt bs 0 4 ≠ 0x33575859 ∨ fieldAt bs 4 2 ≠ 1 ∨ nset = 0 ∨ 65535 < nset ∨ nsh = 0 ∨
      fieldAt bs 0x18 2 = 0 ∨ 65534 < fieldAt bs 0x18 2 ∨ bs.length ≠ 64 + 16 * nset + 64 * nsh then .error lcFormat
  else
    let sets := (List.range nset).map fun i => setRecOf ((bs.drop (64 + 16 * i)).take 16)
    let shards := (List.range nsh).map fun i => shardRecOf ((bs.drop (64 + 16 * nset + 64 * i)).take 64)
    let m : Manifest := ⟨bs, fieldAt bs 0x10 8, fieldAt bs 0x18 2, sets.map (·.1), shards.map (·.1)⟩
    if !((m.sets.zipIdx.all fun x => setOk m x.2 x.1) && m.shards.all (shardOk m) && noClash m.shards) then .error lcFormat
    else if fieldAt bs 6 2 + fieldAt bs 0x1A 2 + fieldAt bs 0x1C 36 ≠ 0 ∨ sets.any (fun x => x.2 ≠ 0) ∨ shards.any fun x => x.2 ≠ 0 then
      .error lcReserved
    else .ok m

def Manifest.hash (m : Manifest) : BitVec 256 := digestOf m.bytes

/-- Is a manifest shaped as another: equal but for each shard's OFFSET and DIGEST (R370)? -/
def Manifest.sameShape (a b : Manifest) : Bool :=
  a.imageBytes == b.imageBytes && a.nlayer == b.nlayer && a.sets == b.sets &&
    a.shards.map (fun r => { r with offset := 0, digest := 0 }) == b.shards.map (fun r => { r with offset := 0, digest := 0 })

/-! ### Packed tiles (R82, R84, R106, R107) -/

/-- The ternary code of a digit. -/
def digitCode (d : Nat) : Nat := if d = 2 then 3 else d

/-- The digits of a packed byte. -/
def digits (b : Nat) : List Nat := [b % 3, b / 3 % 3, b / 9 % 3, b / 27 % 3, b / 81 % 3]

/-- The 512 bytes of a packed tile, or the offset of its first illegal byte. -/
def expandTile (bs : List Byte) : Except Nat (List Byte) :=
  match (bs.map (·.toNat)).findIdx? (fun b => 242 < b) with
  | some i => .error i
  | none =>
    if 27 ≤ (bs.getD 409 0#8).toNat then .error 409
    else
      let ds := bs.flatMap fun b => digits b.toNat
      .ok ((List.range 512).map fun i =>
        let q := (ds.drop (4 * i)).take 4
        BitVec.ofNat 8 (q.foldl (fun a d => 4 * a + digitCode d) 0))

/-- A stored tile packed again; a code 0b10, which no legal byte makes, packs as 255. -/
def packTile (bs : List Byte) : List Byte :=
  let codes := bs.flatMap fun b => [b.toNat / 64, b.toNat / 16 % 4, b.toNat / 4 % 4, b.toNat % 4]
  (List.range 410).map fun m =>
    let q := (codes.drop (5 * m)).take 5
    if q.any (· == 2) then 0xFF#8 else BitVec.ofNat 8 (q.foldr (fun c a => 3 * a + (if c = 3 then 2 else c)) 0)

/-- The stored bytes of a shard, or the offset of its first illegal byte. -/
def expandShard : Nat → List Byte → Except Nat (List Byte)
  | 0, bs => .ok bs
  | n + 1, bs =>
    match expandTile (bs.take 410) with
    | .error i => .error i
    | .ok t => match expandShard n (bs.drop 410) with
      | .ok r => .ok (t ++ r)
      | .error i => .error (410 + i)

/-- The bytes as carried of a shard at its place in a core's store (R354). -/
def Core.carried (c : Core) (r : ShardRec) (area : Nat) : List Byte :=
  let n := r.packed / 410
  let base := area * c.tab.span + r.dest
  ((List.range n).flatMap fun i => packTile (c.rd 1 (base + 512 * i) 512)) ++ c.rd 1 (base + 512 * n) (r.size - r.packed)

/-! ### Placement (R353, R354, R208) -/

/-- The cores a shard record lands on. -/
def State.coresOf (s : State) (r : ShardRec) : List Site :=
  (s.assigned.filter fun x => x.2.sset == r.set && x.2.index == r.index).map (·.1)

/-- The shards a manifest places: (record, core). -/
def State.placements (s : State) (m : Manifest) : List (Nat × Site) :=
  m.shards.zipIdx.flatMap fun x => (s.coresOf x.1).map fun k => (x.2, k)

/-- A placement operand's value on a core (R208); `base` is its %shard_base. -/
def State.operand (s : State) (k : Site) (code base : Nat) : Nat :=
  let c := s.core k
  match s.loaded, c.tab.assign with
  | some l, some a =>
    let regs := l.plan.regions.countP fun r => r.stage == a.stage
    match code with
    | 0 => a.stage
    | 1 => l.plan.stages.length
    | 2 => a.region - ((l.plan.stages[a.stage]?).map (·.freg)).getD 0
    | 3 => regs
    | 4 => a.index
    | 5 => a.cores
    | 6 => siteCanopy k
    | 7 => l.rows
    | 8 => l.t
    | 9 => base
    | 10 => c.tab.kvBase
    | 11 => c.tab.kvBytes
    | _ => 13 - s.skips
  | _, _ => 0

/-- The preset registers of a core set (R208): those a test of the operand code selects. -/
def State.presetCore (s : State) (k : Site) (base : Nat) (sel : Nat → Bool) : State :=
  (s.core k).tab.presets.foldl (fun s p =>
    if sel p.code then
      let v := BitVec.ofInt 32 (p.mul * (s.operand k p.code base : Int) + (p.add : Int))
      s.mapCore k fun c => c.setReg p.isA p.reg v
    else s) s

/-- The area that serves an epoch at a stage (R364). -/
def State.areaFor (s : State) (stage epoch : Nat) : Option Nat :=
  (s.weights.areas.find? fun a => a.stage == stage && decide (a.first ≤ epoch) && (match a.last with
    | none => true
    | some l => decide (epoch ≤ l))).map (·.area)

/-- The epoch of the cohort a stage processes in the tick in progress; the current epoch where it processes none. -/
def State.stageEpoch (s : State) (stage : Nat) : Nat :=
  match s.serve.cohorts.find? (fun c => c.n + stage == s.tick.n) with
  | some c => c.epoch
  | none => s.weights.epoch

/-- %shard_base of a core in the tick in progress (R354). -/
def State.shardBase (s : State) (k : Site) : Nat :=
  let c := s.core k
  match c.tab.assign with
  | some a => ((s.areaFor a.stage (s.stageEpoch a.stage)).getD 0) * c.tab.span
  | none => 0

/-- Every preset of a core applied again (R208, R363). -/
def State.presetAll (s : State) (k : Site) : State := s.presetCore k (s.shardBase k) fun _ => true

/-! ### Sources and attempts (R355 to R357) -/

/-- The manifests whose images the module takes shards of: the held one and the one an operation brings. -/
def State.manifests (s : State) : List Manifest :=
  s.weights.held.toList ++ (match s.weights.op with
    | .replace m _ _ _ _ => [m]
    | .copy m _ _ => [m]
    | .none => []) ++ s.weights.copyManifest.toList ++ (s.loaded.map fun l => l.pkg.manifest).toList ++ (s.loadPending.map fun l => l.pkg.manifest).toList

/-- The manifest that a host source's image holds, among those (R356). -/
def State.hostManifest (s : State) (addr size : Nat) : Option Manifest :=
  s.manifests.find? fun m => decide (m.bytes.length ≤ size) && s.hostRead addr m.bytes.length == m.bytes

/-- Is a source usable for a digest: a host image that lists it, or a guy link? -/
def State.sourceUsable (s : State) (src : Source) : Bool := match src with
  | .empty => false
  | .host a n => (s.hostManifest a n).isSome
  | .guy _ => true

/-- The source an attempt uses now: primary, then secondary, three attempts each (R355). -/
def State.sourceNow (s : State) (t0 t1 : Nat) : Option (Bool × Source) :=
  if t0 < 3 ∧ s.sourceUsable (s.weights.src.get 0) then some (false, s.weights.src.get 0)
  else if t1 < 3 ∧ s.sourceUsable (s.weights.src.get 1) then some (true, s.weights.src.get 1)
  else none

/-- The bytes a host image gives for a digest; none where the shard reaches beyond the extent (R356). -/
def State.hostShard (s : State) (addr size : Nat) (dg : BitVec 256) : Option (List Byte) :=
  (s.hostManifest addr size).bind fun m =>
    (m.shards.find? fun r => r.digest == dg).bind fun r =>
      if r.offset + r.size ≤ size then some (s.hostRead (addr + r.offset) r.size) else none

/-- The record a fetch is for: every manifest at hand has one shape (R370, R372). -/
def State.fetchRec (s : State) (f : Fetch) : Option ShardRec :=
  (s.weights.held.bind fun m => m.shards[f.shard]?).map fun r => { r with digest := f.digest }

/-! ### Requests over guy links (R391, R392) -/

/-- A bulk message block. -/
def bulkBlock (btype size : Nat) (dg : BitVec 256) : Block :=
  BitVec.ofNat 512 (btype + size * 2 ^ 32 + dg.toNat * 2 ^ 64)

/-- Asks a link for a digest, under the lowest free identifier; one request per digest and link. -/
def State.askLink (s : State) (l : Nat) (dg : BitVec 256) : State :=
  let g := s.guy l
  if g.requests.any fun r => r.digest == dg then s
  else
    match (List.range 64).find? (fun i => !g.requests.any fun r => r.chan == i) with
    | none => s
    | some ch =>
      (s.mapGuy l fun g => { g with requests := g.requests ++ [⟨ch, dg⟩] }).guySend l typBulk true ch 0 1 [bulkBlock 1 0 dg]

/-- Asks for every shard that waits on a guy-link source, in ascending record order (R360). -/
def State.pumpFetches (s : State) : State :=
  let fs := sortBy (fun (a b : Fetch) => decide (a.shard < b.shard)) (s.weights.fetches.filter fun f => !f.failed)
  let s := fs.foldl (fun s f => match s.sourceNow f.tries0 f.tries1, s.fetchRec f with
    | some (_, .guy l), some r => s.askLink l r.digest
    | _, _ => s) s
  s.weights.relays.foldl (fun s r =>
    if r.got.isSome ∨ r.failed then s
    else match s.sourceNow r.tries0 r.tries1 with
      | some (_, .guy l) => s.askLink l r.digest
      | _ => s) s

/-! ### Fetches -/

def State.mapFetch (s : State) (f : Fetch) (g : Fetch → Fetch) : State :=
  { s with weights := { s.weights with fetches := s.weights.fetches.map fun x => if x = f then g x else x } }

/-- A fetch added: the core's shard is no longer verified. -/
def State.addFetch (s : State) (rec : Nat) (k : Site) (area : Nat) (dg : BitVec 256) (why : FetchWhy) : State :=
  let w := s.weights
  { s with weights := { w with
    fetches := (w.fetches.filter fun f => ¬ (f.shard = rec ∧ f.core = k ∧ f.area = area)) ++ [⟨rec, k, area, dg, 0, 0, why, false⟩]
    shards := w.shards.filter fun h => ¬ (h.shard = rec ∧ h.core = k ∧ h.area = area) } }

/-- Is the verified shard with a digest held anywhere (R357)? -/
def State.heldShard (s : State) (dg : BitVec 256) : Option (List Byte) :=
  (s.weights.shards.find? fun h => h.digest == dg).bind fun h =>
    ((s.weights.held.bind fun m => m.shards[h.shard]?).map fun r => (s.core h.core).carried r h.area)

/-- Ends a weight operation with its CONTROL record (R373). -/
def State.endOp (s : State) (status a b : Nat) : State :=
  let s' : State := { s with weights := { s.weights with op := .none } }
  s'.addRec 0 ⟨5, status, 4, s.weights.opDesc.1, none, s.weights.opDesc.2, none, a, b⟩

/-- The stages of a set's regions. -/
def State.stagesOfSet (s : State) (set : Nat) : List Nat :=
  ((s.assigned.filter fun x => x.2.sset == set).map fun x => x.2.stage).eraseDups

/-- Do fetches of a purpose remain? -/
def State.fetching (s : State) (why : FetchWhy) : Bool := s.weights.fetches.any fun f => f.why == why

/-- The held manifest with the records of one layer taken from another. -/
def mergeLayer (old new : Manifest) (layer : Nat) : Manifest :=
  { old with shards := List.zipWith (fun a b => if a.layer = layer then b else a) old.shards new.shards }

/-- The end of a REPLACE step: one EPOCH entry per stage whose shards changed, the hold lifted (R370). -/
def State.endStep (s : State) : State :=
  match s.weights.op, s.weights.held with
  | .replace m limit (layer :: rest) drained done, some old =>
    let changed := (List.zip old.shards m.shards).filter fun x => x.1.layer == layer && x.1.digest != x.2.digest
    let stages := (changed.flatMap fun x => s.stagesOfSet x.1.set).eraseDups
    -- the zip commits at the release that lifts the hold
    let zip : Nat := s.nextZip
    let s := if stages.isEmpty then s
      else (s.engineZip (stages.map fun g => ⟨4, 0, g, 0⟩)).mapZip zip fun z => { z with phase := .validated }
    let s : State := { s with weights := { s.weights with
      held := some (mergeLayer old m layer), op := .replace m limit rest drained (done + 1), stepTick := some s.tick.n } }
    s.liftHold 3
  | _, _ => s

/-- What follows when the last fetch of a purpose has succeeded (R363, R370, R372). -/
def State.fetchEnd (s : State) (why : FetchWhy) (k : Site) : State :=
  match why with
  | .load => if s.fetching .load then s else s.markDone
  | .repair =>
    let s := s.presetAll k
    if s.fetching .repair then s
    else (if s.fetching .replaceStep then s else s.liftHold 3).endHandling 0x0602 (unitOf 0 (s.coreLoc k))
  | .replaceStep => if s.fetching .replaceStep then s else s.endStep
  | .copy =>
    if s.fetching .copy then s
    else match s.weights.op with
      | .copy m stages n =>
        let copies := stages.filterMap fun g => (s.currentArea g).map fun a => (g, 1 - a)
        let s : State := { s with weights := { s.weights with copies := s.weights.copies ++ copies, copyManifest := some m } }
        s.endOp 0 n 0
      | _ => s
  | .darn => s

/-- A package whose shards no source gives: LOAD completes with IMAGE and the module is left unloaded (R360). Filled in
by the loader. -/
def State.fetchLost (s : State) (f : Fetch) (unload : State → State) : State :=
  let s := s.mapFetch f fun f => { f with failed := true }
  let report (s : State) : State :=
    let s := if f.why == .darn then s else s.placeHold 3
    s.raise { code := 0x0603, cls := .contained, kind := 0, loc := s.coreLoc f.core, count := f.tries0 + f.tries1, arg0 := f.shard }
  match f.why with
  | .load => unload s
  | .copy => ({ s with weights := { s.weights with fetches := s.weights.fetches.filter fun x => x.why != .copy } } : State).endOp 0x64 0 0
  | .repair | .replaceStep | .darn => report s

/-- An attempt failed: the next attempt, or the end of all (R355). -/
def State.attemptFails (s : State) (f : Fetch) (second : Bool) (unload : State → State) : State :=
  let f' := if second then { f with tries1 := f.tries1 + 1 } else { f with tries0 := f.tries0 + 1 }
  let s := s.mapFetch f fun _ => f'
  match s.sourceNow f'.tries0 f'.tries1 with
  | some _ => s.pumpFetches
  | none => s.fetchLost f' unload

/-- Asks for what waits, and ends every fetch that no source can serve (R355, R363). -/
def State.settleSources (s : State) (unload : State → State) : State :=
  let s := s.pumpFetches
  (s.weights.fetches.filter fun f => !f.failed && (s.sourceNow f.tries0 f.tries1).isNone).foldl (fun s f => s.fetchLost f unload) s

/-- A fetched shard's last byte has arrived (R106, R107, R359): it is verified and written, or the attempt fails. -/
def State.takeShard (s : State) (f : Fetch) (second : Bool) (bs : List Byte) (unload : State → State) : State :=
  match s.fetchRec f with
  | none => s
  | some r =>
    if bs.length ≠ r.size ∨ digestOf bs ≠ r.digest then s.attemptFails f second unload
    else
      match expandShard (r.packed / 410) bs with
      | .error off =>
        (s.raise { code := 0x0205, cls := .contained, kind := 0, loc := s.coreLoc f.core, arg0 := off }).attemptFails f second unload
      | .ok stored =>
        let s := s.mapCore f.core fun c => c.wrRaw 1 (f.area * c.tab.span + r.dest) stored
        let s : State := { s with weights := { s.weights with
          fetches := s.weights.fetches.filter (· ≠ f)
          shards := s.weights.shards ++ [⟨f.shard, f.core, f.area, r.digest, s.time⟩] } }
        (s.fetchEnd f.why f.core).pumpFetches

/-- The outstanding fetch of a record for a core. -/
def State.fetchOf (s : State) (rec : Nat) (k : Site) : Option Fetch :=
  s.weights.fetches.find? fun f => f.shard == rec && f.core == k && !f.failed

/-- SHARD_ARRIVAL's effect: from a host source the bytes are those host memory holds, under the host-DMA ration of the
receiving panel while ticks run (R356, R358); from a guy link those the partner sent. -/
def State.shardArrival (s : State) (rec : Nat) (k : Site) (bs : List Byte) (unload : State → State) : State :=
  match s.fetchOf rec k with
  | none => s
  | some f =>
    match s.sourceNow f.tries0 f.tries1, s.fetchRec f with
    | none, _ => s.fetchLost f unload
    | some (second, .host a n), some r =>
      if s.tick.running && !s.dmaOk k.panel 0 then s
      else match s.hostShard a n r.digest with
        | none => s.attemptFails f second unload
        | some bs => (s.dmaCharge k.panel 0 r.size).takeShard f second bs unload
    | some (second, .guy l), some r =>
      let s := s.mapGuy l fun g => { g with requests := g.requests.filter fun x => x.digest ≠ r.digest }
      s.takeShard f second bs unload
    | _, _ => s

/-! ### Scrubbing (R361, R362) -/

/-- Does the scrub cover a held shard: area A, or area B where it serves an epoch or is a built copy? -/
def State.scrubbed (s : State) (h : HeldShard) : Bool :=
  h.area == 0 || (match (s.core h.core).tab.assign with
    | none => false
    | some a => (s.weights.areas.any fun x => x.stage == a.stage && x.area == h.area) || s.weights.copies.contains (a.stage, h.area))

/-- The manifest record of a held shard. -/
def State.recOfHeld (s : State) (h : HeldShard) : Option ShardRec := (s.weights.held.bind fun m => m.shards[h.shard]?)

/-- The end of a panel's pass when every shard of its cores has been scrubbed. -/
def State.scrubPass (s : State) (p : Nat) : State :=
  let mine := s.weights.shards.filter fun h => h.core.panel == p && s.scrubbed h
  let x := s.panel p
  if mine.all fun h => x.scrubDone.contains (h.shard, h.core) then
    let s := s.setPanel p { x with scrubDone := [], scrubUsed := 0 }
    s.raise { code := 0x0601, cls := .note, kind := 2, loc := panelLoc p, arg0 := x.scrubUsed / msNs }
  else s

/-- SCRUB_SHARD_HASHED's effect. -/
def State.scrubHashed (s : State) (rec : Nat) (k : Site) : State :=
  match s.weights.shards.find? (fun h => h.shard == rec && h.core == k && s.scrubbed h) with
  | none => s
  | some h =>
    if !s.tick.running || !s.rationOk k.panel ratScrub then s
    else
      match s.recOfHeld h with
      | none => s
      | some r =>
        let words := ceilDiv r.stored 128
        let left := (s.rationLeft k.panel ratScrub).getD words
        let s := s.charge k.panel ratScrub (min words left)
        let good := digestOf ((s.core k).carried r h.area) == h.digest
        let s := s.mapPanel k.panel fun x => { x with scrubDone := x.scrubDone ++ [(rec, k)] }
        let s :=
          if good then
            { s with weights := { s.weights with shards := s.weights.shards.map fun y =>
                if y = h then { y with clean := s.time } else y } }
          else
            let s : State := { s with weights := { s.weights with
              repairs := if (rec, k) ∈ s.weights.repairs then s.weights.repairs else s.weights.repairs ++ [(rec, k)] } }
            let s := s.raise { code := 0x0602, cls := .corrected, kind := 0, loc := s.coreLoc k, arg0 := rec, arg1 := h.clean }
            s.observe k false 3
        s.scrubPass k.panel

/-- SCRUB_SHARD_HASHED (R361, R362). -/
def execScrubShardHashed (rec : Nat) (k : Site) (s : State) : Host.Outcome State Fault Refusal :=
  onUnit k.ok s fun s => s.scrubHashed rec k

/-! ### Epochs (R367) -/

def inRange (a : StageArea) (e : Nat) : Bool := decide (a.first ≤ e) && (match a.last with
  | none => true
  | some l => decide (e ≤ l))

/-- Is anything left that needs an area's epochs? -/
def State.areaNeeded (s : State) (a : StageArea) : Bool :=
  s.flying.any (fun c => inRange a c.epoch) ||
    s.serve.seqs.any (fun x => !x.state.terminal && x.epoch.any (inRange a)) ||
    s.serve.queued.any fun r => !r.epany && r.cont.isNone && r.epoch != 0xFFFFFFFF && inRange a r.epoch

/-- Retires every area that nothing needs any more. -/
def State.retireAreas (s : State) : State :=
  let gone := s.weights.areas.filter fun a => a.last.isSome && !s.areaNeeded a
  let lasts := (gone.filterMap (·.last)).eraseDups
  let s : State := { s with weights := { s.weights with areas := s.weights.areas.filter fun a => a ∉ gone } }
  lasts.foldl (fun s e => s.raise { code := 0x0605, cls := .note, loc := moduleLoc, arg0 := e }) s

/-! ### Weight operations (R370 to R373) -/

/-- The checks a weight operation meets first: physical function, reserved bits, a running operation, a loaded package
(R337, R373). -/
def State.weightOp (s : State) (f kind : Nat) (fields : List (Nat × Nat)) (needs : Bool) (g : Ctrl → State → State) : State :=
  s.ctrlRun f kind fun c s =>
    if !descClear c.bs fields then s.control f c 0x40 0 0
    else if f ≠ 0 then s.control f c 0x48 0 0
    else if needs && s.loaded.isNone then s.control f c 0x47 0 0
    else if needs && s.weights.op != .none then s.control f c 0x66 0 0
    else g c s

/-- The layers a new manifest changes, ascending, 0xFFFF last (R370). -/
def changedLayers (old new : Manifest) : List Nat :=
  let ls := (((List.zip old.shards new.shards).filter fun x => x.1.digest != x.2.digest).map fun x => x.1.layer).eraseDups
  sortBy (fun a b => decide (a < b)) ls

/-- Failed fetches tried again from the start: a source has been set (R363). -/
def State.retryFetches (s : State) : State :=
  ({ s with weights := { s.weights with
    fetches := s.weights.fetches.map fun f => { f with tries0 := 0, tries1 := 0, failed := false } } } : State).pumpFetches

/-- SOURCE (R355, R373). -/
def execSource (f : Nat) (s : State) : Host.Outcome State Fault Refusal :=
  onUnit (fnOk f) s fun s => s.weightOp f 0x20 [(4, 6), (8, 64), (0x10, 64)] false fun c s =>
    let w := fieldAt c.bs 4 4
    let addr := fieldAt c.bs 8 8
    let kind := bitsOf w 2 1
    if kind = 3 then s.control f c 0x40 0 0
    else if kind = 1 ∧ addr % 4096 ≠ 0 then s.control f c 0x41 0 0
    else
      let src : Source := if kind = 0 then .empty else if kind = 1 then .host addr (fieldAt c.bs 0x10 8) else .guy (bitsOf w 5 3)
      let s : State := { s with weights := { s.weights with src := if bitOf w 0 then s.weights.src.set 1 src else s.weights.src.set 0 src } }
      s.retryFetches.control f c 0 0 0

/-- SERVE (R357, R373). -/
def execServe (f : Nat) (s : State) : Host.Outcome State Fault Refusal :=
  onUnit (fnOk f) s fun s => s.weightOp f 0x21 [(4, 8)] false fun c s =>
    let s : State := { s with weights := { s.weights with serve := BitVec.ofNat 8 (fieldAt c.bs 4 1) } }
    s.control f c 0 0 0

/-- A new manifest named by a descriptor, or the status that refuses it (R370, R372, R373). -/
def State.newManifest (s : State) (c : Ctrl) : Except Nat Manifest :=
  let addr := fieldAt c.bs 8 8
  if addr % 64 ≠ 0 then .error 0x41
  else
    match parseManifest (s.hostRead addr (fieldAt c.bs 0x10 4)), s.weights.held with
    | .ok m, some old => if old.sameShape m then .ok m else .error 0x60
    | _, _ => .error 0x60

/-- REPLACE (R370): accepted, it starts at the next release. -/
def execReplace (f : Nat) (s : State) : Host.Outcome State Fault Refusal :=
  onUnit (fnOk f) s fun s => s.weightOp f 0x22 [(8, 64), (0x10, 32), (0x14, 32)] true fun c s =>
    match s.newManifest c, s.weights.held with
    | .error e, _ => s.control f c e 0 0
    | .ok m, some old =>
      let ls := changedLayers old m
      let ms := fieldAt c.bs 0x14 4
      if 0xFFFFFFFE < s.weights.epoch + ls.length then s.control f c 0x65 0 0
      else { s with weights := { s.weights with
        op := .replace m (if ms = 0xFFFFFFFF then none else some (s.time + ms * msNs)) ls false 0
        opDesc := (c.idx, c.utag) } }
    | .ok _, none => s.control f c 0x60 0 0

/-- The stages a copy operation names. -/
def State.namedStages (s : State) (c : Ctrl) : List Nat :=
  let g := fieldAt c.bs 4 1
  if g = 0xFF then List.range s.stageCount else if g < s.stageCount then [g] else []

/-- Sets that a stage's regions use. -/
def State.setsOf (s : State) (stage : Nat) : List Nat :=
  match s.loaded with
  | none => []
  | some l => ((l.plan.regions.filter fun r => r.stage == stage).map fun r => r.sset).eraseDups

/-- COPY_BUILD (R372). -/
def execCopyBuild (f : Nat) (s : State) : Host.Outcome State Fault Refusal :=
  onUnit (fnOk f) s fun s => s.weightOp f 0x23 [(4, 8), (8, 64), (0x10, 32)] true fun c s =>
    let gs := s.namedStages c
    if gs.isEmpty then s.control f c 0x44 0 0
    else
      match s.newManifest c with
      | .error e => s.control f c e 0 0
      | .ok m =>
        let noRes := gs.any fun g => (s.setsOf g).any fun x => !((m.sets[x]?).map (·.copy)).getD false
        let target (g : Nat) : Option Nat := (s.currentArea g).map fun a => 1 - a
        let busy := gs.any fun g => match target g with
          | none => true
          | some t => (s.weights.areas.any fun x => x.stage == g && x.area == t) || s.weights.copies.contains (g, t)
        if noRes then s.control f c 0x61 0 0
        else if busy then s.control f c 0x62 0 0
        else
          let jobs := (s.placements m).filterMap fun x => ((s.core x.2).tab.assign).bind fun a =>
            if a.stage ∈ gs then (target a.stage).map fun t => (x.1, x.2, t, ((m.shards[x.1]?).map (·.digest)).getD 0) else none
          let s : State := { s with weights := { s.weights with op := .copy m gs jobs.length, opDesc := (c.idx, c.utag) } }
          let s := jobs.foldl (fun s j => s.addFetch j.1 j.2.1 j.2.2.1 j.2.2.2 .copy) s
          s.settleSources id

/-- COPY_DISCARD (R372): the areas are freed at the next release. -/
def execCopyDiscard (f : Nat) (s : State) : Host.Outcome State Fault Refusal :=
  onUnit (fnOk f) s fun s => s.weightOp f 0x24 [(4, 8)] true fun c s =>
    if (s.namedStages c).isEmpty then s.control f c 0x44 0 0
    else { s with weights := { s.weights with discard := s.weights.discard ++ [(c.idx, c.utag, fieldAt c.bs 4 1)] } }

/-- The discards that a release carries out. -/
def State.runDiscards (s : State) : State :=
  let ds := s.weights.discard
  let s : State := { s with weights := { s.weights with discard := [] } }
  ds.foldl (fun s d =>
    let hit (x : Nat × Nat) : Bool := d.2.2 == 0xFF || x.1 == d.2.2
    let gone := s.weights.copies.filter hit
    let s : State := { s with weights := { s.weights with copies := s.weights.copies.filter fun x => !hit x } }
    s.addRec 0 ⟨5, 0, 4, d.1, none, d.2.1, none, gone.length, 0⟩) s

end Sys2Proof.Machine
end

