-- ==== Sys2Proof/Machine/Package.lean ====
section
/-! DEFINITION. Sveteus packages (R240 to R246, R250, R308, R352): the bytes of a .yxp file, its sections, and the checks
of R244 that need no placement. -/

namespace Sys2Proof.Machine

/-! ### Header and section table (R240, R241) -/

structure Section where
  typ : Nat
  off : Nat
  len : Nat
  deriving DecidableEq, Repr

def nsect (p : List Byte) : Nat := fieldAt p 0x0C 4

def sectionAt (p : List Byte) (i : Nat) : Section :=
  ⟨fieldAt p (0x100 + 32 * i) 4, fieldAt p (0x108 + 32 * i) 8, fieldAt p (0x110 + 32 * i) 8⟩

def sections (p : List Byte) : List Section := (List.range (nsect p)).map (sectionAt p)

/-- The bytes of every section of a type. -/
def sectionsOf (p : List Byte) (t : Nat) : List (List Byte) :=
  ((sections p).filter fun x => x.typ == t).map fun x => (p.drop x.off).take x.len

def theSection (p : List Byte) (t : Nat) : List Byte := ((sectionsOf p t).head?).getD []

def sectionsApart : List Section → Bool
  | [] => true
  | a :: r => r.all (fun b => decide (a.off + a.len ≤ b.off) || decide (b.off + b.len ≤ a.off)) && sectionsApart r

/-- The header and the section table are as R240 and R241 say. -/
def headerFits (p : List Byte) : Bool :=
  decide (256 ≤ p.length) && fieldAt p 0 4 == 0x33505859 && fieldAt p 4 2 == 1 && fieldAt p 8 4 == 256 &&
    decide (6 ≤ nsect p) && decide (nsect p ≤ 262) && fieldAt p 0x10 8 == p.length &&
    decide (1000 ≤ fieldAt p 0x18 4) && decide (fieldAt p 0x1C 4 ≤ 10000000) && decide (fieldAt p 0x18 4 ≤ fieldAt p 0x1C 4) &&
    decide (20 ≤ fieldAt p 0x20 2) && decide (fieldAt p 0x20 2 ≤ 250) && decide (1 ≤ fieldAt p 0x22 2) &&
    decide (fieldAt p 0x22 2 ≤ 4096) && decide (fieldAt p 0x28 1 ≤ 64) && decide (fieldAt p 0x29 1 ≤ 15) &&
    decide (fieldAt p 0x2A 1 ≤ 15) &&
    (sections p).all (fun x => decide (0x100 + 32 * nsect p ≤ x.off) && decide (x.off + x.len ≤ p.length) &&
      decide (1 ≤ x.typ) && decide (x.typ ≤ 7)) &&
    sectionsApart (sections p) &&
    [2, 3, 4, 5, 7].all (fun t => (sectionsOf p t).length == 1) && decide (1 ≤ (sectionsOf p 1).length) &&
    decide ((sectionsOf p 1).length ≤ 256) && decide ((sectionsOf p 6).length ≤ 1)

/-- The reserved fields of the header and the section table hold 0. -/
def headerClear (p : List Byte) : Bool :=
  fieldAt p 6 2 / 8 == 0 && fieldAt p 0x2B 5 == 0 && fieldAt p 0x70 144 == 0 &&
    (List.range (nsect p)).all fun i => fieldAt p (0x104 + 32 * i) 4 == 0 && fieldAt p (0x118 + 32 * i) 8 == 0

/-- The package digest: SHA-256 with the DIGEST field set to 0. -/
def packageDigest (p : List Byte) : BitVec 256 := digestOf (p.take 0x50 ++ List.replicate 32 0#8 ++ p.drop 0x70)

/-! ### PLACEMENT (R242) -/

/-- Reads one plan at a byte offset: the plan, its size, and whether its reserved fields hold 0. -/
def planAt (bs : List Byte) (o : Nat) : Plan × Nat × Bool :=
  let nreg := fieldAt bs (o + 4) 2
  let nstg := fieldAt bs (o + 6) 2
  let st (i : Nat) : Nat := o + 16 + 16 * i
  let rg (i : Nat) : Nat := o + 16 + 16 * nstg + 16 * i
  ({ cores := fieldAt bs (o + 8) 4
     stages := (List.range nstg).map fun i =>
      ⟨fieldAt bs (st i) 1 % 16, fieldAt bs (st i + 2) 2, fieldAt bs (st i + 4) 4, fieldAt bs (st i + 8) 4⟩
     regions := (List.range nreg).map fun i =>
      ⟨fieldAt bs (rg i) 4, fieldAt bs (rg i + 4) 2, fieldAt bs (rg i + 6) 2, fieldAt bs (rg i + 8) 4⟩ },
   fieldAt bs o 4,
   fieldAt bs (o + 12) 4 == 0 &&
    (List.range nstg).all (fun i => fieldAt bs (st i) 1 / 16 == 0 && fieldAt bs (st i + 1) 1 == 0 && fieldAt bs (st i + 12) 4 == 0) &&
    (List.range nreg).all fun i => fieldAt bs (rg i + 12) 4 == 0)

/-- The plans of a section, `n` of them from an offset. -/
def plansFrom (bs : List Byte) : Nat → Nat → List (Plan × Nat × Bool)
  | 0, _ => []
  | n + 1, o =>
    let p := planAt bs o
    p :: plansFrom bs n (o + p.2.1)

def planFits (kinds sets : Nat) (x : Plan × Nat × Bool) : Bool :=
  let p := x.1
  let nstg := p.stages.length
  decide (1 ≤ nstg) && decide (nstg ≤ 255) && decide (1 ≤ p.regions.length) &&
    x.2.1 == 16 + 16 * nstg + 16 * p.regions.length && p.cores == (p.regions.map (·.rcores)).sum &&
    p.regions.all (fun r => decide (1 ≤ r.rcores) && decide (r.kind < kinds) && decide (r.stage < nstg) && decide (r.sset < sets)) &&
    (p.stages.zipIdx.all fun g =>
      let next := ((p.stages[g.2 + 1]?).map (·.freg)).getD p.regions.length
      decide (g.1.freg < next) && ((p.regions.drop g.1.freg).take (next - g.1.freg)).all fun r => r.stage == g.2) &&
    ((p.stages.head?).map (·.freg)) == some 0

/-! ### CORE_KIND (R203, R208) -/

/-- A preset entry, and whether its reserved bits hold 0. -/
def presetOf (w : DWord) : Preset × Bool :=
  let v := w.toNat
  (⟨bitsOf v 4 0, bitOf v 5, bitsOf v 15 8, (w.extractLsb' 16 16).toInt, bitsOf v 63 32⟩, bitsOf v 7 6 == 0)

/-- A kind from its section, and whether its reserved bits hold 0. -/
def kindOf (bs : List Byte) : Option (CoreKind × Bool) :=
  (Config.coreKindWords bs).map fun ws =>
    let ps := (Config.coreKindPresets bs).map presetOf
    (⟨ws, ps.map (·.1)⟩, ps.all (·.2))

def presetLegal (p : Preset) : Bool := decide (p.code ≤ 12) && (!p.isA || decide (p.reg < 16))

/-- Opcode and immediate fields of LOOP as the loader reads them. -/
def isOp (w : DWord) (op : CoreOp) : Bool := opOfWord w == some op

/-- Are the LOOPs of a program nested as R203 says, with no STEP or BARR inside a body? `open_` holds the last
instructions of the bodies around index `i`, the innermost first. -/
def loopsOk : List DWord → Nat → List Nat → Bool
  | [], _, _ => true
  | w :: r, i, open_ =>
    let open_ := open_.filter fun l => i ≤ l
    let inBody := !open_.isEmpty
    if isOp w .loop then
      let last := i + fld (w.truncate 56) 33 20
      let inner := match open_ with
        | [] => true
        | l :: _ => decide (last ≤ l)
      decide (open_.length < 4) && inner && decide (last ≤ 16383) && loopsOk r (i + 1) (last :: open_)
    else !(inBody && (isOp w .barr || isOp w .step)) && loopsOk r (i + 1) open_

/-- Does a BARR outside every body follow an index? -/
def barrAfter (ws : List DWord) (i : Nat) : Bool := (ws.drop i).any fun w => isOp w .barr

/-! ### KV_PLAN (R250, R251) -/

def kvGroupAt (bs : List Byte) (i : Nat) : KvGroup × Bool :=
  let o := 32 + 16 * i
  let h := fieldAt bs (o + 7) 1
  (⟨fieldAt bs o 2, fieldAt bs (o + 2) 2, fieldAt bs (o + 4) 2, fieldAt bs (o + 6) 1, h % 4, bitOf h 2, bitOf h 3,
    fieldAt bs (o + 8) 2, fieldAt bs (o + 10) 2, fieldAt bs (o + 12) 1⟩,
   h / 16 == 0 && fieldAt bs (o + 13) 3 == 0)

/-- Is an index of a region a member of a group? -/
def KvGroup.has (g : KvGroup) (region index : Nat) : Bool :=
  g.region == region && decide (g.first ≤ index) && decide (index < g.first + g.d)

def kvPlanOf (bs : List Byte) : Except Nat KvPlan :=
  let ngrp := fieldAt bs 0x14 4
  let gs := (List.range ngrp).map (kvGroupAt bs)
  let groups := gs.map (·.1)
  let w := fieldAt bs 8 4
  let lt := fieldAt bs 0xC 4
  if bs.length ≠ 32 + 16 * ngrp ∨ ngrp = 0 ∨ fieldAt bs 4 4 = 0 ∨ w % 2 ^ 16 = 0 ∨ w / 2 ^ 16 = 0 ∨ 4096 < w / 2 ^ 16 ∨
      480 < lt % 512 ∨ groups.any (fun g => g.d == 0 || g.hd == 3) ∨
      groups.any (fun g => decide (1 < groups.countP fun h => h.glayer == g.glayer && h.ghead == g.ghead)) ∨
      groups.any (fun g => decide (4 < groups.countP fun h => h.lyr == g.lyr && h.has g.region g.first)) then .error lcFormat
  else if fieldAt bs 0 4 / 2 ≠ 0 ∨ lt / 512 ≠ 0 ∨ fieldAt bs 0x18 8 ≠ 0 ∨ gs.any (fun g => !g.2) then .error lcReserved
  else .ok ⟨bitOf (fieldAt bs 0 4) 0, fieldAt bs 4 4, w % 2 ^ 16, w / 2 ^ 16, lt % 512, fieldAt bs 0x10 4, groups⟩

/-! ### SERVING (R308) -/

def servingOf (bs : List Byte) (rows : Nat) : Except Nat Serving :=
  let a := fieldAt bs 0 4
  let b := fieldAt bs 4 4
  let c := fieldAt bs 8 4
  let d := fieldAt bs 0xC 4
  let trees := [bitsOf a 9 4, bitsOf a 15 10, bitsOf a 21 16, bitsOf a 27 22]
  let ln := bitsOf a 3 2
  let cmax := bitsOf b 12 0
  let cmin := bitsOf b 25 13
  let vocab := bitsOf d 24 0
  if bs.length ≠ 64 ∨ ln = 3 ∨ (trees.drop (2 ^ ln)).any (· != 0) ∨ cmax = 0 ∨ 4096 < cmax ∨ cmin = 0 ∨ cmax < cmin ∨
      rows ≤ bitsOf c 12 0 ∨ 8 < bitsOf c 16 13 ∨ bitsOf c 20 17 = 0 ∨ 8 < bitsOf c 20 17 ∨ vocab = 0 ∨ 16777216 < vocab then
    .error lcFormat
  else if bitsOf a 31 28 + bitsOf b 31 26 + bitsOf c 31 21 + bitsOf d 31 25 + fieldAt bs 0x30 16 ≠ 0 then .error lcReserved
  else .ok ⟨bitsOf a 1 0, ln, trees, cmax, cmin, bitsOf c 12 0, bitsOf c 16 13, bitsOf c 20 17, vocab,
    (List.range 8).map fun i => fieldAt bs (0x10 + 4 * i) 4⟩

/-! ### RATIONS (R219, R222) -/

/-- The least scrubbing limit for a tick length. -/
def scrubMin (t : Nat) : Nat := ceilDiv t 25000

/-- The default limits for a tick length and the header's replay rations. -/
def defaultRations (t q d : Nat) : List Nat := [ceilDiv (8 * t) 1000, ceilDiv t 8000, ceilDiv t 8000, 4, ceilDiv t 1000, q, d, 4]

/-- Is each limit inside its range, the scrubbing minimum apart? -/
def rationsFit (rs : List Nat) : Bool :=
  let r (i : Nat) : Nat := rs.getD i 0
  decide (r 0 ≤ 16777215) && decide (r 1 ≤ 4096) && decide (r 2 ≤ 16777215) && decide (r 3 ≤ 255) && decide (r 4 ≤ 16777215) &&
    decide (r 5 ≤ 15) && decide (r 6 ≤ 15) && decide (1 ≤ r 7) && decide (r 7 ≤ 255)

/-! ### TREES -/

/-- Pairs of a flat list. -/
def pairs : List Nat → List (Nat × Nat)
  | a :: b :: r => (a, b) :: pairs r
  | _ => []

def logicals (l : List Nat) : List LogicalCore := (pairs l).map fun x => ⟨x.1, x.2⟩

/-- A tree from its record: kind, number, contributors, root region + 1, root index, corner canopy + 1, gateway, corner,
feeding link + 1. -/
def treeOf (x : List Nat × List Nat × List Nat × List Nat) : TreeRec :=
  let n (i : Nat) : Nat := x.1.getD i 0
  { kind := if n 0 = 0 then .multicast else if n 0 = 1 then .reduce else .merge
    tree := n 1 % 64
    sources := logicals x.2.1
    members := logicals x.2.2.1
    root := if n 3 = 0 then none else some ⟨n 3 - 1, n 4⟩
    corner := if n 5 = 0 then none else some (n 5 - 1, n 6, n 7)
    contributors := n 2
    guyIn := if n 8 = 0 then none else some (n 8 - 1)
    guyOut := pairs x.2.2.2 }

def destOf (x : List Nat) : DestRec :=
  let n (i : Nat) : Nat := x.getD i 0
  { kind := n 0, entry := n 1 % 64, target := ⟨n 2, n 3⟩, relative := n 4 == 1, chan := n 5 % 64 }

def treesOf (bs : List Byte) : Option TreesSection :=
  (Config.treeRecords bs).map fun ts => ⟨ts.map treeOf, (Config.destRecords bs).map destOf⟩

/-! ### The whole package -/

/-- The first refusal code among results of section readers. -/
def firstBad (code : Nat) (cs : List (Option Nat)) : Bool := cs.any (· == some code)

def errOf {α : Type} (x : Except Nat α) : Option Nat := match x with
  | .ok _ => none
  | .error e => some e

/-- Reads a package and checks it as far as no placement is needed, in the order of R244; `t`, `rows` and `debug` are the
load request's. -/
def readPackage (p : List Byte) (t rows : Nat) : Except Nat Package :=
  if !headerFits p then .error lcFormat
  else
    let kinds := (sectionsOf p 1).map kindOf
    let man := parseManifest (theSection p 5)
    let kv := kvPlanOf (theSection p 4)
    let sv := servingOf (theSection p 7) (fieldAt p 0x22 2)
    let pl := theSection p 2
    let nplans := fieldAt pl 0 4
    let plans := plansFrom pl (min nplans 16) 4
    let nsets := fieldAt (theSection p 5) 8 4
    let usedSets := plans.flatMap fun x => x.1.regions.map (·.sset)
    let trees := treesOf (theSection p 3)
    let rations := ((sectionsOf p 6).head?).map fun b => (List.range 8).map fun i => fieldAt b (4 * i) 4
    let secs := [errOf man, errOf kv, errOf sv]
    let formatBad := firstBad lcFormat secs || kinds.any Option.isNone || trees.isNone ||
      !(decide (1 ≤ nplans) && decide (nplans ≤ 16)) || !(plans.all (planFits kinds.length nsets)) ||
      (4 + (plans.map fun x => x.2.1).sum != pl.length) || !((List.range nsets).all fun i => usedSets.contains i) ||
      (sectionsOf p 6).any (fun b => b.length != 32) || (rations.any fun r => !rationsFit r)
    if formatBad then .error lcFormat
    else if packageDigest p ≠ BitVec.ofNat 256 (fieldAt p 0x50 32) then .error 4
    else
      let ks := kinds.filterMap id
      let flags := fieldAt p 6 2
      if !headerClear p || firstBad lcReserved secs || plans.any (fun x => !x.2.2) || ks.any (fun k => !k.2) then .error lcReserved
      else if ks.any fun k => k.1.words.any (fun w => !legal64 w) || !loopsOk k.1.words 0 [] then .error 6
      else if ks.any fun k => k.1.presets.any fun e => !presetLegal e then .error 7
      else
        let init := fieldAt p 0x24 2
        let body := fieldAt p 0x26 2
        if ks.any fun k => decide (16384 < k.1.words.length) || decide (k.1.words.length ≤ init) || decide (k.1.words.length ≤ body) ||
            !barrAfter k.1.words init || !barrAfter k.1.words body then .error 8
        else
          match man, kv, sv, trees with
          | .ok m, .ok kvp, .ok srv, some tr =>
            if t < fieldAt p 0x18 4 ∨ fieldAt p 0x1C 4 < t ∨ t < 1000 ∨ 10000000 < t ∨ rows = 0 ∨ fieldAt p 0x22 2 < rows ∨
                rows ≤ srv.preMin ∨ rations.any (fun r => decide (r.getD 2 0 < scrubMin t)) then .error 9
            else
              .ok { debugOk := bitOf flags 0, chained := bitOf flags 1, guard := bitOf flags 2
                    tMin := fieldAt p 0x18 4, tMax := fieldAt p 0x1C 4, slack := fieldAt p 0x20 2, rows := fieldAt p 0x22 2
                    init := init, body := body, sat := fieldAt p 0x28 1, qrep := fieldAt p 0x29 1, drep := fieldAt p 0x2A 1
                    image := BitVec.ofNat 256 (fieldAt p 0x30 32), digest := packageDigest p
                    kinds := ks.map (·.1), plans := plans.map (·.1), trees := tr, kv := kvp, rations := rations
                    serving := srv, manifest := m }
          | _, _, _, _ => .error lcFormat

end Sys2Proof.Machine
end

