-- ==== Sys2Proof/Machine/Load.lean ====
section
/-! DEFINITION. Loading and unloading (R243 to R248, R254, R273, R275, R351, R360, R395, R563): which cores a plan takes,
the checks of a plan, routes, and what the loader writes. -/

namespace Sys2Proof.Machine

/-! ### Assignment (R243) -/

/-- Is a site's core there for the loader: named by the repair map, its panel powered and not fenced, its router alive? -/
def State.coreUsable (s : State) (k : Site) : Bool :=
  ((s.panel k.panel).dom.get VLOG).on && !(s.panel k.panel).fenced && !(s.router k).dead && !(s.panel k.panel).wentDark && (s.panel k.panel).pstate != .capped

/-- The logical cores of a canopy in the loader's order. -/
def State.canopyCores (s : State) (c : Nat) : List Site :=
  (List.range 96).flatMap fun i => (List.range 12).flatMap fun row =>
    ((s.rowSites (c * 96 + i) row).map fun col => (⟨c * 96 + i, col, row⟩ : Site)).filter s.coreUsable

/-- Takes the first `n` of the sites in the canopies of a mask. -/
def takeSites (mask : Nat) : Nat → List Site → List Site × List Site
  | _, [] => ([], [])
  | 0, l => ([], l)
  | n + 1, k :: r =>
    if bitOf mask (siteCanopy k) then
      let x := takeSites mask n r
      (k :: x.1, x.2)
    else
      let x := takeSites mask (n + 1) r
      (x.1, k :: x.2)

/-- Regions in stage order with the sites each takes; none where a region comes short. -/
def assignRegions (stages : List StageRec) : List (RegionRec × Nat) → List Site → Option (List (Site × Assign))
  | [], _ => some []
  | (r, i) :: rest, avail =>
    let mask := ((stages[r.stage]?).map (·.cmask)).getD 0
    let x := takeSites mask r.rcores avail
    if x.1.length < r.rcores then none
    else (assignRegions stages rest x.2).map fun l =>
      (x.1.zipIdx.map fun y => (y.1, (⟨r.stage, i, y.2, r.rcores, r.kind, r.sset⟩ : Assign))) ++ l

def State.assignPlan (s : State) (p : Plan) : Option (List (Site × Assign)) :=
  assignRegions p.stages p.regions.zipIdx ((List.range 4).flatMap s.canopyCores)

/-! ### Carving (R254, R354) -/

/-- The first 1 KiB boundary at or above an address. -/
def alignK (n : Nat) : Nat := ceilDiv n 1024 * 1024

/-- Bytes of a core's weight areas. -/
def areaBytes (st : SetRec) : Nat := st.span * if st.copy then 2 else 1

def groupsOf (kv : KvPlan) (a : Assign) : List (KvGroup × Nat) := kv.groups.zipIdx.filter fun g => g.1.has a.region a.index

/-- The bindings of a core: its rank among its groups of one local layer (R251). -/
def bindsOf (kv : KvPlan) (a : Assign) : List Bind :=
  let gs := groupsOf kv a
  gs.map fun g => ⟨g.1.lyr, gs.countP fun h => h.1.lyr == g.1.lyr && decide (h.2 < g.2), g.2⟩

/-! ### Trees (R46, R59, R64, R66, R174) -/

/-- A corner router of an interior gateway: gateway 0 to 3, corner 0 to 3. -/
def cornerSite (x : Nat × Nat × Nat) : Site :=
  siteAt x.1 ((if x.2.1 % 2 = 0 then 38 else 116) + x.2.2 % 2) ((if x.2.1 / 2 % 2 = 0 then 23 else 71) + x.2.2 / 2 % 2)

/-- The site of a logical core of a plan. -/
def siteOf (asg : List (Site × Assign)) (l : LogicalCore) : Option Site :=
  (asg.find? fun x => x.2.region == l.region && x.2.index == l.index).map (·.1)

/-- Where a tree begins or ends: its source or root core, its corner router, or the router a guy link feeds. -/
def TreeRec.anchor (t : TreeRec) (asg : List (Site × Assign)) : Option Site :=
  match t.kind with
  | .multicast => match t.guyIn with
    | some l => some (gateRouter l 6)
    | none => t.sources.head?.bind (siteOf asg)
  | _ => match t.corner with
    | some c => some (cornerSite c)
    | none => t.root.bind (siteOf asg)

/-- The cores on a tree's far side: its receivers, or its contributors. -/
def TreeRec.leaves (t : TreeRec) (asg : List (Site × Assign)) : List Site := t.members.filterMap (siteOf asg)

/-- A tree's sites as (site, port towards its next) along a path. -/
def hopPorts (a : Site) : List Hop → List (Site × Port)
  | [] => []
  | h :: r => (a, opposite (arrivalPort a h.site)) :: hopPorts h.site r

/-- Adds an output to a multicast table. -/
def addMcast (rs : List (Site × Router)) (k : Site) (t : Nat) (p : Port) : List (Site × Router) :=
  let r := getK rs k {}
  let m := getK r.mcast t 0#6
  putK rs k { r with mcast := putK r.mcast t (m ||| (1#6 <<< portNum p)) }

/-- Adds an expected input to a reduction entry, and sets its output. -/
def addRed (rs : List (Site × Router)) (k : Site) (t : Nat) (inp : Option Port) (out : Option Port) : List (Site × Router) :=
  let r := getK rs k {}
  let old : RedEntry := (r.red.find? fun e => e.tree == t).getD ⟨t, 0, .here⟩
  let new : RedEntry := { old with
    mask := match inp with
      | some p => old.mask ||| (1#6 <<< portNum p)
      | none => old.mask
    out := out.getD old.out }
  putK rs k { r with red := r.red.filter (fun e => e.tree != t) ++ [new] }

/-- The routes of one tree: row first, then column, round what is dead (R42, R46, R59; notes/assumptions/40). -/
def State.routeTree (s : State) (asg : List (Site × Assign)) (t : TreeRec) (rs : List (Site × Router)) : List (Site × Router) :=
  match t.anchor asg with
  | none => rs
  | some a =>
    match t.kind with
    | .multicast =>
      let rs := (t.leaves asg).foldl (fun rs k =>
        let path := s.pathIn (siteCanopy a) false 600 (siteG a) (siteH a) (siteG k) (siteH k)
        let rs := (hopPorts a path).foldl (fun rs x => addMcast rs x.1 t.tree x.2) rs
        addMcast rs k t.tree .here) rs
      t.guyOut.foldl (fun rs o =>
        let b := gateRouter o.1 6
        let path := s.pathIn (siteCanopy a) false 600 (siteG a) (siteH a) (siteG b) (siteH b)
        let rs := (hopPorts a path).foldl (fun rs x => addMcast rs x.1 t.tree x.2) rs
        addMcast rs b t.tree (gatePort o.1)) rs
    | _ =>
      let rs := (t.leaves asg).foldl (fun rs k =>
        let path := s.pathIn (siteCanopy a) false 600 (siteG k) (siteH k) (siteG a) (siteH a)
        let rs := addRed rs k t.tree (some .here) none
        let hops := hopPorts k path
        hops.zip path |>.foldl (fun rs x =>
          addRed (addRed rs x.1.1 t.tree none (some x.1.2)) x.2.site t.tree (some (opposite x.1.2)) none) rs) rs
      addRed rs a t.tree none (some (if t.corner.isSome then .sixth else .here))

/-- Does a tree break R46 or name a core the plan lacks? -/
def treeBad (asg : List (Site × Assign)) (t : TreeRec) : Bool :=
  let missing := (t.sources ++ t.members ++ t.root.toList).any fun l => (siteOf asg l).isNone
  match t.anchor asg with
  | none => true
  | some a => missing || (t.kind == .multicast && decide (t.sources.length + (if t.guyIn.isSome then 1 else 0) ≠ 1)) ||
      (t.leaves asg).any (fun k => siteCanopy k != siteCanopy a) ||
      t.guyOut.any fun o => siteCanopy (gateRouter o.1 6) != siteCanopy a

/-- Would a router need two entries under one number: two trees of one number that share a canopy and a table? -/
def treesClash (asg : List (Site × Assign)) : List TreeRec → Bool
  | [] => false
  | t :: r => r.any (fun u => t.tree == u.tree && (t.kind == .multicast) == (u.kind == .multicast) &&
      (t.anchor asg).map siteCanopy == (u.anchor asg).map siteCanopy) || treesClash asg r

/-! ### A plan's checks (R245, R246) -/

/-- The stage check of R246. -/
def stageFits (st : StageRec) (q d : Nat) (debug : Bool) (w : Nat) : Bool :=
  let x := st.worst + (q + d) * st.lstep
  decide (ceilDiv (x * 10 * (if debug then 108 else 100)) 1900 ≤ w)

/-- The buddy of a core among the cores a plan assigns (R275); every assigned core carves. -/
def planBuddy (asg : List (Site × Assign)) (k : Site) : Bool :=
  asg.any fun x => x.1.panel == k.panel && x.1 != k

/-- The rations in force at load: the section's or the defaults, with RATION5 and RATION6 from the header (R537). -/
def Package.limits (p : Package) (t : Nat) : List Nat :=
  ((p.rations.getD (defaultRations t p.qrep p.drep)).set 5 p.qrep).set 6 p.drep

/-- Frames a core carves. -/
def framesIn (base : Nat) : Nat := min 960 ((2 ^ 24 - base - pageTableBytes) / frameBytes)

/-- A plan's first failure, or the assignment that passes. -/
def State.tryPlan (s : State) (p : Package) (pl : Plan) (t : Nat) (debug : Bool) : Except Nat (List (Site × Assign)) :=
  let setOf (i : Nat) : SetRec := (p.manifest.sets[i]?).getD ⟨0, 0, 0, false⟩
  match s.assignPlan pl with
  | none => .error 0x000A
  | some asg =>
    let beyond := pl.regions.any fun r => p.manifest.shards.any fun x => x.set == r.sset && decide (r.rcores ≤ x.index)
    let base (a : Assign) : Nat := alignK (areaBytes (setOf a.sset))
    let frames := (asg.map fun x => framesIn (base x.2)).sum
    let data := if p.guard then frames - ceilDiv frames 9 else frames
    let w := t - max (ceilDiv (p.slack * t) 1000) 320
    let lim := p.limits t
    if beyond then .error 0x000A
    else if asg.any fun x => decide (2 ^ 24 < base x.2 + pageTableBytes) then .error 0x000B
    else if data < p.kv.minPages ∨
        p.kv.groups.any (fun g => match pl.regions[g.region]? with
          | none => true
          | some r => decide (r.rcores < g.first + g.d)) ∨
        asg.any (fun x => decide (0 < framesIn (base x.2)) && !planBuddy asg x.1) then .error 0x000C
    else if pl.stages.any fun st => !stageFits st (lim.getD 5 0) (lim.getD 6 0) debug w then .error 0x000D
    else if p.trees.trees.any (treeBad asg) || treesClash asg p.trees.trees ||
        p.trees.dests.any (fun d => pl.regions.any fun r => r.kind == d.kind) &&
          p.trees.dests.any (fun d => !d.relative && (siteOf asg d.target).isNone) then .error 0x000E
    else .ok asg

/-- The first plan that passes, with its index; else the last plan's first failure (R245). -/
def State.choosePlan (s : State) (p : Package) (t : Nat) (debug : Bool) :
    List (Plan × Nat) → Nat → Except Nat (Plan × Nat × List (Site × Assign))
  | [], e => .error e
  | (pl, i) :: r, _ =>
    match s.tryPlan p pl t debug with
    | .ok asg => .ok (pl, i, asg)
    | .error e => s.choosePlan p t debug r e

/-! ### What the loader writes (R174, R208, R247, R248, R254, R273, R563) -/

/-- A core's tables. -/
def coreTables (p : Package) (asg : List (Site × Assign)) (k : Site) (a : Assign) : CoreTables :=
  let st : SetRec := (p.manifest.sets[a.sset]?).getD ⟨0, 0, 0, false⟩
  let base := alignK (areaBytes st)
  let trees := p.trees.trees
  { assign := some a
    span := st.span
    kvBase := base
    kvBytes := 2 ^ 24 - base
    wTop := 2 ^ 24
    dest := (p.trees.dests.filter fun d => d.kind == a.kind).filterMap fun d =>
      let l : LogicalCore := if d.relative then ⟨d.target.region, (a.index + d.target.index) % a.cores⟩ else d.target
      (siteOf asg l).map fun x => ⟨d.entry, x, d.chan⟩
    roots := (trees.filter fun t => t.kind != .multicast && (t.anchor asg == some k || (t.leaves asg).contains k)).filterMap
      fun t => (t.anchor asg).map fun r => ⟨t.tree, r, t.contributors, t.kind == .merge⟩
    mcSource := (trees.filter fun t => t.kind == .multicast && t.guyIn.isNone && t.anchor asg == some k).map (·.tree)
    binds := bindsOf p.kv a
    presets := ((p.kinds[a.kind]?).map (·.presets)).getD [] }

/-- A program's bytes in the instruction store. -/
def programBytes (ws : List DWord) : List Byte := ws.flatMap fun w => natLe 8 w.toNat

/-- An active core started at INIT: its stores keep their contents but for the instruction store and the page-table
area, its registers are 0, no instruction waits. -/
def startCore (c : Core) (p : Package) (tab : CoreTables) (kind : Nat) (init : Nat) : Core :=
  let ws := ((p.kinds[kind]?).map (·.words)).getD []
  let d : Core := { act := c.act, wgt := c.wgt, psum := c.psum, badParity := c.badParity.filter fun g => g.1 ≠ 3, cols := c.cols, tab := tab, idx := init }
  let d := { d with inst := Mem.write [] 0 (programBytes ws) }
  d.wrRaw 1 tab.kvBase (List.replicate pageTableBytes 0#8)

/-- The presets an active core starts with, and its first checkpoint (R208, R458). -/
def State.armCore (s : State) (k : Site) (idx : Nat) : State :=
  let s := s.presetAll k
  s.mapCore k fun c => c.newStep idx none

/-- Guard groups of a canopy that keep the bounds of R273: nine frames on nine cores in nine panels of the canopy. -/
def goodGroup (g : List (Site × Nat)) : Bool :=
  g.length == 9 && (g.map fun x => x.1.panel).eraseDups.length == 9

/-- The guard map of the cores assigned: each frame in at most one group. -/
def State.makeGuard (s : State) : List (List (Site × Nat)) :=
  (List.range 4).flatMap fun c =>
    let frames := s.assigned.flatMap fun x =>
      if siteCanopy x.1 = c then (List.range (s.core x.1).tab.frames).map fun f => (x.1, f) else []
    let gs := (Config.guardGroups (frames.map fun x => (x.1.panel, x.1.col, x.1.row, x.2))).map fun g =>
      g.map fun x => ((⟨x.1, x.2.1, x.2.2.1⟩ : Site), x.2.2.2)
    gs.foldl (fun acc g =>
      if goodGroup g && g.all (fun x => frames.contains x && !acc.any fun h => h.contains x) then acc ++ [g] else acc) []

/-- Roles of the frames under the guard: parity frames STATE 0b10, frames left over 0b11; parity frames initialised. -/
def State.initGuard (s : State) : State :=
  let gm := s.makeGuard
  let s : State := { s with guardMap := gm }
  let s := s.assigned.foldl (fun s x =>
    (List.range (s.core x.1).tab.frames).foldl (fun s f =>
      if gm.any fun g => g.head? == some (x.1, f) then s.putFrameRec x.1 f { freeRec with st := 2 }
      else if gm.any fun g => g.contains (x.1, f) then s
      else s.putFrameRec x.1 f { freeRec with st := 3 }) s) s
  gm.foldl (fun s g => match g with
    | (pk, pf) :: ds =>
      let bytes := ds.foldl (fun acc x =>
        let c := s.core x.1
        xorBytes acc (c.rd 1 (c.tab.frameAddr x.2) frameBytes)) (List.replicate frameBytes 0#8)
      s.mapCore pk fun c => c.wrRaw 1 (c.tab.frameAddr pf) bytes
    | [] => s) s

/-- The routes of every tree over routers cleared of old ones, and the link tree tables (R46, R59, R389). -/
def State.writeRoutes (s : State) (p : Package) (asg : List (Site × Assign)) : State :=
  let clean := s.routers.map fun e => (e.1, { e.2 with mcast := [], red := [], broken := [] })
  let rs := p.trees.trees.foldl (fun rs t => s.routeTree asg t rs) clean
  let s : State := { s with routers := rs }
  let outs (l : Nat) : List (Nat × Nat) :=
    p.trees.trees.flatMap fun t => (t.guyOut.filter fun o => o.1 == l).map fun o => (t.tree, o.2)
  (List.range 8).foldl (fun s l => s.mapGuy l fun g => { g with trees := outs l }) s

/-- The loader's fetches: shards that are absent or fail their re-hash (R360). -/
def State.startShards (s : State) (m : Manifest) : State :=
  let ps := s.placements m
  let held := ps.filterMap fun x => (m.shards[x.1]?).bind fun r =>
    if (s.weights.shards.any fun h => h.core == x.2 && h.area == 0 && h.digest == r.digest) &&
        digestOf ((s.core x.2).carried r 0) == r.digest then some (⟨x.1, x.2, 0, r.digest, s.time⟩ : HeldShard) else none
  let rest := ps.filter fun x => !held.any fun h => h.shard == x.1 && h.core == x.2
  let s : State := { s with weights := { s.weights with held := some m, heldDigest := m.hash, shards := held, fetches := [] } }
  (rest.foldl (fun s x => s.addFetch x.1 x.2 0 (((m.shards[x.1]?).map (·.digest)).getD 0) .load) s).pumpFetches

/-- Writes a package that passed its checks, and starts every core at INIT (R247). -/
def State.place (s : State) (l : Loaded) (asg : List (Site × Assign)) : State :=
  let p := l.pkg
  let s : State := { s with loaded := some l, loadPending := none }
  let cores := asg.map fun x => (x.1, startCore (s.core x.1) p (coreTables p asg x.1 x.2) x.2.kind p.init)
  let s : State := { s with cores := cores.foldl (fun cs x => putK cs x.1 x.2) s.cores }
  let s := s.writeRoutes p asg
  let s : State := { s with
    weights := { s.weights with
      epoch := 1, copies := [], op := .none, repairs := [], discard := [], copyManifest := none
      areas := (List.range l.plan.stages.length).map fun g => ⟨g, 0, 1, none⟩ }
    tick := {}
    serve := { s.serve with seqs := [], cohorts := [], built := none, drawn := [], lanterns := Vector.replicate 4 {} }
    regs := { s.regs with
      goals := p.serving.goals
      rations := (Vector.ofFn fun i => (p.limits l.t).getD i.val 0)
      lateCnt := [], extRing := [], extWr := 0, extOvf := 0 } }
  let s := if p.guard then s.initGuard else { s with guardMap := [] }
  let s := s.startShards p.manifest
  asg.foldl (fun s x => s.armCore x.1 p.init) s

/-! ### Unloading (R345, R351, R360) -/

/-- Every request of the package ends with an outcome. -/
def State.endAll (s : State) (outcome : Nat) : State :=
  let live := s.serve.seqs.filter fun x => !x.state.terminal && x.state != .kept && !x.silent
  let q := s.serve.queued
  let recs := live.map (fun x => doneRec x outcome 0 false) ++
    q.map fun r => (r.func, (⟨4, outcome * 256, r.ring, r.idx, none, r.utag, none, 0, 0⟩ : CRec))
  { s with serve := { s.serve with
    recs := s.serve.recs ++ recs
    ended := s.serve.ended ++ live.map (fun x => (x.req.func, x.req.ring, x.req.idx)) ++ q.map fun r => (r.func, r.ring, r.idx)
    queued := [], seqs := [], cohorts := [], built := none, drawn := [], admitted := []
    lanterns := Vector.replicate 4 {} } }

/-- The package leaves: cores stop and hold no table, holds but a freeze's end, zips abort, the weights stay (R351, R360). -/
def State.dropPackage (s : State) : State :=
  let s := s.abortZips (fun _ => true) false
  let s := if s.weights.op = .none then s else s.endOp 0x67 0 0
  { s with
    loaded := none
    loadPending := none
    cores := s.cores.map fun e => (e.1, { e.2 with
      tab := {}, rep := {}, stream := [], aq := [], vq := [], tq := [], stopped := [], heldSignals := [], halted := false
      posted := [], landing := [], rootIn := [], inflight := none, loops := [], atBarrier := false, tags := []
      dupIn := [], guardTicks := [], guardTouched := [] })
    routers := s.routers.map fun e => (e.1, { e.2 with mcast := [], red := [], inq := [], broken := [] })
    transit := {}
    guardMap := []
    holds := s.holds.filter fun h => h.reason == 4
    tick := {}
    weights := { s.weights with fetches := [], repairs := [], copies := [], areas := [], discard := [], copyManifest := none }
    regs := { s.regs with groupIn := none }
    errors := { s.errors with
      cohortsLost := [], badFrames := [], badWords := [], fixedWords := [], stuck := false, darned := none, deadCores := []
      skipped := s.errors.skipped ++ s.errors.deadCores } }

/-- Ends a LOAD with a refusal. -/
def State.refuseLoad (s : State) (f idx utag code : Nat) : State := s.addRec f ⟨5, code, 4, idx, none, utag, none, 0, 0⟩

/-- A package whose shards no source gives (R360): LOAD completes with IMAGE, and the module is left unloaded. -/
def State.loadFails (s : State) : State :=
  match s.loaded with
  | none => s
  | some l => s.dropPackage.refuseLoad l.func l.ringIdx l.utag 0x000F

/-- SHARD_ARRIVAL (R359). -/
def execShardArrival (rec : Nat) (k : Site) (bytes : List Byte) (s : State) : Host.Outcome State Fault Refusal :=
  onUnit k.ok s fun s => s.shardArrival rec k bytes State.loadFails

/-! ### LOAD and UNLOAD (R244, R345, R395) -/

/-- Sends the GROUP block of a chained load on every group link (R395). -/
def State.sendGroup (s : State) (l : Loaded) : State :=
  let b : Block := BitVec.ofNat 512 (1 + s.gid * 2 ^ 32 + l.t * 2 ^ 64 + s.flash.modId.toNat * 2 ^ 96 + l.pkg.digest.toNat * 2 ^ 160)
  s.groupLinks.foldl (fun s i =>
    (s.mapGuy i fun g => { g with highest := 2 ^ 64 - 2, partnerAck := 2 ^ 64 - 2, marker := none, lostMarker := false }).guyControl i b) s

/-- Places a load whose partners agree, or refuses it where no source can serve a shard it lacks (R360). -/
def State.startLoad (s : State) (l : Loaded) : State :=
  match s.tryPlan l.pkg l.plan l.t l.debug with
  | .error e => ({ s with loadPending := none } : State).refuseLoad l.func l.ringIdx l.utag e
  | .ok asg =>
    let s := s.place l asg
    if s.weights.fetches.any fun f => (s.sourceNow f.tries0 f.tries1).isNone then s.loadFails else s

/-- The state of a pending chained load against the GROUP blocks seen: 0 wait, 1 all match, 2 refuse (R395). -/
def State.groupCheck (s : State) (l : Loaded) : Nat :=
  let digs := match s.regs.groupIn with
    | some g => g.2.2
    | none => []
  let verdict (i : Nat) : Nat := match (s.guy i).groupSeen with
    | none => 0
    | some (gid, t, _, dg) => if gid = s.gid ∧ t = l.t ∧ dg = digs.getD i 0 then 1 else 2
  if s.groupLinks.any fun i => verdict i == 2 then 2 else if s.groupLinks.all fun i => verdict i == 1 then 1 else 0

/-- A chained load goes on, is refused with CHAIN, or waits. -/
def State.settleChain (s : State) : State :=
  match s.loadPending with
  | none => s
  | some l => match s.groupCheck l with
    | 1 => s.startLoad l
    | 2 => ({ s with loadPending := none, regs := { s.regs with groupIn := none } } : State).refuseLoad l.func l.ringIdx l.utag 0x0010
    | _ => s

/-- The checks of a LOAD descriptor and its package (R244, R245). -/
def State.checkLoad (s : State) (f : Nat) (c : Ctrl) : Except Nat Loaded :=
  let addr := fieldAt c.bs 8 8
  let size := fieldAt c.bs 0x10 8
  let t := fieldAt c.bs 0x18 4
  let w := fieldAt c.bs 0x1C 4
  let rows := bitsOf w 12 0
  let debug := bitOf w 13
  if f ≠ 0 then .error 1
  else if s.loaded.isSome ∨ s.loadPending.isSome then .error 2
  else if size < 256 then .error 3
  else
    let total := fieldAt (s.hostRead addr 256) 0x10 8
    if size < total ∨ total < 256 then .error 3
    else
      match readPackage (s.hostRead addr total) t rows with
      | .error e => .error e
      | .ok p =>
        match s.choosePlan p t debug p.plans.zipIdx 0x000A with
        | .error e => .error e
        | .ok (pl, i, _) =>
          if p.manifest.hash ≠ p.image then .error 0x000F
          else if debug && !p.debugOk then .error 0x0011
          else .ok ⟨p, i, pl, t, rows, debug, false, f, c.idx, c.utag⟩

/-- LOAD (R244 to R247): the checks, then the writes; a chained load first waits for its partners. -/
def execLoad (f : Nat) (s : State) : Host.Outcome State Fault Refusal :=
  onUnit (fnOk f) s fun s => s.ctrlRun f 1 fun c s =>
    if !descClear c.bs [(8, 64), (0x10, 64), (0x18, 32), (0x1C, 14)] then s.control f c 0x40 0 0
    else if fieldAt c.bs 8 8 % 4096 ≠ 0 then s.control f c 0x41 0 0
    else
      match s.checkLoad f c with
      | .error e => s.control f c e 0 0
      | .ok l =>
        if l.pkg.chained && (s.regs.groupLinks == 0 || s.regs.gid == 0) then s.control f c 0x0010 0 0
        else if l.pkg.chained then
          let s : State := { s with
            loadPending := some l
            regs := { s.regs with groupIn := some (s.regs.groupLinks, s.regs.gid.toNat, s.regs.groupDig) } }
          (s.sendGroup l).settleChain
        else s.startLoad l

/-- Ends the package now: requests end with UNLOADED in one batch, UNLOAD's record follows (R345, R351). -/
def State.unloadNow (s : State) (tick : Option Nat) : State :=
  match s.unloading with
  | none => s
  | some u =>
    let s := s.flushCounted.endAll 4
    let s := s.liveFns.foldl (fun s g => s.writeBatch g tick) s
    let s : State := { s.dropPackage with unloading := none }
    match u with
    | some (f, idx, utag) => s.addRec f ⟨5, 0, 4, idx, none, utag, none, 0, 0⟩
    | none => s

/-- UNLOAD (R345): while ticks run it takes effect at the next release. -/
def execUnload (f : Nat) (s : State) : Host.Outcome State Fault Refusal :=
  onUnit (fnOk f) s fun s =>
    -- a pending chained load is abandoned by UNLOAD although it holds the ring (R395)
    let s := if s.loadPending.isSome && f = 0 then
      (match s.loadPending with
        | some l => ({ s with loadPending := none, regs := { s.regs with groupIn := none } } : State).refuseLoad l.func l.ringIdx l.utag 0x0010
        | none => s) else s
    s.ctrlRun f 2 fun c s =>
      if !descClear c.bs [] then s.control f c 0x40 0 0
      else if f ≠ 0 then s.control f c 0x48 0 0
      else if s.loaded.isNone then s.control f c 0x47 0 0
      else
        let s : State := { s with unloading := some (some (f, c.idx, c.utag)) }
        if s.tick.running && !s.errors.fatal then s else s.unloadNow none

end Sys2Proof.Machine
end

