-- ==== Sys2Proof/Machine/Requests.lean ====
section
/-! DEFINITION. Submission descriptors (R289, R310, R336 to R338): fetching one, its checks and refusals, and the QUEUED
request it makes. -/

namespace Sys2Proof.Machine

/-! ### The sampling record (R310) -/

/-- A finite binary32 value. -/
def fin32 (x : Word) : Bool := (ofF32 x).isFin

/-- Bias entries of 8 B: token, reserved byte, bias. -/
def biasesOf (bs : List Byte) (n : Nat) : List (Nat × Nat × Word) :=
  (List.range n).map fun i =>
    let v := fieldAt bs (8 * i) 8
    (bitsOf v 23 0, bitsOf v 31 24, BitVec.ofNat 32 (v / 2 ^ 32))

/-- Stop tokens of a record: those marked valid. -/
def stopsOf (bs : List Byte) : List Nat :=
  ((List.range 3).map fun i => fieldAt bs (0x34 + 4 * i) 4).filterMap fun v => if bitOf v 31 then some (bitsOf v 23 0) else none

/-- A sampling record's fields and the bias list it points at. -/
def samplingOf (bs : List Byte) (bias : List (Nat × Nat × Word)) : Sampling :=
  let w (o : Nat) : Word := BitVec.ofNat 32 (fieldAt bs o 4)
  let x14 := fieldAt bs 0x14 4
  let x20 := fieldAt bs 0x20 4
  { temp := w 0, topp := w 4, minp := w 8, rep := w 0xC, freq := w 0x10
    topk := bitsOf x14 6 0, genOnly := bitOf x14 7, pwin := bitsOf x14 31 16
    seed := BitVec.ofNat 64 (fieldAt bs 0x18 8), bias := bias.map fun b => (b.1, b.2.2)
    auto := bitsOf x20 21 16, autoEn := bitOf x20 22, start := bitsOf (fieldAt bs 0x24 4) 15 0
    maxNew := bitsOf (fieldAt bs 0x30 4) 20 0, stops := stopsOf bs }

def biasCount (bs : List Byte) : Nat := bitsOf (fieldAt bs 0x20 4) 8 0

/-- Does a sampling record keep R310? -/
def samplingOk (bs : List Byte) (bias : List (Nat × Nat × Word)) (vocab : Nat) : Bool :=
  let x := samplingOf bs bias
  let zero : Word := 0#32
  let reserved := bitsOf (fieldAt bs 0x14 4) 15 8 + bitsOf (fieldAt bs 0x20 4) 15 9 + bitsOf (fieldAt bs 0x20 4) 31 23 +
    bitsOf (fieldAt bs 0x24 4) 31 16 + bitsOf (fieldAt bs 0x30 4) 31 21 +
    ((List.range 3).map fun i => bitsOf (fieldAt bs (0x34 + 4 * i) 4) 30 24).sum
  [x.temp, x.topp, x.minp, x.rep, x.freq].all fin32 && leF32 zero x.temp && ltF32 zero x.topp && leF32 x.topp one32 &&
    leF32 zero x.minp && ltF32 x.minp one32 && leF32 one32 x.rep && decide (x.topk ≤ 64) && decide (biasCount bs ≤ 256) &&
    decide (1 ≤ x.maxNew) && decide (x.maxNew ≤ 1048576) && reserved == 0 &&
    bias.all (fun b => decide (b.1 < vocab) && b.2.1 == 0 && fin32 b.2.2) && (bias.map (·.1)).eraseDups.length == bias.length

/-! ### The descriptor (R289, R336, R337) -/

/-- The tokens of a prompt and whether each word's reserved bits are 0. -/
def promptOf (bs : List Byte) (n : Nat) : List (Nat × Bool) :=
  (List.range n).map fun i =>
    let v := fieldAt bs (4 * i) 4
    (v % 2 ^ 24, v / 2 ^ 24 == 0)

/-- The checks of a submission in the order of R337 and then R289; the request, or the code that refuses it. -/
def State.readRequest (s : State) (f ring idx : Nat) (d : List Byte) : Except Nat Request :=
  let w0 := fieldAt d 0 4
  let kind := bitsOf w0 7 0
  let epany := bitOf w0 12
  let w4 := fieldAt d 4 4
  let plen := bitsOf w4 20 0
  let w24 := fieldAt d 0x24 4
  let cslot := bitsOf w24 12 0
  let epoch := fieldAt d 0x30 4
  let paddr := fieldAt d 8 8
  let saddr := fieldAt d 0x10 8
  let oaddr := fieldAt d 0x18 8
  let osize := fieldAt d 0x20 4
  let rec_ := s.hostRead saddr 64
  let n := biasCount rec_
  let bias := biasesOf (s.hostRead (fieldAt rec_ 0x28 8) (8 * min n 256)) (min n 256)
  let samp := samplingOf rec_ bias
  let vocab := (s.serving.map (·.vocab)).getD 0
  let prompt := if plen ≤ 1048575 then promptOf (s.hostRead paddr (4 * plen)) plen else []
  let kept := if kind = 2 then s.seqAt cslot else none
  if (kind ≠ 1 ∧ kind ≠ 2) ∨ bitsOf w0 31 14 ≠ 0 ∨ bitsOf w4 31 21 ≠ 0 ∨ bitsOf w24 31 13 ≠ 0 ∨ fieldAt d 0x34 4 ≠ 0 ∨
      (kind = 1 ∧ cslot ≠ 0) ∨ (epany ∧ epoch ≠ 0) then .error 0x40
  else if paddr % 4 ≠ 0 ∨ saddr % 64 ≠ 0 ∨ oaddr % 64 ≠ 0 ∨ osize % 64 ≠ 0 then .error 0x41
  else if osize < 8 * samp.maxNew then .error 0x42
  else if samp.autoEn && !(s.fn f).autos.getLsbD samp.auto then .error 0x44
  else if plen = 0 ∨ 1048575 < plen ∨ prompt.any fun t => vocab ≤ t.1 || !t.2 then .error 1
  else if !samplingOk rec_ bias vocab then .error 2
  else if bitsOf w0 10 8 < (s.fn f).ceil then .error 3
  else if samp.autoEn && !(match s.serve.autos.find? (fun a => a.1 == samp.auto) with
      | some a => decide (samp.start < a.2.states.length)
      | none => false) then .error 4
  else if kind = 2 && !(kept.any fun x => x.state == .kept && x.req.func == f) then .error 5
  else if !epany && epoch != 0xFFFFFFFF && !s.epochHeld epoch then .error 6
  else if 1048576 < plen + samp.maxNew + (kept.map (·.len)).getD 0 then .error 7
  else .ok
    { func := f, ring := ring, idx := idx, utag := fieldAt d 0x38 8, cls := bitsOf w0 10 8, keep := bitOf w0 11
      epany := epany, prog := bitOf w0 13, prompt := prompt.map (·.1), samp := samp, oaddr := oaddr, osize := osize
      deadline := fieldAt d 0x28 8, epoch := epoch, cont := if kind = 2 then some cslot else none, cancelled := false }

/-! ### Fetching (R337, R338, R351) -/

/-- Has tick 0 of the loaded package begun (R212)? -/
def State.begun (s : State) : Bool := s.loaded.any (·.started)

/-- The KIND at the head of a submission ring. -/
def State.headKind (s : State) (f ring : Nat) : Nat := fieldAt (s.ringEntry ((s.fn f).ring ring) ((s.fn f).ring ring).own) 0 1

/-- May the head of a submission ring be fetched now (R285, R338)? -/
def State.mayFetch (s : State) (f ring : Nat) : Bool :=
  s.begun && s.ringReady f ring && decide (s.serve.queued.length < 16384) && s.dmaOk (servePanel s.leadCanopy) f

/-- A request ended without a slot: its DONE record (R342). -/
def State.endRequest (s : State) (r : Request) (status : Nat) : State :=
  ({ s with serve := { s.serve with ended := s.serve.ended ++ [(r.func, r.ring, r.idx)] } } : State).addRec r.func
    ⟨4, status, r.ring, r.idx, none, r.utag, none, 0, 0⟩

/-- Fetches the descriptor at the head of a submission ring: a QUEUED request, or a refusal (R337). -/
def State.fetchSub (s : State) (f ring : Nat) : State :=
  let r := (s.fn f).ring ring
  let d := s.ringEntry r r.own
  let s := s.mapRing f ring fun r => { r with own := (r.own + 1) % 2 ^ 32 }
  match s.readRequest f ring r.own d with
  | .error e =>
    ({ s with serve := { s.serve with ended := s.serve.ended ++ [(f, ring, r.own)] } } : State).addRec f
      ⟨4, 0x300 + e, ring, r.own, none, fieldAt d 0x38 8, none, 0, 0⟩
  | .ok q =>
    let s := s.dmaCharge (servePanel s.leadCanopy) f (4 * q.prompt.length + 64 + 8 * q.samp.bias.length)
    { s with serve := { s.serve with queued := s.serve.queued ++ [q] } }

/-- REQUEST (R336): the descriptor at the ring's head is no continuation; a reserved kind is refused. -/
def execRequest (f ring : Nat) (s : State) : Host.Outcome State Fault Refusal :=
  onUnit (fnOk f ∧ subRingOk ring) s fun s =>
    if s.mayFetch f ring && s.headKind f ring != 2 then s.fetchSub f ring else s

/-- CONTINUE (R289, R336): the descriptor at the ring's head is a continuation. -/
def execContinue (f ring : Nat) (s : State) : Host.Outcome State Fault Refusal :=
  onUnit (fnOk f ∧ subRingOk ring) s fun s =>
    if s.mayFetch f ring && s.headKind f ring == 2 then s.fetchSub f ring else s

end Sys2Proof.Machine
end

