-- ==== Sys2Proof/Machine/ControlRing.lean ====
section
/-! DEFINITION. Control descriptors but for LOAD, UNLOAD and the weight operations: zips (R234 to R236), CANCEL (R304, R346),
EVICT and RESTORE (R282, R283) and AUTOMATON (R313). -/

namespace Sys2Proof.Machine

/-! ### Zips (R234 to R236, R345, R346) -/

/-- ZIP_OPEN. -/
def State.zipOpen (s : State) (f : Nat) (c : Ctrl) : State :=
  if !descClear c.bs [] then s.control f c 0x40 0 0
  else if (s.openZip f).isSome || decide (64 ≤ s.hostZips) then s.control f c zipBusy 0 0
  else
    let id := s.nextZip
    let s : State := { s with
      zips := s.zips ++ [⟨id, .host f, [], .open_, s.time, false, none, 0, none⟩]
      nextZip := (id + 1) % 65536
      fns := s.fns.map fun e => (e.1, { e.2 with zipsGone := e.2.zipsGone.filter fun x => x.1 ≠ id }) }
    s.control f c 0 id 0

/-- The open zip of a function that a descriptor names, or the code that refuses the name (R234, R325). -/
def State.namedZip (s : State) (f id : Nat) : Except Nat Zip :=
  match (s.openZip f).filter fun z => z.id == id with
  | some z => .ok z
  | none => .error (getK (s.fn f).zipsGone id 0x44)

/-- ZIP_STAGE: entries in the order they lie in host memory; past the 4,096th the zip is marked failed. -/
def State.zipStage (s : State) (f : Nat) (c : Ctrl) : State :=
  let addr := fieldAt c.bs 8 8
  let n := bitsOf (fieldAt c.bs 0x10 4) 12 0
  if !descClear c.bs [(4, 16), (8, 64), (0x10, 13)] || n == 0 || decide (4096 < n) then s.control f c 0x40 0 0
  else if addr % 16 ≠ 0 then s.control f c 0x41 0 0
  else
    match s.namedZip f (fieldAt c.bs 4 2) with
    | .error e => s.control f c e 0 0
    | .ok z =>
      let bs := s.hostRead addr (16 * n)
      let es := (List.range n).map fun i => zipEntryOf ((bs.drop (16 * i)).take 16)
      let all := z.entries ++ es
      let s := s.mapZip z.id fun z => { z with
        entries := all.take 4096, full := z.full || decide (4096 < all.length), touched := s.time }
      s.control f c 0 (min all.length 4096) 0

/-- ZIP_CLOSE: the zip awaits its validation; its record comes with its result. -/
def State.zipClose (s : State) (f : Nat) (c : Ctrl) : State :=
  let id := fieldAt c.bs 4 2
  if !descClear c.bs [(4, 16)] then s.control f c 0x40 0 0
  else
    match s.namedZip f id with
    | .error e => s.control f c e (id + 0xFFFF * 2 ^ 16) (2 ^ 64 - 1)
    | .ok z =>
      -- zips validate and commit in the order of their closes (R235, R237)
      let z' : Zip := { z with phase := .closed, validEnd := s.validAt z.entries.length, close := some (c.idx, c.utag) }
      { s with zips := s.zips.filter (fun x => x.id ≠ z.id) ++ [z'] }

/-- ZIP_OPEN (R234, R345). -/
def execZipOpen (f : Nat) (s : State) : Host.Outcome State Fault Refusal :=
  onUnit (fnOk f) s fun s => s.ctrlRun f 3 fun c s => s.zipOpen f c

/-- ZIP_STAGE (R234, R345, R346). -/
def execZipStage (f : Nat) (s : State) : Host.Outcome State Fault Refusal :=
  onUnit (fnOk f) s fun s => s.ctrlRun f 4 fun c s => s.zipStage f c

/-- ZIP_CLOSE (R235, R345, R346). -/
def execZipClose (f : Nat) (s : State) : Host.Outcome State Fault Refusal :=
  onUnit (fnOk f) s fun s => s.ctrlRun f 5 fun c s => s.zipClose f c

/-- ZIP_VALIDATED (R235): the end of a validation; no later than 64 + (entries) register-clock cycles after the close, and
in the order of the closes. -/
def execZipValidated (id : Nat) (s : State) : Host.Outcome State Fault Refusal :=
  onUnit True s fun s =>
    match (s.zips.filter fun z => z.phase == .closed).head? with
    | some z => if z.id = id then s.validate id else s
    | none => s

/-- ZIP_EXPIRY (R234): an open zip that was left alone for 1 s. -/
def execZipExpiry (id : Nat) (s : State) : Host.Outcome State Fault Refusal :=
  onUnit True s fun s =>
    match s.zips.find? (fun z => z.id == id && z.phase == .open_ && decide (z.touched + secNs ≤ s.time)) with
    | some z => match z.owner with
      | .host f =>
        let s : State := { s with zips := s.zips.filter fun x => x.id ≠ id }
        let s := s.mapFn f fun x => { x with zipsGone := putK x.zipsGone id zipExpired }
        s.raise { code := 0x0305, cls := .note, func := some f, count := z.entries.length, arg0 := id }
      | _ => s
    | none => s

/-! ### CANCEL (R304, R346) -/

/-- Fetches a submission ring until an index is taken, as far as it can be. -/
def State.fetchUpTo (f ring idx : Nat) : Nat → State → State
  | 0, s => s
  | n + 1, s =>
    let r := (s.fn f).ring ring
    if (2 ^ 32 - r.own + idx) % 2 ^ 32 < r.waiting && s.mayFetch f ring then State.fetchUpTo f ring idx n (s.fetchSub f ring)
    else s

def Request.is (r : Request) (f ring idx : Nat) : Bool := r.func == f && r.ring == ring && r.idx == idx

/-- A CANCEL of a descriptor that has been fetched: its status, and the mark that the next release acts on. -/
def State.markCancel (s : State) (f ring idx : Nat) : Nat × State :=
  let live := s.serve.seqs.any fun x => x.req.is f ring idx && !x.state.terminal && x.state != .kept
  let q := s.serve.queued.any fun r => r.is f ring idx
  if live || q then
    (0, { s with serve := { s.serve with
      queued := s.serve.queued.map fun r => if r.is f ring idx then { r with cancelled := true } else r
      seqs := s.serve.seqs.map fun x =>
        if x.req.is f ring idx && x.state != .kept then { x with req := { x.req with cancelled := true } } else x } })
  else if s.serve.ended.contains (f, ring, idx) then (0x46, s)
  else (0x45, s)

/-- CANCEL (R304, R345, R346): it waits while its descriptor cannot be fetched yet. -/
def execCancel (f : Nat) (s : State) : Host.Outcome State Fault Refusal :=
  onUnit (fnOk f) s fun s => s.ctrlPeek f 6 fun c s =>
      let ring := bitsOf (fieldAt c.bs 4 4) 2 0
      let idx := fieldAt c.bs 8 4
      if !descClear c.bs [(4, 3), (8, 32)] || decide (3 < ring) then (s.ctrlNext f).control f c 0x40 0 0
      else if !s.begun then (s.ctrlNext f).control f c 0x47 0 0
      else
        let t := State.fetchUpTo f ring idx 65536 s
        let r := (t.fn f).ring ring
        if (2 ^ 32 - r.own + idx) % 2 ^ 32 < r.waiting then t
        else
          let x := (t.ctrlNext f).markCancel f ring idx
          x.2.control f c x.1 0 0

/-! ### EVICT and RESTORE (R282, R283) -/

/-- Bytes of a page image. -/
def imageBytes : Nat := 32 + frameBytes

/-- The place of a frame in an image's order: GLAYER, GHEAD, LPAGE, SLICE. -/
def imageKey (g : KvGroup) (lpage slice : Nat) : Nat := ((g.glayer * 2 ^ 8 + g.ghead) * 2 ^ 14 + lpage) * 2 + slice

/-- The group that a frame of a core serves, by its binding. -/
def State.groupOfFrame (s : State) (k : Site) (r : FrameRec) : Option KvGroup :=
  ((s.core k).tab.binds.find? fun b => b.lyr * 4 + b.hslot == r.bind).bind fun b => s.groups[b.group]?

/-- The mapped frames of a sequence in the order of their images. -/
def State.imageFrames (s : State) (q : Nat) : List (KvGroup × Site × Nat × FrameRec) :=
  let fs := (s.framesOf q).filterMap fun x => (s.groupOfFrame x.1 x.2.2).map fun g => (g, x)
  sortBy (fun a b => decide (imageKey a.1 a.2.2.2.lpage a.2.2.2.slice < imageKey b.1 b.2.2.2.lpage b.2.2.2.slice)) fs

/-- The low 128 bits of the loaded package's digest. -/
def State.pkgMark (s : State) : Nat := match s.loaded with
  | some l => l.pkg.digest.toNat % 2 ^ 128
  | none => 0

/-- A page image's header. -/
def State.imageHeader (s : State) (g : KvGroup) (lpage slice : Nat) : List Byte :=
  natLe 2 g.glayer ++ natLe 1 g.ghead ++ natLe 1 ((if s.kv4 then 1 else 0) + slice * 2 + (if g.late then 4 else 0)) ++
    natLe 4 lpage ++ natLe 8 0 ++ natLe 16 s.pkgMark

/-- The checks that EVICT and RESTORE share: the sequence, or the code that refuses (R282, R325, R345). -/
def State.pausedSeq (s : State) (f : Nat) (c : Ctrl) : Except Nat Seq :=
  let q := bitsOf (fieldAt c.bs 4 2) 12 0
  if !descClear c.bs [(4, 13), (8, 64), (0x10, 64)] then .error 0x40
  else if fieldAt c.bs 8 8 % 64 ≠ 0 then .error 0x41
  else if !s.begun then .error 0x47
  else match s.seqAt q with
    | none => .error 0x44
    | some x => if x.req.func ≠ f then .error 0x44 else if x.state ≠ .paused ∨ s.rowsFly q then .error 0x53 else .ok x

/-- May one frame of a panel move now, under the KV-page and host-DMA rations? -/
def State.frameMoves (s : State) (p f : Nat) : Bool := s.rationOk p ratKv && s.dmaOk p f

/-- Charges one frame's move. -/
def State.frameCharge (s : State) (p f : Nat) : State := (s.charge p ratKv 1).dmaCharge p f imageBytes

/-- Writes page images from the `i`-th while the rations allow; how many are then written. -/
def State.evictFrom (f addr : Nat) : Nat → List (KvGroup × Site × Nat × FrameRec) → State → Nat × State
  | i, [], s => (i, s)
  | i, x :: rest, s =>
    let k := x.2.1
    if !s.frameMoves k.panel f then (i, s)
    else
      let c := s.core k
      let bs := s.imageHeader x.1 x.2.2.2.lpage x.2.2.2.slice ++ c.rd 1 (c.tab.frameAddr x.2.2.1) frameBytes
      State.evictFrom f addr (i + 1) rest ((s.frameCharge k.panel f).hostWrite f (addr + imageBytes * i) bs)

/-- How far the descriptor at a control ring's head has come. -/
def State.setMoved (s : State) (f n : Nat) : State := s.mapFn f fun x => { x with moved := n }

/-- EVICT's effect: the descriptor stays at the head while frames wait for ration. -/
def State.evict (s : State) (f : Nat) (c : Ctrl) : State :=
  let stop (s : State) (e a b : Nat) : State := ((s.setMoved f 0).ctrlNext f).control f c e a b
  match s.pausedSeq f c with
  | .error e => stop s e 0 0
  | .ok x =>
    let fs := s.imageFrames x.slot
    if fieldAt c.bs 0x10 8 < imageBytes * fs.length then stop s 0x42 0 0
    else
      let m := (s.fn f).moved
      let r := State.evictFrom f (fieldAt c.bs 8 8) m (fs.drop m) s
      if r.1 < fs.length then r.2.setMoved f r.1
      else stop (r.2.freePages x.slot fun _ => true) 0 fs.length (imageBytes * fs.length)

/-- EVICT (R282, R345). -/
def execEvict (f : Nat) (s : State) : Host.Outcome State Fault Refusal :=
  onUnit (fnOk f) s fun s => s.ctrlPeek f 7 fun c s => s.evict f c

/-- One page image read back: its group, logical page, slice and frame bytes. -/
structure PageImage where
  key : Nat
  group : Nat
  lpage : Nat
  slice : Nat
  bytes : List Byte
  deriving Repr

/-- The frame offsets of the sidecar scales of the positions below `n` of a page, for blocks that a head uses (R257,
R259). -/
def sidecarOffsets (kv4 : Bool) (hd n : Nat) : List Nat :=
  let dims := if hd = 0 then 64 else 128
  let blocks := if kv4 then 4 else 2
  let usedB := dims / (if kv4 then 32 else 64)
  (List.range n).flatMap fun t => (List.range usedB).flatMap fun b =>
    [16384 + blocks * t + b, 16384 + 128 * blocks / (if kv4 then 1 else 2) + blocks * t + b]

/-- Reads one image, or the code that refuses it (R283): `len` is the sequence's length. -/
def State.readImage (s : State) (bs : List Byte) (len : Nat) : Except Nat PageImage :=
  let gl := fieldAt bs 0 2
  let gh := fieldAt bs 2 1
  let fl := fieldAt bs 3 1
  let w := fieldAt bs 4 4
  let lpage := bitsOf w 13 0
  let slice := bitsOf fl 1 1
  let body := bs.drop 32
  if fieldAt bs 0x10 16 ≠ s.pkgMark then .error 0x50
  else if fl / 8 ≠ 0 ∨ w / 2 ^ 14 ≠ 0 ∨ fieldAt bs 8 8 ≠ 0 then .error 0x51
  else
    match s.groups.zipIdx.find? (fun g => g.1.glayer == gl && g.1.ghead == gh) with
    | none => .error 0x51
    | some (g, i) =>
      let n := min (pagePos s.kv4) (len - pagePos s.kv4 * lpage)
      if bitOf fl 0 != s.kv4 || bitOf fl 2 != g.late || decide (g.slices ≤ slice) ||
          (sidecarOffsets s.kv4 g.hd n).any fun o => !kvLegal (body.getD o 0#8) then .error 0x51
      else .ok ⟨imageKey g lpage slice, i, lpage, slice, body⟩

/-- Keys that rise strictly. -/
def rising : List Nat → Bool
  | a :: b :: r => decide (a < b) && rising (b :: r)
  | _ => true

/-- The images of a RESTORE, or the code that refuses them: every group holds the same pages, from page 0 on and at least
as many as the length needs, each whole (R283; notes/assumptions/43). -/
def State.readImages (s : State) (x : Seq) (addr size : Nat) : Except Nat (List PageImage) :=
  let raw := (List.range (size / imageBytes)).map fun i => s.readImage (s.hostRead (addr + imageBytes * i) imageBytes) x.len
  match (raw.filterMap errOf).head? with
  | some e => if raw.any (fun r => errOf r == some 0x50) then .error 0x50 else .error e
  | none =>
    let is := raw.filterMap fun r => match r with
      | .ok i => some i
      | .error _ => none
    let pages := (is.map (·.lpage)).eraseDups.length
    let whole := s.groups.zipIdx.all fun g => (List.range pages).all fun p => (List.range g.1.slices).all fun sl =>
      is.any fun i => i.group == g.2 && i.lpage == p && i.slice == sl
    if !rising (is.map (·.key)) || !whole || decide (pages < ceilDiv x.len (pagePos s.kv4)) then .error 0x51 else .ok is

/-- Maps every page of a restored sequence, or none (R268, R283). -/
def State.mapAll (s : State) (x : Seq) (pages : Nat) : Option State :=
  let r := (List.range pages).foldl (fun (acc : State × Bool) p =>
    if !acc.2 || s.pageMapped x.slot x.base p || decide (s.pageLimit ≤ p) then (acc.1, false)
    else
      let m := acc.1.mapPage x.slot x.base p
      (m.1, m.2 == ⟨0, 0⟩)) (s, true)
  if r.2 && decide (r.1.framesUsed x.req.func ≤ (s.fn x.req.func).kvQuota) then some r.1 else none

/-- The frame an image goes to. -/
def State.imageFrame (s : State) (x : Seq) (i : PageImage) : Option (Site × Nat) :=
  (s.groups[i.group]?).bind fun g => (s.member g i.lpage x.base).bind fun k =>
    (((s.core k).chain x.slot (s.bindOf k i.group)).find? fun f =>
      ((s.core k).frameRec f).lpage == i.lpage && ((s.core k).frameRec f).slice == i.slice).map fun f => (k, f)

/-- Writes images into their frames from the `i`-th while the rations allow; whole-frame guard updates go with the
writes (R274, R282). -/
def State.restoreFrom (f : Nat) (x : Seq) : Nat → List PageImage → State → Nat × State
  | i, [], s => (i, s)
  | i, p :: rest, s =>
    match s.imageFrame x p with
    | none => State.restoreFrom f x (i + 1) rest s
    | some (k, fr) =>
      if !s.frameMoves k.panel f then (i, s)
      else State.restoreFrom f x (i + 1) rest ((s.frameCharge k.panel f).putBytes k 1 ((s.core k).tab.frameAddr fr) p.bytes)

/-- RESTORE's effect: pages are mapped with the first frame that moves; the descriptor stays at the head until every
frame is restored. -/
def State.restoreSeq (s : State) (f : Nat) (c : Ctrl) : State :=
  let stop (s : State) (e a b : Nat) : State := ((s.setMoved f 0).ctrlNext f).control f c e a b
  match s.pausedSeq f c with
  | .error e => stop s e 0 0
  | .ok x =>
    match s.readImages x (fieldAt c.bs 8 8) (fieldAt c.bs 0x10 8) with
    | .error e => stop s e 0 0
    | .ok is =>
      let m := (s.fn f).moved
      let mapped := if m = 0 then s.mapAll x ((is.map (·.lpage)).eraseDups.length) else some s
      match mapped with
      | none => stop s 0x52 0 0
      | some t =>
        let r := State.restoreFrom f x m (is.drop m) t
        if r.1 = is.length then stop r.2 0 is.length 0
        else if r.1 = 0 then s
        else r.2.setMoved f r.1

/-- RESTORE (R282, R283, R345). -/
def execRestore (f : Nat) (s : State) : Host.Outcome State Fault Refusal :=
  onUnit (fnOk f) s fun s => s.ctrlPeek f 8 fun c s => s.restoreSeq f c

/-! ### AUTOMATON (R313) -/

def stateOf (v : Nat) : Nat × Nat × Bool × Nat := (bitsOf v 21 0, bitsOf v 38 22, bitOf v 39, bitsOf v 63 40)
def edgeOf (v : Nat) : Nat × Nat × Nat := (bitsOf v 23 0, bitsOf v 47 24, bitsOf v 63 48)

/-- Sorted by ascending LO without overlap, each within the vocabulary and leading to a state. -/
def edgesOk (vocab nstate : Nat) : List (Nat × Nat × Nat) → Bool
  | [] => true
  | e :: r => decide (e.1 ≤ e.2.1) && decide (e.2.1 < vocab) && decide (e.2.2 < nstate) &&
      (match r with
        | [] => true
        | g :: _ => decide (e.2.1 < g.1)) && edgesOk vocab nstate r

/-- An automaton image's records, if the image keeps R313. -/
def readAutomaton (bs : List Byte) (vocab : Nat) : Option Automaton :=
  let ns := bitsOf (fieldAt bs 0 4) 16 0
  let ne := fieldAt bs 4 4
  if bs.length < 16 ∨ fieldAt bs 0 4 / 2 ^ 17 ≠ 0 ∨ fieldAt bs 8 8 ≠ 0 ∨ ns = 0 ∨ 65536 < ns ∨ bs.length ≠ 16 + 8 * (ns + ne) then none
  else
    let states := (List.range ns).map fun i => stateOf (fieldAt bs (16 + 8 * i) 8)
    let edges := (List.range ne).map fun i => edgeOf (fieldAt bs (16 + 8 * (ns + i)) 8)
    if states.all fun st => decide (st.2.1 ≤ 65536) && decide (st.1 + st.2.1 ≤ ne) && edgesOk vocab ns ((edges.drop st.1).take st.2.1)
    then some ⟨states, edges⟩ else none

def Automaton.records (a : Automaton) : Nat := a.states.length + a.edges.length

/-- AUTOMATON's effect. -/
def State.loadAutomaton (s : State) (f : Nat) (c : Ctrl) : State :=
  let slot := bitsOf (fieldAt c.bs 4 1) 5 0
  let addr := fieldAt c.bs 8 8
  let size := fieldAt c.bs 0x10 8
  if !descClear c.bs [(4, 6), (8, 64), (0x10, 64)] then s.control f c 0x40 0 0
  else if addr % 8 ≠ 0 then s.control f c 0x41 0 0
  else if !(s.fn f).autos.getLsbD slot then s.control f c 0x44 0 0
  else
    match s.serving with
    | none => s.control f c 0x47 0 0
    | some sv =>
      if s.serve.seqs.any fun x => x.req.samp.autoEn && x.req.samp.auto == slot && !x.state.terminal && x.state != .kept then
        s.control f c 0x55 0 0
      else
        let others := s.serve.autos.filter fun a => a.1 ≠ slot
        let used := (others.map fun a => a.2.records).sum
        -- an image of more records than the slots may hold is refused before it is read
        match (if size ≤ 16 + 8 * 4194304 then readAutomaton (s.hostRead addr size) sv.vocab else none) with
        | none => s.control f c 0x54 0 0
        | some a =>
          if 4194304 < used + a.records then s.control f c 0x54 0 0
          else ({ s with serve := { s.serve with autos := others ++ [(slot, a)] } } : State).control f c 0 0 0

/-- AUTOMATON (R313, R345). -/
def execAutomaton (f : Nat) (s : State) : Host.Outcome State Fault Refusal :=
  onUnit (fnOk f) s fun s => s.ctrlRun f 9 fun c s => s.loadAutomaton f c

end Sys2Proof.Machine
end

