-- ==== Sys2Proof/Machine/CoreInstr.lean ====
section
/-! DEFINITION. The commands of a core: an instruction reaching its front end, one meaning per mnemonic, and the events
TILE_ARRIVAL, ARRAY_IDLE, MESSAGE_LANDED, DUP_CHECK, GUARD_UPDATE and GUARD_CLOSE_MARKER. -/

namespace Sys2Proof.Machine

/-! ### Instructions -/

/-- ALOAD (R143 to R146): the word reaches the core's front end. -/
def execAload (k : Site) (w : BitVec 56) (s : State) : Host.Outcome State Fault Refusal :=
  onUnit k.ok s fun s => s.fetched k .aload w

/-- ASTRM (R147 to R149): the word reaches the core's front end. -/
def execAstrm (k : Site) (w : BitVec 56) (s : State) : Host.Outcome State Fault Refusal :=
  onUnit k.ok s fun s => s.fetched k .astrm w

/-- ASTRC (R150, R151): the word reaches the core's front end. -/
def execAstrc (k : Site) (w : BitVec 56) (s : State) : Host.Outcome State Fault Refusal :=
  onUnit k.ok s fun s => s.fetched k .astrc w

/-- ADRAIN (R152): the word reaches the core's front end. -/
def execAdrain (k : Site) (w : BitVec 56) (s : State) : Host.Outcome State Fault Refusal :=
  onUnit k.ok s fun s => s.fetched k .adrain w

/-- VADD (R162): the word reaches the core's front end. -/
def execVadd (k : Site) (w : BitVec 56) (s : State) : Host.Outcome State Fault Refusal :=
  onUnit k.ok s fun s => s.fetched k .vadd w

/-- VSUB (R162): the word reaches the core's front end. -/
def execVsub (k : Site) (w : BitVec 56) (s : State) : Host.Outcome State Fault Refusal :=
  onUnit k.ok s fun s => s.fetched k .vsub w

/-- VMUL (R162): the word reaches the core's front end. -/
def execVmul (k : Site) (w : BitVec 56) (s : State) : Host.Outcome State Fault Refusal :=
  onUnit k.ok s fun s => s.fetched k .vmul w

/-- VFMA (R162): the word reaches the core's front end. -/
def execVfma (k : Site) (w : BitVec 56) (s : State) : Host.Outcome State Fault Refusal :=
  onUnit k.ok s fun s => s.fetched k .vfma w

/-- VMAX (R163): the word reaches the core's front end. -/
def execVmax (k : Site) (w : BitVec 56) (s : State) : Host.Outcome State Fault Refusal :=
  onUnit k.ok s fun s => s.fetched k .vmax w

/-- VMIN (R163): the word reaches the core's front end. -/
def execVmin (k : Site) (w : BitVec 56) (s : State) : Host.Outcome State Fault Refusal :=
  onUnit k.ok s fun s => s.fetched k .vmin w

/-- VUNA (R162): the word reaches the core's front end. -/
def execVuna (k : Site) (w : BitVec 56) (s : State) : Host.Outcome State Fault Refusal :=
  onUnit k.ok s fun s => s.fetched k .vuna w

/-- VCMP (R163): the word reaches the core's front end. -/
def execVcmp (k : Site) (w : BitVec 56) (s : State) : Host.Outcome State Fault Refusal :=
  onUnit k.ok s fun s => s.fetched k .vcmp w

/-- VSEL (R162): the word reaches the core's front end. -/
def execVsel (k : Site) (w : BitVec 56) (s : State) : Host.Outcome State Fault Refusal :=
  onUnit k.ok s fun s => s.fetched k .vsel w

/-- VBCST (R164): the word reaches the core's front end. -/
def execVbcst (k : Site) (w : BitVec 56) (s : State) : Host.Outcome State Fault Refusal :=
  onUnit k.ok s fun s => s.fetched k .vbcst w

/-- VRED (R165): the word reaches the core's front end. -/
def execVred (k : Site) (w : BitVec 56) (s : State) : Host.Outcome State Fault Refusal :=
  onUnit k.ok s fun s => s.fetched k .vred w

/-- VCVT (R166): the word reaches the core's front end. -/
def execVcvt (k : Site) (w : BitVec 56) (s : State) : Host.Outcome State Fault Refusal :=
  onUnit k.ok s fun s => s.fetched k .vcvt w

/-- VEXP2 (R167): the word reaches the core's front end. -/
def execVexp2 (k : Site) (w : BitVec 56) (s : State) : Host.Outcome State Fault Refusal :=
  onUnit k.ok s fun s => s.fetched k .vexp2 w

/-- VRCP (R167): the word reaches the core's front end. -/
def execVrcp (k : Site) (w : BitVec 56) (s : State) : Host.Outcome State Fault Refusal :=
  onUnit k.ok s fun s => s.fetched k .vrcp w

/-- VRSQ (R167): the word reaches the core's front end. -/
def execVrsq (k : Site) (w : BitVec 56) (s : State) : Host.Outcome State Fault Refusal :=
  onUnit k.ok s fun s => s.fetched k .vrsq w

/-- VLOG2 (R167): the word reaches the core's front end. -/
def execVlog2 (k : Site) (w : BitVec 56) (s : State) : Host.Outcome State Fault Refusal :=
  onUnit k.ok s fun s => s.fetched k .vlog2 w

/-- VLD (R168): the word reaches the core's front end. -/
def execVld (k : Site) (w : BitVec 56) (s : State) : Host.Outcome State Fault Refusal :=
  onUnit k.ok s fun s => s.fetched k .vld w

/-- VST (R168): the word reaches the core's front end. -/
def execVst (k : Site) (w : BitVec 56) (s : State) : Host.Outcome State Fault Refusal :=
  onUnit k.ok s fun s => s.fetched k .vst w

/-- VQNT (R169, R117 to R122): the word reaches the core's front end. -/
def execVqnt (k : Site) (w : BitVec 56) (s : State) : Host.Outcome State Fault Refusal :=
  onUnit k.ok s fun s => s.fetched k .vqnt w

/-- VDEQ (R170): the word reaches the core's front end. -/
def execVdeq (k : Site) (w : BitVec 56) (s : State) : Host.Outcome State Fault Refusal :=
  onUnit k.ok s fun s => s.fetched k .vdeq w

/-- VSPLT (R171): the word reaches the core's front end. -/
def execVsplt (k : Site) (w : BitVec 56) (s : State) : Host.Outcome State Fault Refusal :=
  onUnit k.ok s fun s => s.fetched k .vsplt w

/-- VROT (R172): the word reaches the core's front end. -/
def execVrot (k : Site) (w : BitVec 56) (s : State) : Host.Outcome State Fault Refusal :=
  onUnit k.ok s fun s => s.fetched k .vrot w

/-- VROPE (R173): the word reaches the core's front end. -/
def execVrope (k : Site) (w : BitVec 56) (s : State) : Host.Outcome State Fault Refusal :=
  onUnit k.ok s fun s => s.fetched k .vrope w

/-- XMOV (R177, R178): the word reaches the core's front end. -/
def execXmov (k : Site) (w : BitVec 56) (s : State) : Host.Outcome State Fault Refusal :=
  onUnit k.ok s fun s => s.fetched k .xmov w

/-- XTW (R179): the word reaches the core's front end. -/
def execXtw (k : Site) (w : BitVec 56) (s : State) : Host.Outcome State Fault Refusal :=
  onUnit k.ok s fun s => s.fetched k .xtw w

/-- XFILL (R177, R178): the word reaches the core's front end. -/
def execXfill (k : Site) (w : BitVec 56) (s : State) : Host.Outcome State Fault Refusal :=
  onUnit k.ok s fun s => s.fetched k .xfill w

/-- FSEND (R181, R182): the word reaches the core's front end. -/
def execFsend (k : Site) (w : BitVec 56) (s : State) : Host.Outcome State Fault Refusal :=
  onUnit k.ok s fun s => s.fetched k .fsend w

/-- FRECV (R186 to R189): the word reaches the core's front end. -/
def execFrecv (k : Site) (w : BitVec 56) (s : State) : Host.Outcome State Fault Refusal :=
  onUnit k.ok s fun s => s.fetched k .frecv w

/-- FRED (R183): the word reaches the core's front end. -/
def execFred (k : Site) (w : BitVec 56) (s : State) : Host.Outcome State Fault Refusal :=
  onUnit k.ok s fun s => s.fetched k .fred w

/-- FMRG (R184): the word reaches the core's front end. -/
def execFmrg (k : Site) (w : BitVec 56) (s : State) : Host.Outcome State Fault Refusal :=
  onUnit k.ok s fun s => s.fetched k .fmrg w

/-- ATTEND (R191 to R194): the word reaches the core's front end. -/
def execAttend (k : Site) (w : BitVec 56) (s : State) : Host.Outcome State Fault Refusal :=
  onUnit k.ok s fun s => s.fetched k .attend w

/-- GATE (R196 to R198): the word reaches the core's front end. -/
def execGate (k : Site) (w : BitVec 56) (s : State) : Host.Outcome State Fault Refusal :=
  onUnit k.ok s fun s => s.fetched k .gate w

/-- SAMPLE-FEED (R199, R200): the word reaches the core's front end. -/
def execSampleFeed (k : Site) (w : BitVec 56) (s : State) : Host.Outcome State Fault Refusal :=
  onUnit k.ok s fun s => s.fetched k .sampleFeed w

/-- SETI (R201): the word reaches the core's front end. -/
def execSeti (k : Site) (w : BitVec 56) (s : State) : Host.Outcome State Fault Refusal :=
  onUnit k.ok s fun s => s.fetched k .seti w

/-- SOP (R202): the word reaches the core's front end. -/
def execSop (k : Site) (w : BitVec 56) (s : State) : Host.Outcome State Fault Refusal :=
  onUnit k.ok s fun s => s.fetched k .sop w

/-- LOOP (R203): the word reaches the core's front end. -/
def execLoop (k : Site) (w : BitVec 56) (s : State) : Host.Outcome State Fault Refusal :=
  onUnit k.ok s fun s => s.fetched k .loop w

/-- TOK (R204): the word reaches the core's front end. -/
def execTok (k : Site) (w : BitVec 56) (s : State) : Host.Outcome State Fault Refusal :=
  onUnit k.ok s fun s => s.fetched k .tok w

/-- TPARM (R205): the word reaches the core's front end. -/
def execTparm (k : Site) (w : BitVec 56) (s : State) : Host.Outcome State Fault Refusal :=
  onUnit k.ok s fun s => s.fetched k .tparm w

/-- BARR (R206): the word reaches the core's front end. -/
def execBarr (k : Site) (w : BitVec 56) (s : State) : Host.Outcome State Fault Refusal :=
  onUnit k.ok s fun s => s.fetched k .barr w

/-- STEP (R207, R458): the word reaches the core's front end. -/
def execStep (k : Site) (w : BitVec 56) (s : State) : Host.Outcome State Fault Refusal :=
  onUnit k.ok s fun s => s.fetched k .step w

/-- DTAG (R209, R210): the word reaches the core's front end. -/
def execDtag (k : Site) (w : BitVec 56) (s : State) : Host.Outcome State Fault Refusal :=
  onUnit k.ok s fun s => s.fetched k .dtag w

/-- DTRACE (R209): the word reaches the core's front end. -/
def execDtrace (k : Site) (w : BitVec 56) (s : State) : Host.Outcome State Fault Refusal :=
  onUnit k.ok s fun s => s.fetched k .dtrace w

/-- DBRK (R209, R520): the word reaches the core's front end. -/
def execDbrk (k : Site) (w : BitVec 56) (s : State) : Host.Outcome State Fault Refusal :=
  onUnit k.ok s fun s => s.fetched k .dbrk w

/-! ### Events of a core -/

/-- All words of the tile in flight have arrived (R143, R146); a word that fails parity is a detected error (R73). -/
def State.tileArrival (s : State) (k : Site) : State :=
  if !s.coreRuns k then s
  else
    let c := s.core k
    match c.inflight with
    | none => s
    | some fl =>
      if fl.tile.isSome then s
      else
        match (if c.rep.lossMode then none else c.badIn 1 fl.addr fl.mode.sourceBytes) with
        | none => (s.tileArrives k).pumpCore k
        | some a =>
          let code := a + 2 ^ 24
          if c.mayReplay fl.entry.idx 0x0202 code then s.detectReplay k Core.reload fl.entry.idx 0x0202 code code
          else
            let again := c.rep.lastError == some (fl.entry.idx, 0x0202, code)
            let s := s.loseStep k fl.entry.idx 0x0202
            let s := if again then s.parityLost k 0x0202 code else s
            (s.tileArrives k).pumpCore k

/-- TILE_ARRIVAL (R143). -/
def execTileArrival (k : Site) (s : State) : Host.Outcome State Fault Refusal :=
  onUnit k.ok s fun s => s.tileArrival k

/-- ARRAY_IDLE (R90, R423): the array ramps down to the panel's ballast columns. -/
def execArrayIdle (k : Site) (s : State) : Host.Outcome State Fault Refusal :=
  onUnit k.ok s fun s =>
    if s.coreRuns k then s.mapCore k fun c => { c with cols := (s.panel k.panel).ballast } else s

/-- A core whose reduction root got flits tries its queues: an FRECV may wait for them (R189). -/
def State.rootWake (s0 s : State) (k : Site) : State :=
  if (s.core k).rootIn.length ≠ (s0.core k).rootIn.length ∧ s.coreRuns k then s.pumpCore k else s

/-- ROUTER_FLIT_ARRIVAL (R36, R37, R40, R42 to R49, R53, R59). -/
def execRouterFlitArrival (k : Site) (p : Port) (f : Flit) (sb : Sideband) (s : State) :
    Host.Outcome State Fault Refusal :=
  onUnit k.ok s fun s => s.rootWake (s.flitArrival k p f sb) k

/-- REDUCE_COMBINE (R59 to R62). -/
def execReduceCombine (k : Site) (tree : Nat) (s : State) : Host.Outcome State Fault Refusal :=
  onUnit k.ok s fun s => s.rootWake (s.reduceCombine k tree) k

/-- MESSAGE_LANDED (R126, R185, R186). -/
def execMessageLanded (k : Site) (s : State) : Host.Outcome State Fault Refusal :=
  onUnit k.ok s fun s => if s.coreRuns k then (s.takeLanded k 5).pumpCore k else s

/-- A sampled operation whose recomputed result differs (R474). -/
def State.dupMismatch (s : State) (k : Site) (m : DupMsg) : State :=
  let s := s.raise { code := 0x0A04, cls := .contained, kind := 0, loc := s.coreLoc m.src, iidx := some m.entry.idx
                     arg0 := s.coreLoc k }
  let s := s.markLost m.cohort m.entry.idx 0x0A04 (s.coreLoc m.src)
  (s.observe m.src false 0).observe k false 0

/-- DUP_CHECK (R472, R474): the buddy recomputes the oldest sampled operation when its vector queue is free. -/
def execDupCheck (k : Site) (s : State) : Host.Outcome State Fault Refusal :=
  onUnit k.ok s fun s =>
    let c := s.core k
    match c.dupIn with
    | [] => s
    | m :: r =>
      if !s.coreRuns k || !c.vq.isEmpty then s
      else
        let s := s.setCore k { c with dupIn := r }
        let x := m.recompute
        if x.1 == m.results && x.2 == m.resultP then s else s.dupMismatch k m

/-- GUARD_UPDATE (R274): the update is XORed into the parity frame. -/
def execGuardUpdate (k src : Site) (frame off : Nat) (delta : List Byte) (tick : Nat) (s : State) :
    Host.Outcome State Fault Refusal :=
  onUnit (k.ok ∧ src.ok) s fun s =>
    let c := s.core k
    let s : State := { s with transit := { s.transit with guards := s.transit.guards.erase ⟨k, src, frame, off, delta, tick⟩ } }
    if c.tab.frames ≤ frame ∨ frameBytes < off + delta.length then s
    else
      let a := c.tab.frameAddr frame + off
      s.setCore k (c.wrRaw 1 a (xorBytes (c.rd 1 a delta.length) delta))

/-- GUARD_CLOSE_MARKER (R274): the last closed tick of the source core's frames, per parity frame. -/
def execGuardCloseMarker (k src : Site) (tick : Nat) (s : State) : Host.Outcome State Fault Refusal :=
  onUnit (k.ok ∧ src.ok) s fun s =>
    let c := s.core k
    let s : State := { s with transit := { s.transit with closes := s.transit.closes.erase ⟨k, src, tick⟩ } }
    let fs := s.guardMap.filterMap fun g => match g with
      | p :: r => if p.1 = k ∧ r.any (fun x => x.1 == src) then some p.2 else none
      | [] => none
    let old := c.guardTicks.filter fun x => ¬ (x.2.1 = src ∧ x.1 ∈ fs)
    s.setCore k { c with guardTicks := old ++ fs.map fun f => (f, src, tick) }

end Sys2Proof.Machine
end

