-- ==== Sys2Proof/Machine/Repair.lean ====
section
/-! DEFINITION. Repair (R50, R229, R276 to R278, R483 to R493): routers and cores that die, the flush, the shift of a
panel row, the refill of a dead core's new home, probes, neighbour tests and the operator's darning. -/

namespace Sys2Proof.Machine

/-! ### Guard faults (R529) -/

/-- A guard fault at a register's offset: counted, GUARDF set, reported at most once per second. -/
def State.guardFault (s : State) (writer : Option Nat) (off : Nat) : State :=
  let times := (s.regs.guardTimes.filter fun t => s.time < t + secNs) ++ [s.time]
  let due := match s.errors.rate.find? (fun r => r.1 = (0x0306, 0)) with
    | some (_, t) => decide (t + secNs ≤ s.time)
    | none => true
  let seq := if due then s.errors.nextSeq else s.regs.modSeq
  let s : State := { s with regs := { s.regs with
    guardCount := min (s.regs.guardCount + 1) 0xFFFFFFFF, guardTimes := times
    modSticky := s.regs.modSticky ||| 0b001#3, modSeq := seq } }
  s.raiseEvery secNs (0x0306, 0) { code := 0x0306, cls := .note, func := writer, count := times.length, arg0 := off }

/-! ### The identity key (R503 to R505) -/

/-- Signatures of the identity tree. -/
def keyTotal : Nat := 1048576

/-- A signature with the identity key: its index; none where the controller, the key or its indices are not available.
The last 16 indices are kept for rotation; flash reserves indices in steps of 64 before they are used. -/
def State.signNext (s : State) (rotate : Bool) : Option (Nat × State) :=
  let q := s.flash.keyIndex
  if !s.mgmt.running || !s.mgmt.pufOk || decide (keyTotal - (if rotate then 0 else 16) ≤ q) then none
  else
    let left := keyTotal - 1 - q
    let s : State := { s with flash := { s.flash with
      keyIndex := q + 1, reservation := if q < s.flash.reservation then s.flash.reservation else (q / 64 + 1) * 64 } }
    some (q, if left ≤ 104857 ∧ (104857 - left) % 10000 = 0 then
      s.raise { code := 0x0B06, cls := .degraded, kind := 12, loc := mgmtLoc, count := left } else s)

/-- The repair map in force written to flash, signed; it waits while the controller does not run (R486, R495, R519). -/
def State.storeMap (s : State) : State :=
  if !s.mgmt.running then { s with mgmt := { s.mgmt with mapDue := true } }
  else match s.signNext false with
    | some (_, s) => { s with flash := { s.flash with repairMap := some s.errors.skipped, repairSig := true } }
    | none => { s with flash := { s.flash with repairMap := some s.errors.skipped, repairSig := false } }

/-! ### The flush (R468, R469, R488) -/

/-- A core stopped and cleared at its barrier: no instruction, landing buffer or posted receive is left. -/
def Core.flush (c : Core) : Core :=
  { c with stream := [], aq := [], vq := [], tq := [], heldSignals := [], inflight := none, loops := [], posted := []
           landing := [], rootIn := [], dupIn := [], atBarrier := true }

/-- Cohorts that some stage still processes. -/
def State.inFlight (s : State) : List Cohort := s.serve.cohorts.filter fun c => s.tick.n < c.n + s.stageCount

/-- Every core stops at its barrier, every cohort in flight is lost, and tokens and lists of the tick are discarded. -/
def State.flush (s : State) (loc : Nat) : State :=
  let s := s.inFlight.foldl (fun s c => s.markLost c.n 0xFFFFFFFF 0x0A0A loc) s
  let done := s.tick.stageDone ++ ((List.range s.stageCount).filter fun g => !s.tick.stageDone.any (·.1 == g)).map
    fun g => (g, s.time, panelAt 0 0 0)
  { s with
    cores := s.cores.map fun e => if e.2.tab.assign.isSome then (e.1, e.2.flush) else e
    routers := s.routers.map fun e => (e.1, { e.2 with inq := [] })
    transit := { s.transit with wires := [], lists := [] }
    serve := { s.serve with
      cohorts := s.serve.cohorts.map fun c => { c with lost := true }
      built := s.serve.built.map fun c => { c with rows := [] }
      drawn := []
      lanterns := s.serve.lanterns.map fun l => { l with accepting := l.accepting.map fun c => { c with lists := [] } } }
    tick := { s.tick with stageDone := done } }

/-- A core no longer answers (R488): the hold of reason 2, CORE_DEAD, the flush. -/
def State.coreDies (s : State) (k : Site) : State :=
  if s.errors.deadCores.contains k || (s.core k).tab.assign.isNone then s
  else
    let loc := s.coreLoc k
    let n := (s.inFlight.filter fun c => !c.lost).length
    let s := s.placeHold 2
    let s : State := { s with errors := { s.errors with deadCores := s.errors.deadCores ++ [k] } }
    let s := s.raise { code := 0x0A0A, cls := .degraded, kind := 0, loc := loc, count := n }
    let first := !s.allDone
    let s := (s.flush loc).mapCore k fun c => { c with halted := true }
    if first then s.markDone else s

/-! ### Routers (R47 to R50) -/

/-- Ends every handling period of a code. -/
def State.endCode (s : State) (code : Nat) : State :=
  { s with errors := { s.errors with handling := s.errors.handling.filter fun h => h.code ≠ code } }

/-- A router dies in service: the hold of reason 5 while routes change, ROUTER_DEAD, and the core behind it is darned. -/
def State.routerDies (s : State) (k : Site) : State :=
  let was := (s.panel k.panel).fenced
  let s := s.placeHold 5
  let s : State := { s with errors := { s.errors with dying := s.errors.dying.filter (· ≠ k) } }
  let s := s.killRouter k
  let fenced := (s.panel k.panel).fenced && !was
  let whole := (List.range 96).all fun i => (s.panel (canopyOf k.panel * 96 + i)).fenced
  let s := s.raise { code := 0x0107, cls := .degraded, kind := 1, loc := physLoc k
                     arg0 := (if fenced then 1 else 0) + if fenced && whole then 2 else 0 }
  let s := match s.loaded with
    | some l => s.writeRoutes l.pkg s.assigned
    | none => s
  let s := if fenced then
      { s with cores := s.cores.map fun e => if (s.panel e.1.panel).fenced then (e.1, { e.2 with halted := true }) else e }
    else s.coreDies k
  (s.liftHold 5).endHandling 0x0107 (unitOf 1 (physLoc k))

/-- Routers declared dead by their observation follow (R485). -/
def State.settleDying (s : State) : State := s.errors.dying.foldl (fun s k => s.routerDies k) s

/-- ROUTER_DEATH_DETECT (R50). -/
def execRouterDeathDetect (k : Site) (s : State) : Host.Outcome State Fault Refusal :=
  onUnit k.ok s fun s => if s.routerRuns k || s.errors.dying.contains k then s.routerDies k else s

/-! ### The barrier deadline (R229) -/

/-- The deadline's allowance, and the interval between probes. -/
def probeNs (t : Nat) : Nat := max (t / 8) 2000

/-- When the next probe is due. -/
def State.probeAt (s : State) (t : Nat) : Nat :=
  s.tick.start + t + probeNs t + 2000 + s.tick.probes * probeNs t + s.tick.deadlineShift

/-- Has every core of a region signalled? -/
def State.regionDone (s : State) (region : Nat) : Bool :=
  s.cores.all fun e => match e.2.tab.assign with
    | some a => a.region != region || e.2.atBarrier
    | none => true

/-- The cores a probe reads: active ones of regions that have not signalled, in panels that are neither dark nor
fenced. -/
def State.probed (s : State) : List (Site × Assign) :=
  s.assigned.filter fun x => !s.regionDone x.2.region && !(s.panel x.1.panel).wentDark && !(s.panel x.1.panel).fenced &&
    !s.errors.deadCores.contains x.1

/-- The index of a core's oldest instruction that has not completed. -/
def Core.oldest (c : Core) : Nat :=
  match c.aq ++ c.vq ++ c.tq with
  | [] => c.idx
  | e :: r => r.foldl (fun m x => min m x.idx) e.idx

/-- A core that answers without progress: its stage stops, and a core that has not reported a stop of its own is
reported. -/
def State.stall (s : State) (k : Site) (a : Assign) : State :=
  let c := s.core k
  let s := s.stopStage a.stage
  if c.stopped.isEmpty then
    s.raise { code := 0x0302, cls := .contained, kind := 0, loc := s.coreLoc k, iidx := some c.oldest, arg0 := a.stage }
  else s

/-- DEADLINE_PROBE's effect: silent cores are dead, cores whose issue count stands still between two probes stall. A core
that has signalled waits for its release and stalls nothing (notes/assumptions/45). -/
def State.deadlineProbe (s : State) (silent : List Site) : State :=
  match s.loaded with
  | none => s
  | some l =>
    if !s.tick.running || s.clocksStopped || s.time < s.probeAt l.t || s.probed.isEmpty then s
    else
      let ps := s.probed
      let dead := ps.filter fun x => silent.contains x.1
      let live := ps.filter fun x => !silent.contains x.1 && !(s.core x.1).atBarrier
      let stuck := live.filter fun x =>
        (s.core x.1).lastProbe == some (s.core x.1).issued && !s.tick.stalledStages.contains x.2.stage
      let s : State := { s with tick := { s.tick with probes := s.tick.probes + 1 } }
      let s := live.foldl (fun s x => s.mapCore x.1 fun c => { c with lastProbe := some c.issued }) s
      if !dead.isEmpty then dead.foldl (fun s x => s.coreDies x.1) s
      else stuck.foldl (fun s x => s.stall x.1 x.2) s

/-- DEADLINE_PROBE (R229). -/
def execDeadlineProbe (silent : List Site) (s : State) : Host.Outcome State Fault Refusal :=
  onUnit True s fun s => s.deadlineProbe silent

/-! ### The shift of a row (R486 to R488) -/

/-- Where the logical cores of a row go when more of its sites are skipped; none where the row has no spare (R490). -/
def State.rowMoves (s : State) (p row : Nat) (bad : List Site) : Option (List (Site × Site)) :=
  let t : State := { s with errors := { s.errors with skipped := s.errors.skipped ++ bad } }
  let new := t.rowSites p row
  if new.isEmpty then none
  else some (((s.rowSites p row).zip new).filterMap fun x =>
    if x.1 = x.2 then none else some ((⟨p, x.1, row⟩ : Site), (⟨p, x.2, row⟩ : Site)))

/-- The site that a move takes a site to. -/
def moved (ms : List (Site × Site)) (k : Site) : Site := getK ms k k

/-- A core whose state has left: its stores keep their bytes, it runs nothing. -/
def Core.vacate (c : Core) : Core :=
  { act := c.act, wgt := c.wgt, psum := c.psum, inst := c.inst, badParity := c.badParity }

/-- Every reference to a moved core names its new site; the cores themselves change places. -/
def State.moveCores (s : State) (ms : List (Site × Site)) : State :=
  let r := moved ms
  let froms := ms.map (·.1)
  let tos := ms.map (·.2)
  let stay := s.cores.filter fun e => !froms.contains e.1 && !tos.contains e.1
  let gone := froms.filter fun k => !tos.contains k
  let cores := stay ++ ms.map (fun m => (m.2, s.core m.1)) ++ gone.map fun k => (k, (s.core k).vacate)
  { s with
    cores := cores.map fun e => (e.1, { e.2 with
      guardTicks := e.2.guardTicks.map fun x => (x.1, r x.2.1, x.2.2)
      guardTouched := e.2.guardTouched.map r
      dupIn := e.2.dupIn.map fun m => { m with src := r m.src } })
    guardMap := s.guardMap.map fun g => g.map fun x => (r x.1, x.2)
    transit := { s.transit with
      guards := s.transit.guards.map fun m => { m with dst := r m.dst, src := r m.src }
      closes := s.transit.closes.map fun m => { m with dst := r m.dst, src := r m.src } }
    weights := { s.weights with
      fetches := s.weights.fetches.map fun f => { f with core := r f.core }
      shards := s.weights.shards.map fun h => { h with core := r h.core }
      repairs := s.weights.repairs.map fun x => (x.1, r x.2) }
    panels := s.panels.map fun e => (e.1, { e.2 with scrubDone := e.2.scrubDone.filter fun x => !froms.contains x.2 })
    errors := { s.errors with
      badFrames := s.errors.badFrames.map fun x => (r x.1, x.2)
      badWords := s.errors.badWords.map fun x => (r x.1, x.2)
      fixedWords := s.errors.fixedWords.map fun x => (r x.1, x.2) } }

/-- The tables of every core, the routes of every tree, and the presets of a panel's cores, written again (R174, R208,
R389, R486). -/
def State.rewriteTables (s : State) (p : Nat) : State :=
  match s.loaded with
  | none => s
  | some l =>
    let asg := s.assigned
    let s := asg.foldl (fun s x => s.mapCore x.1 fun c => { c with tab := coreTables l.pkg asg x.1 x.2 }) s
    let s := s.writeRoutes l.pkg asg
    (asg.filter fun x => x.1.panel == p).foldl (fun s x => s.presetAll x.1) s

/-! ### KV of a lost core (R275, R276, R278) -/

/-- Data frames of a core whose group has another lost core, or no group: their bytes are gone. -/
def State.unrecoverable (s : State) (lost : List Site) (k : Site) (f : Nat) : Bool :=
  match s.guardMap.find? (fun g => g.contains (k, f)) with
  | none => true
  | some g => g.any fun x => x.1 != k && lost.contains x.1

/-- The last tick whose close marker the parity core of a frame has (R274). -/
def State.lastClosed (s : State) (k : Site) (f : Nat) : Option Nat :=
  (s.guardOf k f).bind fun p => ((s.core p.1).guardTicks.find? fun x => x.1 == p.2 && x.2.1 == k).map (·.2.2)

/-- The first position of a frame's page that the cohort of the tick in progress appends (R276). -/
def State.freshPos (s : State) (k : Site) (r : FrameRec) : Option Nat :=
  match (s.cohortOf k).bind s.cohortNum with
  | none => none
  | some c => ((c.rows.filter fun x => x.slot == r.seq && x.app && !x.starved && x.pos / pagePos s.kv4 == r.lpage).map (·.pos)).foldl
      (fun m p => match m with
        | none => some p
        | some q => some (min p q)) none

/-- Keeps the lowest position per sequence. -/
def lowestPos (qs : List (Nat × Nat)) : List (Nat × Nat) :=
  qs.foldl (fun acc x => match acc.find? (fun y => y.1 == x.1) with
    | some y => putK acc x.1 (min x.2 y.2)
    | none => acc ++ [x]) []

/-- The frame records of a lost core as its buddy's mirror holds them; `old` is the state before the shift (R275). -/
def mirrorRecs (old : State) (lost : List Site) (k : Site) : Option (List Nat) :=
  match old.buddy k with
  | none => none
  | some b =>
    if lost.contains b then none
    else
      let c := old.core b
      some ((List.range (old.core k).tab.frames).map fun f => leNat (c.rd 1 (c.tab.kvBase + 0xA000 + 8 * f) 8))

/-- Roles that the guard gives a core's frames where no mirror survives. -/
def State.roleRecs (s : State) (k : Site) : List Nat :=
  (List.range (s.core k).tab.frames).map fun f =>
    if s.guardMap.any fun g => g.head? == some (k, f) then ({ freeRec with st := 2 } : FrameRec).num
    else if s.guardMap.isEmpty || s.guardMap.any (fun g => g.contains (k, f)) then 0
    else ({ freeRec with st := 3 } : FrameRec).num

/-- Chains and directory of a core rebuilt from its frame records. -/
def State.rebuildDir (s : State) (k : Site) : State :=
  let c := s.core k
  let s := s.mapCore k fun c => c.wrRaw 1 (c.tab.kvBase + 8192) (List.replicate 32768 0#8)
  let used := (List.range c.tab.frames).filter fun f => (c.frameRec f).st == 1
  let pairs := (used.map fun f => ((c.frameRec f).seq, (c.frameRec f).bind)).eraseDups
  pairs.foldl (fun s x =>
    let fs := used.filter fun f => (c.frameRec f).seq == x.1 && (c.frameRec f).bind == x.2
    s.relink k x.1 x.2 (sortBy (fun a b => decide ((c.frameRec a).place < (c.frameRec b).place)) fs)) s

/-- The KV of a lost core at its new home: records, directory, frames, the mirrors around it, and the sequences that
rebuild. -/
def State.refillKv (s old : State) (lost : List Site) (k nk : Site) : State :=
  let n := (s.core nk).tab.frames
  let mirror := mirrorRecs old lost k
  let recs := mirror.getD (s.roleRecs nk)
  let s := s.mapCore nk fun c => (c.wrRaw 1 c.tab.kvBase (List.replicate pageTableBytes 0#8)).wrRaw 1 c.tab.kvBase (recs.flatMap (natLe 8))
  let s := s.rebuildDir nk
  let s := (List.range n).foldl (fun s f => s.putFrameRec nk f ((s.core nk).frameRec f)) s
  let s := (s.buddyOf nk).foldl (fun s b =>
    (List.range (s.core b).tab.frames).foldl (fun s f => s.putFrameRec b f ((s.core b).frameRec f)) s) s
  let ds := (List.range n).filter fun f => ((s.core nk).frameRec f).st == 1
  let tos := nk :: lost
  let gone := ds.filter fun f => s.unrecoverable tos nk f
  let kept := ds.filter fun f => !s.unrecoverable tos nk f
  let s := kept.foldl (fun s f => match s.frameFromGuard nk f with
    | some bs => s.mapCore nk fun c => c.wrRaw 1 (c.tab.frameAddr f) bs
    | none => s) s
  let ps := (List.range n).filter fun f => ((s.core nk).frameRec f).st == 2
  let s := ps.foldl (fun s f => match s.frameFromGuard nk f with
    | some bs => s.mapCore nk fun c => c.wrRaw 1 (c.tab.frameAddr f) bs
    | none => s) s
  let loc := s.coreLoc nk
  let late := kept.filterMap fun f =>
    let r := (s.core nk).frameRec f
    if (s.lastClosed nk f).any fun t => s.tick.n ≤ t then none else (s.freshPos nk r).map fun p => (r.seq, p)
  let x := s.rebuildAll (lowestPos late)
  let s := if s.guardMap.isEmpty then s
    else x.1.raise { code := 0x0401, cls := .corrected, kind := 0, loc := loc, count := x.2, arg0 := (kept ++ ps).length }
  if gone.isEmpty && mirror.isSome then s
  else
    let lows := gone.map fun f =>
      let r := (s.core nk).frameRec f
      (r.seq, pagePos s.kv4 * r.lpage)
    let all := if mirror.isSome then lows else s.serve.seqs.map fun q => (q.slot, 0)
    let y := s.rebuildAll (lowestPos all)
    y.1.raise { code := 0x0404, cls := .contained, kind := 0, loc := loc, count := y.2, arg0 := 0x3FF }

/-- A dead core's new home filled: instructions of the nearest sibling, page tables and frames, shards to fetch (R488). -/
def State.refill (s old : State) (lost : List Site) (shards : List HeldShard) (k nk : Site) : State :=
  let old' := old.core k
  let s := s.setCore nk { tab := (s.core nk).tab, cols := old'.cols, atBarrier := true }
  let s := match s.nearestKin nk with
    | some b => if lost.contains b then s else s.mapCore nk fun c => { c with inst := (s.core b).inst }
    | none => s
  let s := if (s.core nk).inst.isEmpty then
      ({ s with errors := { s.errors with stuck := true } } : State).raise
        { code := 0x020F, cls := .contained, kind := 0, loc := s.coreLoc nk, iidx := some 0 }
    else s
  let s := s.refillKv old lost k nk
  let mine := shards.filter fun h => h.core == nk
  mine.foldl (fun s h => s.addFetch h.shard nk h.area h.digest .darn) s

/-- The shift of one row: its bad sites are skipped, the logical cores move east, dead cores' homes are refilled. -/
def State.shiftRow (s : State) (p row : Nat) : State :=
  let here (k : Site) : Bool := k.panel == p && k.row == row
  let dead := s.errors.deadCores.filter here
  let live := (s.errors.pendingDarn.filter here).filter fun k => !dead.contains k
  let bad := dead ++ live
  let loc := (bad.head?.map s.coreLoc).getD 0
  match s.rowMoves p row bad with
  | none =>
    let s : State := { s with errors := { s.errors with
      skipped := s.errors.skipped ++ bad, stuck := true
      deadCores := s.errors.deadCores.filter fun k => !here k
      pendingDarn := s.errors.pendingDarn.filter fun k => !here k } }
    s.raise { code := 0x0A0C, cls := .contained, kind := 0, loc := loc, arg0 := row }
  | some ms =>
    let old := s
    let reds := s.routers.map fun e => (e.1, e.2.red)
    let lost := dead.map (moved ms)
    let s := s.moveCores ms
    let shards := s.weights.shards
    let s : State := { s with errors := { s.errors with
      skipped := s.errors.skipped ++ bad
      deadCores := s.errors.deadCores.filter fun k => !here k
      pendingDarn := s.errors.pendingDarn.filter fun k => !here k } }
    let s := s.rewriteTables p
    let s := dead.foldl (fun s k => s.refill old (lost ++ old.errors.deadCores.filter fun x => !here x) shards k (moved ms k)) s
    let s := dead.foldl (fun s k => s.presetAll (moved ms k)) s
    let changed := s.routers.map (fun e => (e.1, e.2.red)) != reds
    let arg1 := (if changed then 1 else 0) + if dead.isEmpty then 2 else 0
    ({ s with
      errors := { s.errors with darned := some (match s.errors.darned with
        | some x => (x.1, x.2 ||| arg1)
        | none => (loc, arg1)) } } : State).storeMap

/-- Rows that hold a core to darn, each once. -/
def State.darnRows (s : State) : List (Nat × Nat) :=
  ((s.errors.deadCores ++ s.errors.pendingDarn).map fun k => (k.panel, k.row)).eraseDups

/-- DARNING_COMPLETE's effect: with no class 3 flit in flight, the rows shift and the new homes are refilled; once every
shard is in place the hold lifts with DARNED. -/
def State.darningComplete (s : State) : State :=
  if !s.held 2 || s.errors.stuck || !s.transit.guards.isEmpty || !s.transit.closes.isEmpty || s.clocksStopped ||
      s.errors.deadCores.any (fun k => (s.panel k.panel).wentDark) then s
  else
    let s := s.darnRows.foldl (fun s r => s.shiftRow r.1 r.2) s
    let bad := s.errors.badFrames
    let s : State := { s with errors := { s.errors with badFrames := [] } }
    let s := (bad.foldl (fun s x => s.retireFrame x.1 x.2) s).settleSources State.loadFails
    if s.errors.stuck || s.fetching .darn then s
    else
      let since := ((s.holds.find? fun h => h.reason == 2).map (·.since)).getD s.time
      let s := (s.liftHold 2).endCode 0x0A0A
      match s.errors.darned with
      | none => s
      | some (loc, arg1) =>
        ({ s with errors := { s.errors with darned := none } } : State).raise
          { code := 0x0A0B, cls := .corrected, kind := 0, loc := loc, arg0 := (s.time - since) / 1000, arg1 := arg1 }

/-- DARNING_COMPLETE (R276, R277, R486 to R490). -/
def execDarningComplete (s : State) : Host.Outcome State Fault Refusal := onUnit True s fun s => s.darningComplete

/-! ### Neighbour tests and observation (R483 to R485) -/

/-- Does a unit fail its votes: two testers against it, or every tester where it has fewer than two (R484, R518)? -/
def testFails (unit : Site) (isRouter : Bool) (testers : List Site) (votes : List Vote) : Bool :=
  let n := (testers.eraseDups.filter fun t => votes.any fun v => v.tester == t && v.unit == unit && v.loopback == isRouter).length
  decide (2 ≤ n) || (decide (testers.eraseDups.length < 2) && decide (0 < n))

/-- A test that finds no room; after 60 s it is reported. -/
def State.deferTest (s : State) (unit : Site) (isRouter : Bool) : State :=
  let key := (unit, isRouter)
  match s.errors.testWaits.find? (fun w => w.1 = key) with
  | none => { s with errors := { s.errors with testWaits := s.errors.testWaits ++ [(key, s.time)] } }
  | some (_, t) =>
    if s.time < t + 60 * secNs then s
    else
      ({ s with errors := { s.errors with testWaits := putK s.errors.testWaits key s.time } } : State).raise
        { code := 0x0A08, cls := .note, kind := if isRouter then 1 else 0, loc := if isRouter then physLoc unit else s.coreLoc unit }

/-- NEIGHBOUR_TEST's effect. -/
def State.neighbourTest (s : State) (unit : Site) (isRouter : Bool) (testers : List Site) (votes : List Vote) : State :=
  if s.deadAt unit then s
  else if testers.isEmpty then s.deferTest unit isRouter
  else
    let s : State := { s with errors := { s.errors with testWaits := delK s.errors.testWaits (unit, isRouter) } }
    if testFails unit isRouter testers votes then (s.observe unit isRouter 4).settleDying else s

/-- NEIGHBOUR_TEST (R484, R485). -/
def execNeighbourTest (unit : Site) (isRouter : Bool) (testers : List Site) (votes : List Vote) (s : State) :
    Host.Outcome State Fault Refusal :=
  onUnit unit.ok s fun s => s.neighbourTest unit isRouter testers votes

/-- OBSERVATION_END (R485): 24 hours without a trigger. -/
def execObservationEnd (unit : Site) (isRouter : Bool) (s : State) : Host.Outcome State Fault Refusal :=
  onUnit unit.ok s fun s =>
    match s.errors.observed.find? (fun o => o.unit = unit ∧ o.isRouter = isRouter) with
    | none => s
    | some o =>
      if s.time < o.since + 24 * hourNs then s
      else
        ({ s with errors := { s.errors with observed := s.errors.observed.filter (· ≠ o) } } : State).raise
          { code := 0x0A06, cls := .note, kind := if isRouter then 1 else 0, loc := if isRouter then physLoc unit else s.coreLoc unit }

/-! ### The operator's darning (R492, R493) -/

/-- A DARN_OVR value whose fields are in range. -/
def darnOvrOk (v : Word) : Bool := decide (bitsOf v.toNat 6 3 ≤ 11) && decide (bitsOf v.toNat 17 14 ≤ 11)

/-- A completed DARN_OVR pair: it takes effect at the next release. -/
def State.setDarnOvr (s : State) (writer : Option Nat) (v : Word) : State :=
  if darnOvrOk v then { s with errors := { s.errors with darnOvr := v &&& 0x3FFFF#32 } } else s.guardFault writer 0x4068

/-- DARN_OVR (R492, R493). -/
def execDarnOvr (value : Word) (s : State) : Host.Outcome State Fault Refusal :=
  onUnit True s fun s => s.setDarnOvr (some 0) value

/-- The site DARN_OVR names. -/
def State.darnSite (s : State) (v : Word) : Option Site :=
  let n := v.toNat
  s.siteOfLogical (panelAt (bitsOf n 2 1) (bitsOf n 6 3) (bitsOf n 9 7)) (bitsOf n 13 10) (bitsOf n 17 14)

/-- DARN_OVR at a release: the core waits for live darning, or the request is refused. -/
def State.takeDarnOvr (s : State) : State :=
  let v := s.errors.darnOvr
  if !v.getLsbD 0 then s
  else
    let s : State := { s with errors := { s.errors with darnOvr := v &&& ~~~1#32 } }
    let refuse (bits loc : Nat) : State := s.raise { code := 0x0A0D, cls := .note, kind := 0, loc := loc, arg0 := bits }
    match s.darnSite v with
    | none => refuse 1 moduleLoc
    | some k =>
      let idle := !s.coreUsable k
      let full := !s.rowHasSpare k
      if idle || full then refuse ((if idle then 1 else 0) + if full then 2 else 0) (s.coreLoc k)
      else { s with errors := { s.errors with
        pendingDarn := if k ∈ s.errors.pendingDarn then s.errors.pendingDarn else s.errors.pendingDarn ++ [k] } }

end Sys2Proof.Machine
end

