-- ==== Sys2Proof/Machine/Viumond.lean ====
section
/-! DEFINITION. The Viumond protocol (R507 to R512): tags, sessions, request numbers, the checks of a body and the answers;
and READ_MEM under its ration, whose answer a release may have to give (R219, R220). -/

namespace Sys2Proof.Machine

/-- STATUS of a header (R508). -/
def stOk : Nat := 0
def stAuth : Nat := 1
def stStale : Nat := 2
def stType : Nat := 3
def stRange : Nat := 4
def stState : Nat := 5
def stGuard : Nat := 6
def stBusy : Nat := 7

/-- An answer sent by the port on which the request came (R507). -/
def State.send (s : State) (d : Datagram) : State := { s with mgmt := { s.mgmt with out := s.mgmt.out ++ [d] } }

/-- The response to a request under a key; one whose STATUS is not OK carries no body (R512). -/
def State.response (s : State) (d : Datagram) (key : BitVec 256) (status : Nat) (body : List Byte) : Datagram :=
  datagramOf d.port d.typ 1 d.reqid d.session status s.flash.modId key (if status = stOk then body else [])

/-- A datagram whose tag fails: dropped and counted (R509). -/
def State.dropTag (s : State) : State := { s with mgmt := { s.mgmt with tagFails := s.mgmt.tagFails + 1 } }

/-- Changes an open session. -/
def State.mapSession (s : State) (id : DWord) (f : Session → Session) : State :=
  { s with mgmt := { s.mgmt with sessions := s.mgmt.sessions.map fun x => if x.id = id then f x else x } }

/-- Answers a request of a session, and keeps the answer for a repeat (R509). -/
def State.answer (s : State) (x : Session) (d : Datagram) (status : Nat) (body : List Byte) : State :=
  let r := s.response d x.key status body
  (s.send r).mapSession x.id fun y => if y.lastReqId = some d.reqid.toNat then { y with cached := some r } else y

/-- Is a datagram one the protocol takes as a request: version 1, LEN its body's length and in range, not a response
(R508)? -/
def datagramOk (d : Datagram) : Bool :=
  d.ver == 1#8 && d.len.toNat == d.body.length && decide (d.body.length ≤ 4032) && !d.flags.getLsbD 0

/-- The fields a body's layout lists, each with its lowest bit and width; every other bit is reserved. -/
abbrev Layout := List (Nat × Nat)

/-- Is every reserved bit of a body's value 0 (R14, R512)? -/
def reservedZero (v : Nat) (l : Layout) : Bool := (l.map fun f => v / 2 ^ f.1 % 2 ^ f.2 * 2 ^ f.1).sum == v

/-- Is a body as long as its layout, with every reserved field 0 (R512)? -/
def bodyOk (d : Datagram) (least : Nat) (l : Layout) : Bool :=
  decide (least ≤ d.body.length) && reservedZero (leNat d.body) l && d.flags.toNat / 4 == 0 && d.reserved == 0#32

/-- Is TYPE a request the protocol names (R511)? -/
def typeKnown (t : Nat) : Bool := decide (1 ≤ t) && decide (t ≤ 0x14) && t != 6

/-- What a request does: the answer's status and body, or none where it comes later. -/
abbrev Reply := Option (Nat × List Byte) × State

def reply (status : Nat) (s : State) : Reply := (some (status, []), s)
def replyOk (body : List Byte) (s : State) : Reply := (some (stOk, body), s)

/-- A request of an open session whose tag and number are good: a reserved TYPE is answered TYPE; while the identity key is
unavailable an unsigned session gets EVENTS only (R503, R509, R511, R512). -/
def State.serveRequest (s : State) (x : Session) (d : Datagram) (least : Nat → Nat) (l : Nat → Layout)
    (run : State → Session → Nat → Reply) : State :=
  let v := leNat d.body
  if !typeKnown d.typ.toNat then s.answer x d stType []
  else if x.unsigned && !s.mgmt.pufOk && d.typ != 5#8 then s.answer x d stAuth []
  else if !bodyOk d (least v) (l v) then s.answer x d stRange []
  else
    let r := run s x v
    match r.1 with
    | some (st, body) => r.2.answer x d st body
    | none => r.2

/-- A datagram taken as the request of a TYPE. A repeat of the last number gets the cached answer, a lower one STALE; a
datagram of another TYPE that R511 names is another command (R508, R509, R511). -/
def State.viumond (s : State) (typ : Nat) (d : Datagram) (least : Nat → Nat) (l : Nat → Layout)
    (run : State → Session → Nat → Reply) : State :=
  if !s.powered || !s.mgmt.running || !datagramOk d || (typeKnown d.typ.toNat && d.typ.toNat != typ) then s
  else
    match s.mgmt.sessions.find? (fun x => x.id == d.session) with
    | none => s.dropTag
    | some x =>
      if d.tag ≠ tagOf x.key d then s.dropTag
      else
        let s := s.mapSession x.id fun y => { y with lastReq := s.mclock }
        let n := d.reqid.toNat
        if x.lastReqId = some n then
          match x.cached with
          | some r => s.send r
          | none => s
        else if (x.lastReqId.any fun m => decide (n < m)) then s.send (s.response d x.key stStale [])
        else (s.mapSession x.id fun y => { y with lastReqId := some n, cached := none }).serveRequest x d least l run

/-! ### READ_MEM (R219, R511, R512, R521) -/

/-- The fields of a READ_MEM body: store, address, length. -/
def readMemStore (d : Datagram) : Nat := bitsOf (fieldAt d.body 8 1) 1 0
def readMemAddr (d : Datagram) : Nat := fieldAt d.body 12 4
def readMemLen (d : Datagram) : Nat := fieldAt d.body 16 2

/-- The answer to a READ_MEM: the bytes, and whether a parity mismatch was met. Reading changes no state. -/
def State.readMemBody (s : State) (k : Site) (d : Datagram) : List Byte :=
  let c := s.core k
  let st := readMemStore d
  let a := readMemAddr d
  let n := readMemLen d
  natLe 2 n ++ natLe 6 (if (c.badIn st a n).isSome then 1 else 0) ++ c.rd st a n

/-- May the stores of a site's panel be read: its store domain is on? -/
def State.storesOn (s : State) (k : Site) : Bool := ((s.panel k.panel).dom.get VMEM).on

/-- Grants a waiting read what its panel's ration has left; a read with all its units is answered. -/
def State.serveRead (s : State) (r : PendingRead) : State :=
  let n := match s.rationLeft r.site.panel ratMgmt with
    | some m => if s.clocksStopped then r.left else min m r.left
    | none => r.left
  let s := if s.tick.running && !s.clocksStopped then s.charge r.site.panel ratMgmt n else s
  if n < r.left then { s with mgmt := { s.mgmt with reads := s.mgmt.reads ++ [{ r with left := r.left - n }] } }
  else
    match s.mgmt.sessions.find? (fun x => x.id == r.session) with
    | none => s
    | some x => if s.storesOn r.site then s.answer x r.d stOk (s.readMemBody r.site r.d) else s.answer x r.d stState []

/-- Waiting reads in order, as far as the rations go (R220). -/
def State.serveReads (s : State) : State :=
  s.mgmt.reads.foldl (fun s r => s.serveRead r) { s with mgmt := { s.mgmt with reads := [] } }

/-- Waiting reads whose stores a reset takes away are answered STATE. -/
def State.failReads (s : State) : State :=
  s.mgmt.reads.foldl (fun s r => match s.mgmt.sessions.find? (fun x => x.id == r.session) with
    | some x => s.answer x r.d stState []
    | none => s) { s with mgmt := { s.mgmt with reads := [] } }

/-- READ_MEM's body (R512). -/
def readMemLeast : Nat → Nat := fun _ => 18
def readMemLayout : Nat → Layout := fun _ => [(0, 64), (64, 2), (96, 32), (128, 16)]

/-- READ_MEM's effect: the read queues for its units; outside ticks it is answered at once. -/
def State.readMem (s : State) (x : Session) (d : Datagram) : Reply :=
  let n := readMemLen d
  match s.siteOfLoc (fieldAt d.body 0 8) with
  | none => reply stRange s
  | some k =>
    if n = 0 ∨ 4000 < n ∨ storeSize (readMemStore d) < readMemAddr d + n ∨ bitsOf (fieldAt d.body 0 8) 20 18 ≠ 3 then reply stRange s
    else if !s.storesOn k then reply stState s
    else
      let s : State := { s with mgmt := { s.mgmt with reads := s.mgmt.reads ++ [(⟨x.id, d, k, ceilDiv n 64⟩ : PendingRead)] } }
      (none, s.serveReads)

/-- READ_MEM (R511, R512, R521). -/
def execReadMem (d : Datagram) (s : State) : Host.Outcome State Fault Refusal :=
  onUnit True s fun s => s.viumond 4 d readMemLeast readMemLayout fun s x _ => s.readMem x d

end Sys2Proof.Machine
end

