-- ==== Sys2Proof/Machine/Power.lean ====
section
/-! DEFINITION. Power (R403 to R437, R517 to R519, R523, R543, R553): panels and their domains, trims, droop, the supply
ladder, the governor, switch-ons and switch-offs, start, pitching, reset and shutdown. -/

namespace Sys2Proof.Machine

/-! ### Panels and domains (R404, R432) -/

/-- Setpoints of VMEM, VMIF and VLNK, and of VMEM in retention, in steps of 2.5 mV. -/
def vmemSet : Nat := 288
def vmifSet : Nat := 272
def vlnkSet : Nat := 300
def retentionSet : Nat := 200

/-- The VLOG setpoint a panel's clock calls for, within 0.55 to 0.80 V. -/
def vlogSet (p clock : Nat) : Nat := min 320 (max 220 (Config.vlogFor p clock))

/-- Does a panel hold hem or gateway routers: it lies on its canopy's edge, or at an interior gateway (R56, R58)? -/
def hemPanel (p : Nat) : Bool :=
  let c := pcolOf p
  let r := prowOf p
  c == 0 || c == 11 || r == 0 || r == 7 || ([2, 3, 8, 9].contains c && [1, 2, 5, 6].contains r)

/-- The sector that feeds a panel: the west or east half of its canopy (R403). -/
def sectorOf (p : Nat) : Nat := 2 * canopyOf p + if 6 ≤ pcolOf p then 1 else 0

def PanelState.setDom (x : PanelState) (d : Fin 4) (on : Bool) (set : Nat) : PanelState :=
  { x with dom := x.dom.set d { x.dom.get d with on := on, setpoint := if on then set else (x.dom.get d).setpoint } }

/-- Every domain of a panel on, at its setpoint. -/
def PanelState.allOn (x : PanelState) (p : Nat) : PanelState :=
  { (((x.setDom VLOG true (vlogSet p 76)).setDom VMEM true vmemSet).setDom VMIF true vmifSet).setDom VLNK true vlnkSet with
    retention := false, ready := true, clock := 76, riseAt := none }

/-- A panel in bivouac: stores in retention, the link domain only where the hem needs it (R432). -/
def PanelState.toBivouac (x : PanelState) (p : Nat) : PanelState :=
  let y := ((x.setDom VLOG false 0).setDom VMIF false 0).setDom VMEM (x.dom.get VMEM).on retentionSet
  { (if hemPanel p then y else y.setDom VLNK false 0) with
    retention := true, ready := false, ballast := 0
    pstate := if x.pstate == .capped || x.pstate == .dark then x.pstate else .off }

/-- A panel switched off. -/
def PanelState.allOff (x : PanelState) : PanelState :=
  { (((x.setDom VLOG false 0).setDom VMEM false 0).setDom VMIF false 0).setDom VLNK false 0 with
    retention := true, ready := false, ballast := 0, pstate := .off }

/-- What is left of a panel's cores when their stores lose power: they stay without power and hold nothing (R416). -/
def State.losePanel (s : State) (p : Nat) : State :=
  { s with
    cores := s.cores.map fun e => if e.1.panel = p then (e.1, ({ tab := e.2.tab, halted := true } : Core)) else e
    weights := { s.weights with shards := s.weights.shards.filter fun h => h.core.panel ≠ p } }

/-! ### Clocks and trims (R407 to R410) -/

/-- A panel's clock cap (R410). -/
def PanelState.cap (x : PanelState) : Nat := max 19 (min (min x.capGov x.capReg) (min x.capTherm x.capSect))

/-- One regulator trim: a domain's setpoint moves now, or waits for the ration of the next tick (R408). -/
def State.trim (s : State) (p d set : Nat) : State × Bool :=
  let metered := s.tick.running && s.power.state == .running
  let put (x : PanelState) : PanelState := { x with
    dom := x.dom.setIfInBounds d { x.dom.toList.getD d {} with setpoint := set }
    trimWaiting := x.trimWaiting.filter fun w => w.1 ≠ d }
  if s.calib.running.isSome || (metered && !s.rationOk p ratTrim) then
    (s.mapPanel p fun x => { x with trimWaiting := putK x.trimWaiting d set }, false)
  else
    let s := if metered then s.charge p ratTrim 1 else s
    (s.mapPanel p put, true)

/-- A panel runs stretched (R225, R410). -/
def State.markStretch (s : State) (p : Nat) : State := if (s.panel p).clock < 76 then s.cause p 0 else s

/-- A panel's clock follows its cap: it falls at once and VLOG follows; it rises once VLOG has risen (R407, R408). While
a droop stretches the clock, only the cap binds (R409). -/
def State.applyClock (s : State) (p : Nat) : State :=
  let x := s.panel p
  let cap := x.cap
  if !(x.dom.get VLOG).on then s
  else if cap < x.clock then
    let s := s.mapPanel p fun x => { x with clock := cap }
    ((if vlogSet p cap = (x.dom.get VLOG).setpoint then s else (s.trim p 0 (vlogSet p cap)).1).markStretch p)
  else if cap = x.clock ∨ x.riseAt.isSome then s.markStretch p
  else
    let r := if vlogSet p cap = (x.dom.get VLOG).setpoint then (s, true) else s.trim p 0 (vlogSet p cap)
    (if r.2 then r.1.mapPanel p fun x => { x with clock := cap } else r.1).markStretch p

/-- Trims that waited for a new tick's ration, and the clocks that waited for them. -/
def State.retryTrims (s : State) : State :=
  s.panels.foldl (fun s e =>
    let s := e.2.trimWaiting.foldl (fun s w => (s.trim e.1 w.1 w.2).1) s
    if e.2.trimWaiting.isEmpty then s else s.applyClock e.1) s

/-- DROOP_TRIP (R409): a point 30 mV or more below its setpoint; `depth` in units of 0.1 mV. -/
def execDroopTrip (panel point depth : Nat) (s : State) : Host.Outcome State Fault Refusal :=
  onUnit (panelOk panel) s fun s =>
    let x := s.panel panel
    if !(x.dom.get VLOG).on ∨ depth < 300 ∨ 8 ≤ point then s
    else
      (s.setPanel panel { x with
        clock := min x.clock (max 19 (x.clock * 3 / 4)), droopTrips := x.droopTrips + 1, riseAt := some (s.time + 1000) }).cause panel 0

/-- DROOP_RECOVERY (R409): every point has been within 15 mV for 1 µs; the clock rises one step, at most every 100 ns. -/
def execDroopRecovery (panel : Nat) (s : State) : Host.Outcome State Fault Refusal :=
  onUnit (panelOk panel) s fun s =>
    let x := s.panel panel
    match x.riseAt with
    | none => s
    | some t =>
      if s.time < t then s
      else
        let c := min x.cap (x.clock + 1)
        (s.setPanel panel { x with clock := c, riseAt := if c < x.cap then some (s.time + 100) else none }).markStretch panel

/-- SENSE_SAMPLE's effect (R406, R411): the lowest reading is kept; a mean error beyond 4 mV for 100 µs trims. -/
def State.senseSample (s : State) (p d : Nat) (err : Int) (vmin point : Nat) : State :=
  let x := s.panel p
  let dm := x.dom.toList.getD d {}
  if !dm.on then s
  else
    let low := match dm.vmin with
      | none => true
      | some (v, _, _) => decide (vmin < v)
    let dm := if low then { dm with vmin := some (vmin, s.time, point), vminSeq := nextSeqOf dm.vminSeq } else dm
    let high := decide (40 < err)
    let wrong := high || decide (err < -40)
    let since := if !wrong then none
      else match dm.errSince with
        | some (h, t) => if h = high then some (h, t) else some (high, s.time)
        | none => some (high, s.time)
    let due := match since with
      | some (_, t) => decide (t + 100000 ≤ s.time)
      | none => false
    let dm := { dm with errSince := if due then some (high, s.time) else since }
    let s := s.setPanel p { x with dom := x.dom.setIfInBounds d dm }
    if due then (s.trim p d (if high then dm.setpoint - 1 else dm.setpoint + 1)).1 else s

/-- SENSE_SAMPLE (R406, R408, R411). -/
def execSenseSample (panel dom : Nat) (err : Int) (vmin point : Nat) (s : State) : Host.Outcome State Fault Refusal :=
  onUnit (panelOk panel ∧ domOk dom) s fun s => s.senseSample panel dom err vmin point

/-- BOND_CHECK's effect (R412, R413): a point whose drop exceeds ρ times its current by more than 15 mV for 10 ms is
reported once; a check below 15 mV lets the next calibration arm it again. -/
def State.bondCheck (s : State) (p d point excess us : Nat) : State :=
  let x := s.panel p
  let dm := x.dom.toList.getD d {}
  if !dm.on ∨ x.riseAt.isSome then s
  else if excess < 150 then
    if dm.bond.contains point then
      s.setPanel p { x with dom := x.dom.setIfInBounds d { dm with
        bondArmed := if point ∈ dm.bondArmed then dm.bondArmed else dm.bondArmed ++ [point] } }
    else s
  else if excess = 150 ∨ us < 10000 ∨ dm.bond.contains point then s
  else
    (s.setPanel p { x with dom := x.dom.setIfInBounds d { dm with bond := dm.bond ++ [point] } }).raise
      { code := 0x0805, cls := .degraded, kind := 7, loc := panelIndexLoc p point, arg0 := d + point * 2 ^ 8, arg1 := excess }

/-- BOND_CHECK (R413). -/
def execBondCheck (panel dom point excess us : Nat) (s : State) : Host.Outcome State Fault Refusal :=
  onUnit (panelOk panel ∧ domOk dom) s fun s => s.bondCheck panel dom point excess us

/-! ### The supply ladder (R414 to R418) -/

/-- Cells of a domain (R404). -/
def cellsOf (d : Nat) : Nat := if d = 0 then 32 else 8

/-- Failed cells of a panel's domain. -/
def PanelState.failedIn (x : PanelState) (d : Nat) : Nat := ((x.dom.toList.getD d {}).failed).length

/-- A panel goes dark by a domain's failed cells. -/
def State.goDark (s : State) (p d : Nat) : State :=
  let n := (s.panel p).failedIn d
  let s := s.mapPanel p fun x =>
    let y := x.setDom VLOG false 0
    let z := if d = 0 then y else (y.setDom VMIF false 0).setDom VMEM false 0
    { (if d = 3 then z.setDom VLNK false 0 else z) with pstate := .dark, wentDark := true, ready := false, ballast := 0 }
  let s := if d = 0 then s else s.losePanel p
  let s := if d = 3 then s.fencePanel p else s
  s.raise { code := 0x0803, cls := .contained, kind := 7, loc := panelLoc p, count := n, arg0 := d }

/-- The step of the ladder that a domain's failed cells call for; `cell` is the one just isolated. -/
def State.ladder (s : State) (p d cell : Nat) : State :=
  let n := (s.panel p).failedIn d
  if (s.panel p).wentDark || n == 0 then s
  else if d = 0 ∧ 8 < n ∨ d ≠ 0 ∧ 3 ≤ n then s.goDark p d
  else if d = 0 ∧ 5 ≤ n then
    let cap := min 75 (max 19 (Config.regCap p n))
    let s := (s.mapPanel p fun x => { x with capReg := cap, pstate := .capped, ballast := 0 }).applyClock p
    s.raise { code := 0x0802, cls := .degraded, kind := 7, loc := panelLoc p, count := n, arg0 := cap }
  else s.raise { code := 0x0801, cls := .corrected, kind := 7, loc := panelIndexLoc p cell, count := n, arg0 := d + cell * 2 ^ 8 }

/-- A regulator cell isolates itself (R414); in a soft start the ladder waits until the panel is ready. -/
def State.cellFails (s : State) (p d cell : Nat) : State :=
  let x := s.panel p
  let dm := x.dom.toList.getD d {}
  let soft := s.power.pending.any (·.1 == p)
  if cellsOf d ≤ cell ∨ dm.failed.contains cell ∨ (!dm.on && !soft) then s
  else
    let s := s.setPanel p { x with dom := x.dom.setIfInBounds d { dm with failed := dm.failed ++ [cell] } }
    if soft then s.mapPanel p fun x => { x with softCells := x.softCells ++ [(d, cell)] } else s.ladder p d cell

/-- REG_CELL_ISOLATION (R414, R416). -/
def execRegCellIsolation (panel dom cell : Nat) (s : State) : Host.Outcome State Fault Refusal :=
  onUnit (panelOk panel ∧ domOk dom) s fun s => s.cellFails panel dom cell

/-- CONVERTER_FAILURE (R415, R416). -/
def execConverterFailure (conv : Nat) (s : State) : Host.Outcome State Fault Refusal :=
  onUnit (convOk conv) s fun s =>
    if s.power.convFailed.contains conv ∨ s.power.state = .standby then s
    else
      let s : State := { s with power := { s.power with convFailed := s.power.convFailed ++ [conv] } }
      let n := s.power.convFailed.length
      s.raise { code := 0x0804, cls := if n ≤ 2 then .corrected else .degraded, kind := 8, loc := moduleLoc, count := n, arg0 := conv }

/-- LUG_IMBALANCE_CHECK (R543). -/
def execLugImbalanceCheck (pair share amps ms : Nat) (s : State) : Host.Outcome State Fault Refusal :=
  onUnit (lugOk pair) s fun s =>
    if share ≤ 60 ∨ amps ≤ 100 ∨ ms < 1000 then s
    else s.raiseEvery hourNs (0x080C, 0) { code := 0x080C, cls := .degraded, loc := moduleLoc, arg0 := pair, arg1 := share }

/-! ### Pitching (R17, R47, R517 to R519) -/

/-- The four neighbours of a site that test it, across seams too. -/
def testersOf (k : Site) : List Site := [Port.north, .east, .south, .west].filterMap (neighbour k)

/-- Testers of a site that fail it. -/
def failingTesters (votes : List Vote) (ts : List Site) (u : Site) (loopback : Option Bool) : List Site :=
  ts.filter fun t => votes.any fun v => v.tester == t && v.unit == u && (match loopback with
    | none => true
    | some b => v.loopback == b)

/-- Sites that the first count finds bad. -/
def firstBadSites (votes : List Vote) : List Site :=
  ((votes.map (·.unit)).eraseDups).filter fun u => 2 ≤ (failingTesters votes (testersOf u) u none).length

/-- Sites that the second count finds bad: votes of first-count bad sites do not count, and a site with fewer than two
testers left is bad if all that are left fail it (R519). -/
def badSites (votes : List Vote) : List Site :=
  let bad1 := firstBadSites votes
  let sites := (votes.map (·.unit) ++ bad1.flatMap testersOf).eraseDups
  sites.filter fun u =>
    let left := (testersOf u).filter fun t => !bad1.contains t
    let n := (failingTesters votes left u none).length
    decide (2 ≤ n) || (decide (left.length < 2) && n == left.length)

/-- Routers that fail loopback from every tester. -/
def deadRouters (votes : List Vote) : List Site :=
  ((votes.map (·.unit)).eraseDups).filter fun u =>
    (testersOf u).all fun t => votes.any fun v => v.tester == t && v.unit == u && v.loopback

/-- Active cores: those the repair map names, in panels that are on and not fenced. -/
def State.activeCores (s : State) : Nat :=
  ((List.range 384).map fun p =>
    let x := s.panel p
    if (x.dom.get VLOG).on && !x.fenced && !x.wentDark then ((List.range 12).map fun r => (s.rowSites p r).length).sum else 0).sum

/-- Voting, fencing and the repair map (R519). -/
def State.buildMap (s : State) (votes : List Vote) : State :=
  let dead := deadRouters votes
  let bad := (badSites votes ++ dead).eraseDups
  let stored := if s.flash.repairSig then s.flash.repairMap else none
  let old := stored.getD []
  let new := bad.filter fun k => !old.contains k
  let s := dead.foldl (fun s k => s.killRouter k) s
  let s : State := { s with errors := { s.errors with skipped := old ++ new } }
  let rows := ((old ++ new).map fun k => (k.panel, k.row)).eraseDups
  let s := rows.foldl (fun s r =>
    let n := ((old ++ new).filter fun k => k.panel == r.1 && k.row == r.2).length
    if s.skips < n then s.raise { code := 0x0B08, cls := .degraded, loc := panelLoc r.1, count := n, arg0 := r.2 } else s) s
  match stored with
  | none => (s.raise { code := 0x0B0A, cls := .degraded, loc := moduleLoc }).storeMap
  | some _ =>
    if new.isEmpty then s
    else (s.raise { code := 0x0B09, cls := .degraded, loc := moduleLoc, count := new.length }).storeMap

/-- The end of a pitching (R517): map, stores, cells, ρ, calibration; the module runs. -/
def State.endPitch (s : State) (p : Pitch) (since : Nat) : State :=
  let s : State := { s with
    cores := [], routers := [], weights := { src := s.weights.src, serve := s.weights.serve }
    power := { s.power with state := .running, pitch := none }
    panels := s.panels.map fun e => (e.1, { e.2 with fenced := false, excluded := [] }) }
  let s := s.buildMap p.votes
  let s := p.badCells.foldl (fun s c => s.cellFails c.1 c.2.1 c.2.2) s
  let s := p.rho.foldl (fun s r => s.mapPanel r.1 fun x => { x with
    dom := x.dom.setIfInBounds r.2.1 { x.dom.toList.getD r.2.1 {} with rho := putK (x.dom.toList.getD r.2.1 {}).rho r.2.2.1 r.2.2.2 } }) s
  let s : State := { s with calib := { s.calib with refs := p.temps, temps := p.temps, due := none, running := none } }
  let us := Config.pitchCalUs s.free
  let s := ({ s with free := s.free + 1 } : State).raise { code := 0x090B, cls := .note, loc := moduleLoc, arg0 := us }
  let s := s.raise { code := 0x0B07, cls := .note, loc := moduleLoc, arg0 := (s.time - since) / msNs, arg1 := s.activeCores }
  let s := if s.freeze.spin then s.requestFreeze .pin s.freeze.immediate else s
  match s.freeze.waitPitch with
  | some m => ({ s with freeze := { s.freeze with waitPitch := none } } : State).requestFreeze .viumond m
  | none => s

/-- Is every panel ready that a pitching or wake waits for: nothing queued, nothing in soft start? -/
def State.switchedOn (s : State) : Bool := s.power.queue.isEmpty && s.power.pending.isEmpty

/-- A pitching ends once its panels are on and its tests have taken their time; a wake once its panels are on. -/
def State.settleSwitch (s : State) : State :=
  if !s.switchedOn then s
  else
    match s.power.state, s.power.pitch with
    | .pitching, some (p, t) => if t + p.ms * msNs ≤ s.time then s.endPitch p t else s
    | .waking, _ =>
      if s.power.startAt.isSome then s
      else
        let s : State := { s with power := { s.power with state := .running, resumeAt := some s.time } }
        -- a member of a group sends the marker of the last tick released before bivouac (R397)
        match s.tick.stoppedAt with
        | some n => if s.chained then s.groupLinks.foldl (fun s l => s.sendMarker l 1 0 n) s else s
        | none => s
    | _, _ => s

/-- Every panel waits to be switched on (R426). -/
def allPanels : List (Nat × SwitchSet) := (List.range 384).map fun p => (p, .whole)

/-- Pitching begins (R430, R499, R517): with no identity record the module stays in standby. -/
def State.beginPitch (s : State) (p : Pitch) : State :=
  if !s.flash.identity then
    ({ s with power := { s.power with startAt := none } } : State).raise { code := 0x0B04, cls := .fatal, loc := moduleLoc }
  else
    { s with
      panels := [], cores := [], routers := []
      errors := { s.errors with observed := [], testWaits := [], badFrames := [], badWords := [], overflow := 0 }
      power := { s.power with state := .pitching, startAt := none, e := 60000, queue := allPanels, pending := [], admitted := []
                              waited := 0, pitch := some (p, s.time), resetPitch := none } }

/-- START_SLOT_OPEN (R429, R430, R517 to R519). -/
def execStartSlotOpen (p : Pitch) (s : State) : Host.Outcome State Fault Refusal :=
  onUnit True s fun s =>
    match s.power.startAt with
    | some t => if s.powered && s.power.pwrEn && s.power.state == .standby && !s.resetLow && decide (t ≤ s.time) then s.beginPitch p else s
    | none => s

/-! ### Start and shutdown (R429, R431, R554) -/

/-- The start slot counted from now (R429). -/
def State.slotAt (s : State) : Nat := s.time + s.power.slot * 250 * msNs

/-- PWR_EN_ASSERT (R429, R554): the wait for the start slot begins once the controller has started. -/
def execPwrEnAssert (s : State) : Host.Outcome State Fault Refusal :=
  onUnit True s fun s =>
    if s.power.pwrEn then s
    else { s with power := { s.power with
      pwrEn := true, cycle := false
      startAt := if s.mgmt.started then some s.slotAt else none } }

/-- The engine with its panels off: no core, router or package is left; module time, the log and the registers stay. -/
def State.engineOff (s : State) : State :=
  let s := s.dropPackage
  { s with
    panels := [], cores := [], routers := [], guys := Vector.replicate 8 {}
    serve := {}, weights := { src := s.weights.src, serve := s.weights.serve }
    unloading := none
    freeze := { s.freeze with state := .running, waitPitch := none }
    power := { s.power with state := .standby, e := 60000, queue := [], pending := [], admitted := [], waited := 0, pitch := none
                            sectorCap := [], resumeAt := none, groupStop := none, ballast := 0 } }

/-- Can the tick in progress no longer end without an unload: its clocks stand, or a hold, a stalled stage, a dark or a
fenced panel keeps it (R229, R232, R417, R482, R490)? -/
def State.tickStuck (s : State) : Bool :=
  s.errors.fatal || s.held 2 || s.held 3 || s.held 6 || !s.tick.stalledStages.isEmpty ||
    s.assigned.any fun x => (s.panel x.1.panel).wentDark || (s.panel x.1.panel).fenced

/-- PWR_EN_DEASSERT (R431): a wait for the slot is abandoned; a module that runs stops at the next release, then ramps
down. -/
def execPwrEnDeassert (s : State) : Host.Outcome State Fault Refusal :=
  onUnit True s fun s =>
    let s : State := { s with power := { s.power with pwrEn := false, startAt := none } }
    if s.power.state = .standby then s
    else
      let s : State := { s with power := { s.power with
        state := .stopping, queue := [], pending := [], waited := 0, pitch := none, resetPitch := none } }
      if s.tick.running && s.tickStuck then { s with tick := { s.tick with running := false, stoppedAt := some s.tick.n } } else s

/-! ### Reset (R9, R480, R523, R553) -/

/-- The engine as a module reset leaves it: every register at its reset value, stored ones from flash; the controller,
the log, the availability count and the switched panels stay (R494, R498, R523). -/
def State.moduleReset (s : State) : State :=
  let z : State := { pending := s.pending }
  { z with
    time := s.time, powered := s.powered, resetLow := s.resetLow, hostMem := s.hostMem, linkUp := s.linkUp
    linkWidth := s.linkWidth, perstLow := s.perstLow, msiOut := s.msiOut, flash := s.flash, mgmt := { s.mgmt with heldInReset := false, restarts := [] }, free := s.free
    panels := s.panels
    errors := { log := s.errors.log, untaken := s.errors.untaken, unavailMs := s.errors.unavailMs, unavailSince := s.errors.unavailSince
                skipped := s.errors.skipped }
    thermal := { coolant := s.thermal.coolant, coolSeq := s.thermal.coolSeq, coolAt := s.thermal.coolAt, coolLost := s.thermal.coolLost }
    freeze := { spin := s.freeze.spin }
    regs := { cacheNeg := s.regs.cacheNeg }
    power := { s.power with
      up := s.flash.up, dn := s.flash.dn, ceil := s.flash.ceil, floor := s.flash.floor, slot := s.flash.slot
      sticky := 0, seq := 0, panelSel := 0, queue := [], pending := [], waited := 0, pitch := none, resumeAt := none
      groupStop := none, thermCeil := 28000, sectorCap := [] } }

/-- Module time starts at 0 again (R9, R523); what is timed across it keeps its age. -/
def State.zeroTime (s : State) : State :=
  let er := s.errors
  { s with
    time := 0
    mgmt := { s.mgmt with base := s.mgmt.base + s.time }
    thermal := { s.thermal with coolAt := s.thermal.coolAt - s.time }
    errors := match er.unavailSince with
      | some t => { er with unavailMs := min (er.unavailMs + (s.time - t) / msNs) 0xFFFFFFFF, unavailSince := some 0 }
      | none => er }

/-- Every request ends UNLOADED, in one batch per function (R523). -/
def State.unloadAll (s : State) : State :=
  let s := s.flushCounted.endAll 4
  let s := s.liveFns.foldl (fun s g => s.writeBatch g none) s
  { s.dropPackage with unloading := none }

/-- A module reset begins: the panels switch off at the down rate before the pitching `p`, if one follows. -/
def State.startReset (s : State) (p : Option (Pitch × Bool)) : State :=
  let on := s.power.state != .standby
  let s := s.failReads.unloadAll.moduleReset
  if on then { s with power := { s.power with state := .stopping, resetPitch := p } }
  else
    match p with
    | some (x, z) =>
      let s : State := if z then s.zeroTime else s
      if s.power.pwrEn && !s.power.cycle then s.beginPitch x else s
    | none => s

/-- RESET_N (R523, R553): asserted, a reset; deasserted, module time starts at 0 and pitching follows. -/
def execResetN (low : Bool) (p : Pitch) (s : State) : Host.Outcome State Fault Refusal :=
  onUnit True s fun s =>
    if low then
      let s : State := { s with resetLow := true }
      if s.power.pwrEn then s.startReset none else s
    else if !s.resetLow then s
    else
      let s := ({ s with resetLow := false, errors := { s.errors with nextSeq := 1 } } : State).zeroTime
      if !s.power.pwrEn || s.power.cycle then s
      else if s.power.state = .standby then s.beginPitch p
      else { s with power := { s.power with resetPitch := some (p, false) } }

/-- Everything but flash is lost (R435, R448); the record of the trip went to flash first. -/
def State.loseAll (s : State) : State :=
  let z : State := { pending := s.pending }
  { z with
    powered := false, hostMem := s.hostMem, msiOut := s.msiOut, flash := s.flash, free := s.free, linkUp := false
    errors := { alert := true }
    power := { pwrEn := s.power.pwrEn, cycle := s.power.pwrEn, up := s.flash.up, dn := s.flash.dn, ceil := s.flash.ceil
               floor := s.flash.floor, slot := s.flash.slot } }

/-- POWER_ON (R553, R554): the input has been at 32 V for 10 ms; the internal reset ends. -/
def execPowerOn (s : State) : Host.Outcome State Fault Refusal :=
  onUnit True s fun s => { s.loseAll with powered := true, linkUp := true, errors := {}, resetLow := s.resetLow }

/-- INPUT_UNDERVOLTAGE (R435): below 30.0 V for 1 ms; `vin` in units of 10 mV. -/
def execInputUndervoltage (vin us : Nat) (s : State) : Host.Outcome State Fault Refusal :=
  onUnit True s fun s =>
    if !s.powered ∨ 3000 ≤ vin ∨ us < 1000 then s
    else (s.raise { code := 0x080A, cls := .fatal, loc := moduleLoc, arg0 := vin }).loseAll

/-- INPUT_OVERVOLTAGE (R435): above 42.0 V for 100 µs. -/
def execInputOvervoltage (vin us : Nat) (s : State) : Host.Outcome State Fault Refusal :=
  onUnit True s fun s =>
    if !s.powered ∨ vin ≤ 4200 ∨ us < 100 then s
    else (s.raise { code := 0x080B, cls := .fatal, loc := moduleLoc, arg0 := vin }).loseAll

/-! ### The governor (R419 to R428) -/

/-- The converter ceiling in W: none with 22 or more converters (R415). -/
def State.convCeil (s : State) : Nat :=
  let n := 24 - s.power.convFailed.length
  if 22 ≤ n then 28000 else 1300 * n

/-- The cap of R419 in W; `vin` in units of 10 mV. -/
def State.powerCap (s : State) (vin : Nat) : Nat :=
  min (min (min s.power.ceil s.power.thermCeil) s.convCeil) (min (960 * vin / 100) 28000)

/-- Which limit makes the cap: 1 CEIL, 2 thermal, 3 converter, 4 input current. -/
def State.capSource (s : State) (vin : Nat) : Nat :=
  let c := s.powerCap vin
  if s.power.ceil = c then 1 else if s.power.thermCeil = c then 2 else if s.convCeil = c then 3 else if 960 * vin / 100 = c then 4 else 1

/-- The floor in W, in the running state only (R425). -/
def State.powerFloor (s : State) : Nat := if s.power.state = .running then s.power.floor * s.power.ceil / 100 else 0

/-- E after a sample and the binding limit, in mW (R419, R422). -/
def State.nextE (s : State) (cap demand vin : Nat) : Nat × Nat :=
  let e := s.power.e
  let hi := min (cap * 1000) (e + s.power.up)
  let flo := s.powerFloor * 1000
  let lo := min (max (min flo (cap * 1000)) (e - s.power.dn)) hi
  let d := demand * 1000
  let e' := max lo (min d hi)
  let bind := if hi < d then (if cap * 1000 ≤ e + s.power.up then s.capSource vin else 5)
    else if d < lo then
      (if e - s.power.dn < flo then (if flo ≤ cap * 1000 then 7 else s.capSource vin) else if lo = hi then s.capSource vin else 6)
    else 0
  (e', bind)

/-- Clock caps that shed `need` W, panel by panel from the highest current, in steps of 25 MHz (R421). -/
def shed : Nat → List (Nat × Nat) → List (Nat × Nat)
  | _, [] => []
  | need, (p, step) :: r =>
    let n := if step = 0 then 57 else min 57 (ceilDiv need step)
    (p, 76 - n) :: shed (need - n * step) r

/-- Caps applied: every panel's governor cap, then its clock. -/
def State.setGovCaps (s : State) (caps : List (Nat × Nat)) : State :=
  let s := s.panels.foldl (fun s e => (s.mapPanel e.1 fun x => { x with capGov := getK caps e.1 76 }).applyClock e.1) s
  if caps.any fun c => c.2 < 76 then { s with power := { s.power with sticky := s.power.sticky ||| 0b010#3 } } else s

/-- Panels in descending order of measured current, with what a clock step frees. -/
def shedOrder (g : GovSample) : List (Nat × Nat) :=
  (sortBy (fun (a b : Nat × Nat × Nat × Nat) => decide (b.2.1 < a.2.1)) g.panels).map fun x => (x.1, x.2.2.2)

/-- Ballast-eligible panels of a sample (R423). -/
def State.eligible (s : State) (g : GovSample) : List (Nat × Nat × Nat × Nat) :=
  g.panels.filter fun x => ((s.panel x.1).dom.get VLOG).on && (s.panel x.1).pstate == .full

/-- Raises panels by one step of two columns each while the power lasts. -/
def raiseSome : Nat → List (Nat × Nat) → List Nat
  | _, [] => []
  | left, (p, w) :: r => if w ≤ left then p :: raiseSome (left - w) r else []

/-- Ballast levels for a ballast power in W (R423). -/
def State.setBallast (s : State) (g : GovSample) (watts : Nat) : State :=
  let el := s.eligible g
  let per := (el.map fun x => x.2.2.1).sum
  let steps := if watts = 0 then 0 else if per = 0 then 32 else min 32 (watts / per)
  let order := sortBy (fun (a b : Nat × Nat × Nat × Nat) => decide (a.2.1 < b.2.1) || (a.2.1 == b.2.1 && decide (a.1 < b.1))) el
  let extra := if watts = 0 ∨ steps = 32 then [] else raiseSome (watts - steps * per) (order.map fun x => (x.1, x.2.2.1))
  s.panels.foldl (fun s e =>
    let l := if el.any (·.1 == e.1) then 2 * (steps + if extra.contains e.1 then 1 else 0) else 0
    s.mapPanel e.1 fun x => { x with ballast := l }) s

/-- FLOOR_UNREACHABLE: the floor calls for more than ballast can draw (R425). -/
def State.checkFloor (s : State) (g : GovSample) (watts bind : Nat) : State :=
  let per := ((s.eligible g).map fun x => x.2.2.1).sum
  if bind ≠ 7 ∨ watts ≤ 32 * per then s
  else
    let due := match s.errors.rate.find? (fun r => r.1 = (0x0806, 0)) with
      | some (_, t) => decide (t + 60 * secNs ≤ s.time)
      | none => true
    let s : State := { s with power := { s.power with
      sticky := s.power.sticky ||| 0b001#3, seq := if due then s.errors.nextSeq else s.power.seq } }
    s.raiseEvery (60 * secNs) (0x0806, 0) { code := 0x0806, cls := .note, loc := moduleLoc, arg0 := s.powerFloor, arg1 := g.pin }

/-- Power and sector allowances of a switch-on, in W and A (R426). -/
def SwitchSet.watts : SwitchSet → Nat
  | .whole => 19
  | .vlog => 14
  | .vmem => 2
  | .vlnk => 3

def SwitchSet.amps : SwitchSet → Nat
  | .whole => 15
  | .vlog => 12
  | .vmem => 1
  | .vlnk => 2

/-- The head of the switch-on queue is admitted if R426 allows it; the headroom of the up rate adds up over the samples it
waits (notes/assumptions/47). -/
def State.admitSwitch (s : State) (g : GovSample) (cap : Nat) : State :=
  match s.power.queue with
  | [] => s
  | (p, set) :: r =>
    let w := s.power.waited + 1
    let hi := min (cap * 1000) (s.power.e + s.power.up * w)
    let e := s.power.e + set.watts * 1000
    let late := match s.power.lastAdmit with
      | some t => decide (t + 2000 ≤ s.time)
      | none => true
    if decide (g.sectors.getD (sectorOf p) 0 + set.amps ≤ 760) && decide (e ≤ hi) && late then
      { s with power := { s.power with
        queue := r, pending := s.power.pending ++ [(p, set)], e := e, waited := 0, lastAdmit := some s.time
        admitted := if set = .whole then s.power.admitted.filter (· ≠ p) ++ [p] else s.power.admitted } }
    else { s with power := { s.power with waited := w } }

/-- Bivouac is reached: links change rate, BIVOUAC (R432, R433). -/
def State.inBivouac (s : State) : State :=
  let s : State := { s with
    power := { s.power with state := .bivouac, waited := 0 }
    guys := s.guys.map fun g => if g.width = 0 then g else { g with lowRate := true, training := .width } }
  s.raise { code := 0x0808, cls := .note, loc := moduleLoc, arg0 := s.tick.stoppedAt.getD 0 }

/-- Standby is reached: the converters switch off; a pitching that waited begins (R431, R523). -/
def State.inStandby (s : State) : State :=
  let r := s.power.resetPitch
  let s := s.engineOff
  match r with
  | some (p, z) =>
    let s : State := { s with power := { s.power with resetPitch := none } }
    if s.resetLow ∨ !s.power.pwrEn then s else (if z then s.zeroTime else s).beginPitch p
  | none => s

/-- The next switch-off on the way to bivouac or standby, once E has fallen to the idle draw and the down rate has freed an
allowance (R431, R433). -/
def State.switchOff (s : State) (demand : Nat) : State :=
  let st := s.power.state
  if (st ≠ .entering ∧ st ≠ .stopping) ∨ s.tick.running ∨ (s.power.admitted ≠ [] ∧ demand * 1000 < s.power.e ∧ s.power.waited = 0) then s
  else
    match s.power.admitted.getLast? with
    | none => if st = .entering then s.inBivouac else s.inStandby
    | some p =>
      let w := s.power.waited + 1
      if s.power.dn * w < 19000 then { s with power := { s.power with waited := w } }
      else
        let s := s.mapPanel p fun x => if st = .entering then x.toBivouac p else x.allOff
        let s := if st = .entering then s else s.losePanel p
        { s with power := { s.power with admitted := s.power.admitted.dropLast, e := s.power.e - 19000, waited := 0 } }

/-- A staggered wake whose slot has come, and a wake's requests: every panel that is not on and not dark (R434). -/
def State.startWake (s : State) : State :=
  if s.power.state ≠ .waking then s
  else
    match s.power.startAt with
    | none => s
    | some t =>
      if s.time < t then s
      else
        let off := (List.range 384).filter fun p => !((s.panel p).dom.get VLOG).on && !(s.panel p).wentDark && !(s.panel p).heatOff
        { s with
          power := { s.power with startAt := none, queue := off.map (fun p => (p, .whole)), waited := 0 }
          guys := s.guys.map fun g => if g.lowRate then { g with lowRate := false, training := .width } else g }

/-- The caps of sectors over their limit: each sample lowers the panel that draws most by one step until the sector is
back at 760 A (R428, notes/assumptions/48). -/
def State.sectorCaps (s : State) (g : GovSample) : State :=
  s.power.sectorCap.foldl (fun s x =>
    let mine := (shedOrder g).filter fun p => sectorOf p.1 == x
    if g.sectors.getD x 0 ≤ 760 then
      let s : State := { s with power := { s.power with sectorCap := s.power.sectorCap.filter (· ≠ x) } }
      mine.foldl (fun s p => (s.mapPanel p.1 fun y => { y with capSect := 76 }).applyClock p.1) s
    else
      match mine.find? fun p => 19 < (s.panel p.1).cap with
      | some p => (s.mapPanel p.1 fun y => { y with capSect := y.cap - 1 }).applyClock p.1
      | none => s) s

/-- GOVERNOR_SAMPLE's effect (R419 to R428, R520). -/
def State.governorSample (s : State) (g : GovSample) : State :=
  if !s.powered then s
  else
    let cap := s.powerCap g.vin
    let s : State := { s with power := { s.power with pin := g.pin, vin := g.vin, iin := g.iin, sectors := g.sectors, cap := cap } }
    if s.power.state = .standby then s
    else if s.freeze.state == .frozen || s.freeze.state == .dead then
      { s with power := { s.power with e := min (cap * 1000) (g.pin * 1000), ballast := 0 } }
    else if 31000 < g.pin ∨ 960 < g.iin then
      s.setGovCaps (s.panels.map fun e => (e.1, max 19 (e.2.cap * 3 / 4)))
    else
      let r := s.nextE cap g.demand g.vin
      let s : State := { s with power := { s.power with e := r.1, bind := r.2 } }
      let excess := max (g.demand - r.1 / 1000) (g.mean10ms - cap)
      let watts := if s.thermal.trip then 0 else r.1 / 1000 - g.demand
      let s := s.setGovCaps (if 0 < excess then shed excess (shedOrder g) else [])
      let s : State := { s with power := { s.power with ballast := watts } }
      let s := if s.calib.running.isSome then s else s.setBallast g watts
      let s := ((s.checkFloor g watts r.2).sectorCaps g).startWake
      ((s.admitSwitch g cap).switchOff g.demand).settleSwitch

/-- GOVERNOR_SAMPLE (R419 to R426). -/
def execGovernorSample (g : GovSample) (s : State) : Host.Outcome State Fault Refusal :=
  onUnit True s fun s => s.governorSample g

/-- SECTOR_LIMIT_CHECK (R428). -/
def execSectorLimitCheck (sector amps us : Nat) (s : State) : Host.Outcome State Fault Refusal :=
  onUnit (sectorOk sector) s fun s =>
    if amps ≤ 800 ∨ us < 100 then s
    else
      ({ s with power := { s.power with
        sectorCap := if sector ∈ s.power.sectorCap then s.power.sectorCap else s.power.sectorCap ++ [sector] } } : State).raiseEvery
        secNs (0x0807, sector) { code := 0x0807, cls := .note, loc := moduleLoc, arg0 := sector, arg1 := amps }

/-! ### A panel becomes ready (R52, R416, R427) -/

/-- The domains of a switch-on come up. -/
def PanelState.switchOn (x : PanelState) (p : Nat) (set : SwitchSet) : PanelState :=
  match set with
  | .whole => { x.allOn p with pstate := if x.pstate == .capped then .capped else .full, heatOff := false }
  | .vlog =>
    { (x.setDom VLOG true (vlogSet p 76)).setDom VMIF true vmifSet with
      ready := true, clock := 76, heatOff := false, riseAt := none, pstate := if x.pstate == .capped then .capped else .full }
  | .vmem => { (x.setDom VMEM true vmemSet).setDom VMIF true vmifSet with retention := false }
  | .vlnk => x.setDom VLNK true vlnkSet

/-- A panel's seams realign: the cause is set against the panel and those it faces (R52, R225). -/
def State.seamAlign (s : State) (p : Nat) : State :=
  let c := pcolOf p
  let r := prowOf p
  let near := (if c = 0 then [] else [p - 1]) ++ (if c = 11 then [] else [p + 1]) ++ (if r = 0 then [] else [p - 12]) ++
    if r = 7 then [] else [p + 12]
  (p :: near).foldl (fun s q => s.cause q 3) s

/-- PANEL_READY's effect: the panel is on, and the ladder applies the cells that failed meanwhile. -/
def State.panelReady (s : State) (p : Nat) : State :=
  match s.power.pending.find? (fun x => x.1 == p) with
  | none => s
  | some (_, set) =>
    let s : State := { s with power := { s.power with pending := s.power.pending.filter fun x => x ≠ (p, set) } }
    let s := s.mapPanel p fun x => x.switchOn p set
    let s := if s.tick.running then s.seamAlign p else s
    let soft := (s.panel p).softCells
    let s := s.mapPanel p fun x => { x with softCells := [] }
    let s := soft.foldl (fun s c => s.ladder p c.1 c.2) s
    (s.applyClock p).settleSwitch

/-- PANEL_READY (R427). -/
def execPanelReady (panel : Nat) (s : State) : Host.Outcome State Fault Refusal :=
  onUnit (panelOk panel) s fun s => s.panelReady panel

/-! ### Bivouac and wake (R433, R434, R437) -/

/-- A power command that does not apply in the state (R437). -/
def State.ignorePower (s : State) (cmd : Nat) : State :=
  let st := match s.power.state with
    | .standby => 0
    | .pitching => 1
    | .running => 2
    | .entering => 3
    | .bivouac => 4
    | .waking => 5
    | .stopping => 6
  let s : State := { s with power := { s.power with sticky := s.power.sticky ||| 0b100#3, seq := s.errors.nextSeq } }
  s.raise { code := 0x0809, cls := .note, loc := moduleLoc, arg0 := cmd, arg1 := st }

/-- A BIVOUAC or WAKE block (R397): CTYPE, MODE, tick, sender's serial, group. -/
def powerBlock (ctype mode tick modid gid : Nat) : Block :=
  BitVec.ofNat 512 (ctype + mode * 2 ^ 8 + tick * 2 ^ 32 + modid * 2 ^ 96 + gid * 2 ^ 160)

/-- Sends a BIVOUAC or WAKE block on group links that a test selects. -/
def State.sendPower (s : State) (ctype mode tick : Nat) (sel : Nat → Bool) : State :=
  (s.groupLinks.filter sel).foldl (fun s l => s.guyControl l (powerBlock ctype mode tick s.flash.modId.toNat s.gid)) s

/-- The tick at whose release a module in a group that is asked to enter bivouac stops: that of the last cohort with rows
in flight (R396, R433). -/
def State.lastRowTick (s : State) : Nat :=
  (s.flying.filter fun c => !c.rows.isEmpty).foldl (fun m c => max m (c.n + s.stageCount - 1)) s.tick.n

/-- Entry to bivouac begins (R396, R433). -/
def State.enterBivouac (s : State) : State :=
  let s : State := { s with power := { s.power with state := .entering, waited := 0 } }
  if !s.chained then s
  else
    let t := s.lastRowTick
    ({ s with power := { s.power with groupStop := some t } } : State).sendPower 2 0 t fun _ => true

/-- A wake begins, or an entry whose ticks still run is given up (R434). -/
def State.wakeNow (s : State) (staggered : Bool) : State :=
  if s.power.state = .entering ∧ s.tick.running then
    { s with power := { s.power with state := .running, groupStop := none } }
  else { s with power := { s.power with
    state := .waking, groupStop := none, startAt := some (if staggered then s.slotAt else s.time) } }

/-- May the module wake? -/
def State.mayWake (s : State) : Bool := s.power.state == .bivouac || s.power.state == .entering

/-- A wake asked for here: the group is told first (R397). -/
def State.wakeGroup (s : State) (staggered : Bool) : State :=
  (if s.chained then s.sendPower 3 (if staggered then 1 else 0) s.tick.n fun _ => true else s).wakeNow staggered

end Sys2Proof.Machine
end

