-- ==== Sys2Proof/Machine/Thermal.lean ====
section
/-! DEFINITION. Cooling and calibration (R438 to R456, R514 to R516): the thermal ladder, the thermal trip, coolant reports
and trips, the operator key's message, and calibration. Temperatures are in units of 0.25 °C. -/

namespace Sys2Proof.Machine

/-! ### Protective trips and the thermal trip (R447, R448) -/

/-- ALERT_N is asserted (R555). -/
def State.alertN (s : State) : Bool := s.errors.alert || s.errors.sticky.getLsbD 0 || s.errors.sticky.getLsbD 1

/-- Sensors that have stood above a limit: each with its first sample above it. -/
def aboveSince (now : Nat) (old : List (Nat × Nat)) (hot : List Nat) : List (Nat × Nat) := hot.map fun i => (i, getK old i now)

/-- A panel's readings, without its excluded sensors. -/
def PanelState.live (x : PanelState) : List (Nat × Int) := x.temps.filter fun t => !x.excluded.contains t.1

/-- The core clocks of the whole module stop (R447); a calibration is abandoned. -/
def State.thermalTrip (s : State) (p sensor : Nat) (reading : Int) (watts : Nat) : State :=
  let seq := s.errors.nextSeq
  let busy := s.calib.running.isSome
  let s : State := { s with
    thermal := { s.thermal with trip := true, tripAt := s.time, tripClear := none, sticky := true, seq := seq }
    power := { s.power with thermCeil := watts, ballast := 0 }
    calib := if busy then { s.calib with running := none, scheduled := false } else s.calib
    panels := s.panels.map fun e => (e.1, { e.2 with ballast := 0 }) }
  let s := if busy then s.liftHold 1 else s
  s.raise { code := 0x0907, cls := .degraded, kind := 9, loc := panelIndexLoc p sensor, arg0 := reading.toNat }

/-- Did the tray report coolant outside R25? -/
def State.coolantBad (s : State) : Bool := match s.thermal.coolant with
  | some (i, _, f) => !s.thermal.coolLost && (decide (i < 200) || decide (400 < i) || decide (f < 300))
  | none => false

/-- The trip ends: clocks restart, the deadline has moved by its length, every panel records STRETCH. -/
def State.endTrip (s : State) : State :=
  let from_ := s.thermal.tripAt
  let frozen := s.freeze.state == .frozen || s.freeze.state == .dead
  let len := (if frozen then max from_ s.freeze.since else s.time) - from_
  let unplanned := s.loaded.isSome && !s.coolantBad
  { s with
    thermal := { s.thermal with trip := false, tripClear := none }
    tick := { s.tick with deadlineShift := s.tick.deadlineShift + len }
    errors := if unplanned then { s.errors with unavailMs := min (s.errors.unavailMs + (s.time - from_) / msNs) 0xFFFFFFFF } else s.errors
    panels := s.panels.map fun e => (e.1, { e.2 with causes := e.2.causes ||| 1#8 }) }

/-! ### The ladder (R444 to R446) -/

/-- Step 1: the thermal ceiling. -/
def State.step1 (s : State) (fs : List (Nat × Int)) (watts : Nat) : State :=
  let t := s.thermal
  if fs.any fun f => 380 < f.2 then
    let c := min s.power.thermCeil watts - 250
    let s : State := { s with power := { s.power with thermCeil := c }, thermal := { t with step1 := true, step1Rise := s.time } }
    s.raiseEvery (60 * secNs) (0x0904, 0) { code := 0x0904, cls := .note, loc := moduleLoc, arg0 := c }
  else if fs.all fun f => f.2 < 372 then
    let other := min (min s.power.ceil s.convCeil) (min (960 * s.power.vin / 100) 28000)
    if s.power.thermCeil ≥ 28000 then { s with thermal := { t with step1 := false } }
    else if s.time < t.step1Rise + 10 * msNs then { s with thermal := { t with step1 := false } }
    else
      let c := s.power.thermCeil + 250
      { s with
        power := { s.power with thermCeil := if other ≤ c then 28000 else c }
        thermal := { t with step1 := false, step1Rise := s.time } }
  else s

/-- The highest thermal clock cap of a panel: 1,425 MHz where three sensors are excluded (R455). -/
def PanelState.thermTop (x : PanelState) : Nat := if 3 ≤ x.excluded.length then 57 else 76

/-- Step 2: a panel's thermal clock cap. -/
def State.step2 (s : State) (p : Nat) (f : Int) : State :=
  let x := s.panel p
  if 400 < f then
    let c := max 19 (x.capTherm - 1)
    let s := (s.setPanel p { x with capTherm := c }).applyClock p
    let s : State := { s with thermal := { s.thermal with cool := delK s.thermal.cool p } }
    s.raiseEvery (60 * secNs) (0x0905, p) { code := 0x0905, cls := .note, kind := 2, loc := panelLoc p, arg0 := c, arg1 := f.toNat }
  else
    match s.thermal.cool.find? (fun c => c.1 == p) with
    | none =>
      if f < 380 ∧ x.capTherm < x.thermTop then { s with thermal := { s.thermal with cool := s.thermal.cool ++ [(p, s.time)] } } else s
    | some (_, t) =>
      if s.time < t + msNs then s
      else if x.thermTop ≤ x.capTherm then { s with thermal := { s.thermal with cool := delK s.thermal.cool p } }
      else
        let s : State := { s with thermal := { s.thermal with cool := putK s.thermal.cool p s.time } }
        (s.setPanel p { x with capTherm := x.capTherm + 1 }).applyClock p

/-- Step 3's canopies: each with its hottest panel, and since when all its forecasts have been below 95 °C. -/
def State.step3 (s : State) (fs : List (Nat × Int)) : State :=
  let one (old : List (Nat × Nat × Option Nat)) (c : Nat) : List (Nat × Nat × Option Nat) :=
    let mine := fs.filter fun f => canopyOf f.1 == c
    let hot := (sortBy (fun (a b : Nat × Int) => decide (b.2 < a.2)) mine).head?
    let rest := old.filter fun x => x.1 ≠ c
    let cool := mine.all fun f => f.2 < 380
    match old.find? (fun x => x.1 == c) with
    | none => match hot with
      | some (p, f) => if 420 < f then old ++ [(c, p, none)] else old
      | none => old
    | some (_, hp, since) =>
      let hp := match hot with
        | some (p, f) => if 420 < f then p else hp
        | none => hp
      if !cool then rest ++ [(c, hp, none)] else rest ++ [(c, hp, some (since.getD s.time))]
  { s with thermal := { s.thermal with step3 := (List.range 4).foldl one s.thermal.step3 } }

/-- Has every forecast of a canopy in step 3 been below 95 °C for 100 ms? -/
def State.step3Over (s : State) (c : Nat) : Bool := s.thermal.step3.any fun x => x.1 == c && (match x.2.2 with
  | some t => decide (t + 100 * msNs ≤ s.time)
  | none => false)

/-- Panels eligible for step 3: running, with no core assigned (R445). -/
def State.step3Eligible (s : State) (p : Nat) : Bool :=
  let x := s.panel p
  (x.dom.get VLOG).on && x.ready && !x.wentDark && !s.assigned.any fun a => a.1.panel == p

/-- Switches a panel's compute domain off for heat, with its records (R53, R445). -/
def State.regionOff (s : State) (p : Nat) : State :=
  let s := s.mapPanel p fun x =>
    { (x.setDom VLOG false 0).setDom VMIF false 0 with ready := false, heatOff := true, ballast := 0, pstate := .off }
  let s : State := { s with thermal := { s.thermal with offOrder := s.thermal.offOrder ++ [p], lastOff := s.time } }
  let n := (s.thermal.offOrder.filter fun q => canopyOf q == canopyOf p).length
  let s := s.raise { code := 0x0906, cls := .note, loc := canopyLoc (canopyOf p), count := n }
  s.raise { code := 0x0105, cls := .note, kind := 2, loc := panelLoc p }

/-- At most one panel of step 3 goes off, or asks to be switched on again (R445, R446). -/
def State.step3Act (s : State) : State :=
  let distance (a b : Nat) : Nat := (pcolOf a - pcolOf b) + (pcolOf b - pcolOf a) + (prowOf a - prowOf b) + (prowOf b - prowOf a)
  let back := s.thermal.offOrder.filter fun p =>
    s.step3Over (canopyOf p) || !s.thermal.step3.any (·.1 == canopyOf p)
  match back with
  | p :: _ =>
    let s : State := { s with
      thermal := { s.thermal with offOrder := s.thermal.offOrder.filter (· ≠ p), lastOff := s.time }
      power := { s.power with queue := s.power.queue ++ [(p, .vlog)] } }
    if s.thermal.offOrder.any fun q => canopyOf q == canopyOf p then s
    else { s with thermal := { s.thermal with step3 := s.thermal.step3.filter fun x => !s.step3Over x.1 } }
  | [] =>
    let s : State := { s with thermal := { s.thermal with step3 := s.thermal.step3.filter fun x => !s.step3Over x.1 } }
    match s.thermal.step3.find? (fun x => x.2.2.isNone) with
    | none => s
    | some (c, hp, _) =>
      let cand := ((List.range 96).map fun i => c * 96 + i).filter s.step3Eligible
      match (sortBy (fun a b => decide (distance a hp < distance b hp)) cand).head? with
      | some p => s.regionOff p
      | none => s

/-- Step 3 acts at releases while ticks run, and at samples 100 µs apart while no package is loaded. -/
def State.step3Idle (s : State) : State :=
  if s.loaded.isSome || s.power.state != .running || decide (s.time < s.thermal.lastOff + 100000) then s else s.step3Act

/-- THERMAL_SAMPLE's effect (R442 to R448). -/
def State.thermalSample (s : State) (t : ThermSample) : State :=
  if !s.powered || s.power.state == .standby then s
  else
    let s := t.sensors.foldl (fun s r => s.mapPanel r.1 fun x => { x with temps := putK x.temps r.2.1 r.2.2 }) s
    let hot := t.forecasts.foldl (fun m f => max m (f.2 / 4).toNat) 0
    let s : State := { s with
      thermal := { s.thermal with hot := min hot 255 }
      panels := s.panels.map fun e => (e.1, { e.2 with
        overSince := aboveSince s.time e.2.overSince ((e.2.live.filter fun r => 460 < r.2).map (·.1))
        tripSince := aboveSince s.time e.2.tripSince ((e.2.live.filter fun r => 420 < r.2).map (·.1)) }) }
    let burn := s.panels.flatMap fun e => (e.2.overSince.filter fun r => decide (r.2 + 100000 ≤ s.time)).map fun r => (e.1, r.1)
    match burn with
    | (p, i) :: _ =>
      (s.raise { code := 0x0908, cls := .fatal, kind := 9, loc := panelIndexLoc p i, arg0 := (getK (s.panel p).temps i 0).toNat }).loseAll
    | [] =>
      let s := s.step1 t.forecasts t.power
      let s := t.forecasts.foldl (fun s f => s.step2 f.1 f.2) s
      let s := (s.step3 t.forecasts).step3Idle
      let long := s.panels.flatMap fun e => (e.2.tripSince.filter fun r => decide (r.2 + msNs ≤ s.time)).map fun r => (e.1, r.1)
      let cold := s.panels.all fun e => e.2.live.all fun r => r.2 < 360
      if s.thermal.trip then
        if !cold then { s with thermal := { s.thermal with tripClear := none } }
        else
          let since := s.thermal.tripClear.getD s.time
          if since + 100 * msNs ≤ s.time then s.endTrip else { s with thermal := { s.thermal with tripClear := some since } }
      else match long with
        | (p, i) :: _ => s.thermalTrip p i (getK (s.panel p).temps i 0) t.power
        | [] => s

/-- THERMAL_SAMPLE (R442 to R448). -/
def execThermalSample (t : ThermSample) (s : State) : Host.Outcome State Fault Refusal :=
  onUnit True s fun s => s.thermalSample t

/-! ### The tray (R439 to R441, R514 to R516) -/

/-- STATE of GOV_STATUS (R436). -/
def PowerState.num : PowerState → Nat
  | .standby => 0
  | .pitching => 1
  | .running => 2
  | .entering => 3
  | .bivouac => 4
  | .waking => 5
  | .stopping => 6

/-- Is a coolant report valid (R515)? -/
def State.reportOk (s : State) (m : Nat) (pec : Bool) : Bool :=
  pec && bitsOf m 7 0 == 1 && s.thermal.coolSeq != some (bitsOf m 15 8) && bitsOf m 66 64 == 7 && decide (bitsOf m 31 16 < 1024) &&
    decide (bitsOf m 47 32 < 1024) && decide (bitsOf m 63 48 < 1024) && bitsOf m 71 67 == 0

/-- The status message that answers a report (R516). -/
def State.trayStatus (s : State) (seq : Nat) (valid : Bool) : DWord :=
  BitVec.ofNat 64 (0x81 + seq * 2 ^ 8 + s.power.pin % 2 ^ 16 * 2 ^ 16 + s.power.state.num * 2 ^ 32 + (if valid then 2 ^ 36 else 0) +
    (if s.alertN then 2 ^ 37 else 0) + s.thermal.hot % 256 * 2 ^ 40)

/-- A valid reading: the model's inlet and flow, the end of COOLANT_DATA_LOST, the flow trip (R439, R440, R448). -/
def State.takeCoolant (s : State) (inlet outlet flow : Nat) : State :=
  let lost := s.thermal.coolLost
  let s : State := { s with thermal := { s.thermal with
    coolant := some (inlet, outlet, flow), coolAt := s.time, coolLost := false
    lowFlowSince := if flow < 150 then some (s.thermal.lowFlowSince.getD s.time) else none } }
  let s := if lost then s.raise { code := 0x0902, cls := .note, loc := moduleLoc } else s
  match s.thermal.lowFlowSince with
  | some t =>
    if t + secNs ≤ s.time ∧ s.power.state ≠ .standby then
      (s.raise { code := 0x0909, cls := .fatal, loc := moduleLoc, arg0 := flow }).loseAll
    else s
  | none => s

/-- COOLANT_REPORT (R439, R440, R448, R514 to R516). -/
def execCoolantReport (msg : BitVec 72) (pec : Bool) (s : State) : Host.Outcome State Fault Refusal :=
  onUnit True s fun s =>
    let m := msg.toNat
    if bitsOf m 7 0 ≠ 1 then s
    else
      let ok := s.reportOk m pec
      let s : State := { s with thermal := { s.thermal with coolSeq := if pec then some (bitsOf m 15 8) else s.thermal.coolSeq } }
      let s := if ok then s.takeCoolant (bitsOf m 31 16) (bitsOf m 47 32) (bitsOf m 63 48) else s
      { s with mgmt := { s.mgmt with tray := s.mgmt.tray ++ [s.trayStatus (bitsOf m 15 8) ok] } }

/-- COOLANT_DATA_TIMEOUT (R440): no valid reading for 1 s. -/
def execCoolantDataTimeout (s : State) : Host.Outcome State Fault Refusal :=
  onUnit True s fun s =>
    if s.thermal.coolLost || decide (s.time < s.thermal.coolAt + secNs) then s
    else
      ({ s with thermal := { s.thermal with coolLost := true, lowFlowSince := none } } : State).raise
        { code := 0x0901, cls := .degraded, loc := moduleLoc }

/-- COOLANT_BALANCE_CHECK (R441): the heat carried away against the mean input power of the last second. -/
def execCoolantBalanceCheck (watts : Nat) (s : State) : Host.Outcome State Fault Refusal :=
  onUnit True s fun s =>
    match s.thermal.coolant with
    | some (i, o, f) =>
      if s.thermal.coolLost then s
      else
        let heat := f * (o - i) * 4120 / 6000
        let off := decide (watts < 4 * (heat - watts)) || decide (watts < 4 * (watts - heat))
        let n := if off then s.thermal.balanceBad + 1 else 0
        let s : State := { s with thermal := { s.thermal with balanceBad := n } }
        if 10 ≤ n then s.raiseEvery hourNs (0x0903, 0) { code := 0x0903, cls := .note, loc := moduleLoc, arg0 := heat, arg1 := watts } else s
    | none => s

/-- OPERATOR_KEY_SET (R509, R516). -/
def execOperatorKeySet (msg : BitVec 272) (flashOk : Bool) (s : State) : Host.Outcome State Fault Refusal :=
  onUnit True s fun s =>
    let m := msg.toNat
    if bitsOf m 7 0 ≠ 2 then s
    else
      let status := if s.flash.opKey.isSome then 1 else if flashOk && s.mgmt.running then 0 else 2
      { s with
        flash := if status = 0 then { s.flash with opKey := some (BitVec.ofNat 256 (bitsOf m 263 8)) } else s.flash
        mgmt := { s.mgmt with tray := s.mgmt.tray ++ [BitVec.ofNat 64 (0x82 + status * 2 ^ 8)] } }

/-! ### Calibration (R449 to R455) -/

/-- How far canopies are from their references. -/
def State.calDrift (s : State) : List Nat := List.zipWith (fun a b => (a - b).natAbs) s.calib.temps s.calib.refs

/-- May calibrations be evaluated and run: not in bivouac or on the way there, nor frozen or tripped? -/
def State.calMay (s : State) : Bool := s.power.state == .running && !s.clocksStopped

/-- CAL_TRIGGER_EVAL's effect (R450, R451): a calibration becomes due, and a due one is scheduled. -/
def State.calTrigger (s : State) (temps : List Int) : State :=
  let s : State := { s with calib := { s.calib with temps := temps } }
  if !s.calMay then s
  else
    let d := s.calDrift
    let mask := (List.range 4).foldl (fun m c => m + if s.calib.thresh * 4 ≤ d.getD c 0 then 2 ^ c else 0) 0
    let forced := d.any fun x => 48 ≤ x
    let s : State := { s with calib := { s.calib with dueMask := mask } }
    let s := if s.calib.due.isNone && mask != 0 then
        ({ s with calib := { s.calib with due := some s.time, dueSeq := s.errors.nextSeq } } : State).raise
          { code := 0x090A, cls := .note, loc := moduleLoc, arg0 := mask }
      else s
    match s.calib.due with
    | none => s
    | some t =>
      if s.calib.scheduled || s.calib.running.isSome || decide (s.time < s.calib.notBefore) then s
      else if forced then
        { s with calib := { s.calib with scheduled := true, forced := true, sticky := s.calib.sticky ||| 0b01#2, seq := s.calib.dueSeq } }
      else if s.loaded.isNone || s.tick.stoppedAt.isSome || decide (t + s.calib.defer * msNs ≤ s.time) then
        { s with calib := { s.calib with scheduled := true } }
      else s

/-- CAL_TRIGGER_EVAL (R450, R451). -/
def execCalTriggerEval (temps : List Int) (s : State) : Host.Outcome State Fault Refusal :=
  onUnit True s fun s => s.calTrigger temps

/-- NOW: a calibration is scheduled at once (R451). -/
def State.calNow (s : State) : State :=
  { s with calib := { s.calib with due := some (s.calib.due.getD s.time), scheduled := true } }

/-- CAL_NOW (R451). -/
def execCalNow (s : State) : Host.Outcome State Fault Refusal := onUnit True s fun s => s.calNow

/-- May a scheduled calibration start (R452): past the tick's start plus T less 240 ns and its last stage-done, or with no
tick in motion? -/
def State.calReady (s : State) : Bool :=
  s.calib.scheduled && s.calib.running.isNone && s.calMay && decide (s.calib.notBefore ≤ s.time) &&
    (match s.loaded with
      | none => true
      | some l => !s.tick.running || (decide (s.tick.start + l.t - 240 ≤ s.time) && s.allDone))

/-- CALIBRATION_START (R452). -/
def execCalibrationStart (s : State) : Host.Outcome State Fault Refusal :=
  onUnit True s fun s =>
    if !s.calReady then s
    else
      let s : State := { s with calib := { s.calib with running := some s.time, scheduled := false } }
      if s.loaded.isSome then s.placeHold 1 else s

/-- Do the canopies' readings of REFV agree with it and each other (R454)? Units of 0.1 mV. -/
def refvOk (rs : List Nat) : Bool :=
  rs.all (fun r => decide (11760 ≤ r) && decide (r ≤ 12240)) && rs.all fun a => rs.all fun b => decide (a ≤ b + 60)

/-- A sensor that departs from its panel's others is excluded (R455). -/
def State.excludeSensor (s : State) (p i : Nat) : State :=
  let x := s.panel p
  if x.excluded.contains i then s
  else
    let s := (s.setPanel p { x with excluded := x.excluded ++ [i] }).raise
      { code := 0x090D, cls := .note, kind := 9, loc := panelIndexLoc p i }
    let n := x.excluded.length + 1
    if n < 3 then s
    else
      let s := (s.mapPanel p fun x => { x with capTherm := min x.capTherm 57 }).applyClock p
      if n = 3 then s.raise { code := 0x090E, cls := .degraded, kind := 9, loc := panelLoc p, count := n } else s

/-- The constants of a good calibration applied: references, ρ, outliers, bond reports armed again (R413, R449 to R455). -/
def State.applyCal (s : State) (c : CalResult) : State :=
  let forced := s.calib.forced
  let s : State := { s with calib := { s.calib with refs := c.temps, temps := c.temps, due := none, dueMask := 0, forced := false } }
  let s := c.rho.foldl (fun s r => s.mapPanel r.1 fun x => { x with
    dom := x.dom.setIfInBounds r.2.1 { x.dom.toList.getD r.2.1 {} with rho := putK (x.dom.toList.getD r.2.1 {}).rho r.2.2.1 r.2.2.2 } }) s
  let s : State := { s with panels := s.panels.map fun e => (e.1, { e.2 with
    dom := e.2.dom.map fun d => { d with bond := d.bond.filter fun b => b ∉ d.bondArmed, bondArmed := [] } }) }
  let s := c.outliers.foldl (fun s o => s.excludeSensor o.1 o.2) s
  s.raise { code := 0x090B, cls := .note, loc := moduleLoc, arg0 := c.us, arg1 := if forced then 1 else 0 }

/-- CAL_DONE's effect (R453 to R455). -/
def State.calDone (s : State) (c : CalResult) : State :=
  if s.calib.running.isNone then s
  else
    let s : State := { s with calib := { s.calib with running := none } }
    let s := if refvOk c.refv then s.applyCal c
      else
        let r (i : Nat) : Nat := c.refv.getD i 0 % 65536
        let s : State := { s with calib := { s.calib with
          notBefore := s.time + 60 * secNs, forced := false, sticky := s.calib.sticky ||| 0b10#2, seq := s.errors.nextSeq } }
        s.raise { code := 0x090C, cls := .degraded, loc := moduleLoc, arg0 := r 0 + r 1 * 2 ^ 16 + r 2 * 2 ^ 32 + r 3 * 2 ^ 48 }
    (s.liftHold 1).retryTrims

/-- CAL_DONE (R453 to R455). -/
def execCalDone (c : CalResult) (s : State) : Host.Outcome State Fault Refusal := onUnit True s fun s => s.calDone c

end Sys2Proof.Machine
end

