-- ==== Sys2Proof/Machine/Guy.lean ====
section
/-! DEFINITION. What arrives over guy links and what their timers do: sequence, acknowledgement and retry (R377 to R388),
stage frames (R390), shard exchanges (R357, R391, R392), tick markers (R230 to R232, R393, R394), training (R398 to R401),
and the control blocks of a tick group (R395 to R397, R469). -/

namespace Sys2Proof.Machine

/-! ### Counters and training (R398, R402) -/

/-- Adds to one of the eleven counters of R402. -/
def Guy.count (g : Guy) (i : Fin 11) (n : Nat) : Guy := { g with counters := g.counters.set i ((g.counters.get i + n) % 2 ^ 64) }

def cntUncorr : Fin 11 := 1
def cntCrc : Fin 11 := 2
def cntNaks : Fin 11 := 3
def cntRetx : Fin 11 := 4
def cntDeferred : Fin 11 := 5
def cntFast : Fin 11 := 6
def cntFull : Fin 11 := 7
def cntLanes : Fin 11 := 8
def cntCredit : Fin 11 := 9
def cntRepeats : Fin 11 := 10

def Guy.fast (g : Guy) : Guy := { g.count cntFast 1 with training := .fast }
def Guy.full (g : Guy) : Guy := { g.count cntFull 1 with training := .full }

/-! ### Shards over a link (R355, R357, R391, R392) -/

/-- A relay after an attempt at its primary or secondary source failed. -/
def Relay.missed (r : Relay) (second : Bool) : Relay :=
  if second then { r with tries1 := r.tries1 + 1 } else { r with tries0 := r.tries0 + 1 }

/-- Every fetch and relay that waits on a link for a digest meets a failed attempt. -/
def State.failDigest (s : State) (l : Nat) (dg : BitVec 256) : State :=
  let s := s.weights.fetches.foldl (fun s f =>
    if f.failed ∨ f ∉ s.weights.fetches then s
    else match s.sourceNow f.tries0 f.tries1, s.fetchRec f with
      | some (second, .guy l'), some r => if l' = l ∧ r.digest = dg then s.attemptFails f second State.loadFails else s
      | _, _ => s) s
  let miss (r : Relay) : Relay :=
    if r.digest ≠ dg ∨ r.got.isSome ∨ r.failed then r
    else
      match s.sourceNow r.tries0 r.tries1 with
      | some (second, .guy l') => if l' = l then r.missed second else r
      | _ => r
  { s with weights := { s.weights with relays := s.weights.relays.map miss } }

/-- A relay's attempts at host sources, which need no answer of a partner; none left fails it. -/
def State.relayTry (s : State) : Nat → Relay → Relay
  | 0, r => r
  | n + 1, r =>
    if r.got.isSome ∨ r.failed then r
    else
      match s.sourceNow r.tries0 r.tries1 with
      | none => { r with failed := true }
      | some (_, .guy _) => r
      | some (second, .host a size) =>
        match s.hostShard a size r.digest with
        | some bs => if digestOf bs = r.digest then { r with got := some bs } else s.relayTry n (r.missed second)
        | none => s.relayTry n (r.missed second)
      | some (_, .empty) => { r with failed := true }

/-- The blocks of a shard's bytes, the last padded with zeros. -/
def shardBlocks (bs : List Byte) : List Block :=
  (List.range (ceilDiv bs.length 64)).map fun i =>
    let b := (bs.drop (64 * i)).take 64
    blockOfBytes (b ++ List.replicate (64 - b.length) 0#8)

/-- Sends blocks as BULK frames of at most 64, the last with LAST; `n` bounds the frames. -/
def State.sendBulk (l chan : Nat) : Nat → List Block → State → State
  | 0, _, s => s
  | n + 1, bs, s =>
    if bs.length ≤ 64 then s.guySend l typBulk true chan 0 bs.length bs
    else State.sendBulk l chan n (bs.drop 64) (s.guySend l typBulk false chan 0 64 (bs.take 64))

/-- SHARD_DATA for a request. -/
def State.sendShard (s : State) (l chan : Nat) (dg : BitVec 256) (bs : List Byte) : State :=
  let s := s.guySend l typBulk false chan 0 1 [bulkBlock 2 bs.length dg]
  State.sendBulk l chan bs.length (shardBlocks bs) s

/-- Answers a link's requests in order, as far as they can be answered; `n` bounds them. -/
def State.answerLink (l : Nat) : Nat → State → State
  | 0, s => s
  | n + 1, s =>
    match (s.guy l).answers with
    | [] => s
    | (refused, q) :: rest =>
      let next (s : State) : State := State.answerLink l n (s.mapGuy l fun g => { g with answers := rest })
      let notHeld (s : State) : State := s.guySend l typBulk true q.chan 0 1 [bulkBlock 3 0 q.digest]
      let mine (r : Relay) : Bool := r.link == l && r.chan == q.chan
      if refused then next (notHeld s)
      else
        match s.heldShard q.digest with
        | some bs => next ({ s.sendShard l q.chan q.digest bs with weights := { s.weights with relays := s.weights.relays.filter fun r => !mine r } })
        | none =>
          match s.weights.relays.find? mine with
          | none => next (notHeld s)
          | some r =>
            let s' : State := { s with weights := { s.weights with relays := s.weights.relays.filter fun r => !mine r } }
            match r.got with
            | some bs => next (s'.sendShard l q.chan q.digest bs)
            | none => if r.failed then next (notHeld s') else s

/-- Relays go on, links are asked, and what can be answered is. -/
def State.settleRelays (s : State) : State :=
  let s : State := { s with weights := { s.weights with relays := s.weights.relays.map (s.relayTry 6) } }
  let s := s.pumpFetches
  (List.range 8).foldl (fun s l => State.answerLink l (s.guy l).answers.length s) s

/-- A link goes down: the requests outstanding on it are failed attempts (R392). -/
def State.failRequests (s : State) (l : Nat) : State :=
  let rs := (s.guy l).requests
  let s := s.mapGuy l fun g => { g with requests := [], incoming := none, answers := [] }
  let s : State := { s with weights := { s.weights with relays := s.weights.relays.filter fun r => r.link ≠ l } }
  (rs.foldl (fun s r => s.failDigest l r.digest) s).settleRelays

/-- A full training begins: the link is down until its HELLO. -/
def State.fullTraining (s : State) (l : Nat) : State := (s.mapGuy l Guy.full).failRequests l

/-! ### Retry (R382 to R385) -/

/-- Does the retry ration let a link retransmit (R384)? -/
def State.retryOk (s : State) (l : Nat) : Bool :=
  s.loaded.isNone || s.power.state == .bivouac || s.rationOk (guyPanel l) ratGuy

/-- Retransmits go-back-N from where the link was rewound to; `n` bounds the frames. -/
def State.retransmit (l : Nat) : Nat → State → State
  | 0, s => s
  | n + 1, s =>
    let g := s.guy l
    match g.rewind with
    | none => s
    | some i =>
      if !g.up then s
      else
        match g.retry[i]? with
        | none => s.mapGuy l fun g => Guy.pump s.time g.waiting.length { g with rewind := none }
        | some e =>
          if e.times ≥ 16 then s.mapGuy l Guy.fast
          else if g.lowRate && !lowRateOk e.frame then s
          else if !s.retryOk l then s.mapGuy l fun g => g.count cntDeferred (g.retry.length - i)
          else
            let f := e.frame
            let h := headerOf (fType f) e.seq g.ackOut false (fNb f) (fLast f) (fChan f) (fTag f) 0 0
            let s := s.mapGuy l fun g =>
              { g.count cntRetx 1 with
                out := g.out ++ [sealFrame h f.blocks], owesAck := false, lastTxAt := s.time, rewind := some (i + 1)
                retxSecond := g.retxSecond + 1, retry := g.retry.set i { e with times := e.times + 1 } }
            let s := if s.loaded.isNone || s.power.state == .bivouac then s else s.charge (guyPanel l) ratGuy 1
            State.retransmit l n s

/-- A link rewound: retransmission, with GUY_RETRY at most once a second (R402). -/
def State.resend (s : State) (l : Nat) : State :=
  let s := State.retransmit l ((s.guy l).retry.length + 1) s
  let g := s.guy l
  if g.retxSecond = 0 then s
  else
    let t := s.raiseEvery secNs (0x0705, l) { code := 0x0705, cls := .corrected, kind := 5, loc := guyLoc l, count := g.retxSecond
                                              arg0 := l, arg1 := g.partner }
    if t.errors.nextSeq = s.errors.nextSeq then t else t.mapGuy l fun g => { g with retxSecond := 0 }

/-- Retransmissions deferred to this release, and frames that waited (R384). -/
def State.resumeLinks (s : State) : State :=
  (List.range 8).foldl (fun s l => if (s.guy l).rewind.isSome then s.resend l else s) s

/-- An acknowledged frame and those before it leave the retry buffer. -/
def Guy.acked (g : Guy) (now ack : Nat) : Guy :=
  match g.retry.findIdx? (fun e => e.seq == ack) with
  | none => g
  | some i => { g with retry := g.retry.drop (i + 1), lastAckAt := now, rewind := g.rewind.map fun j => j - (i + 1) }

/-- What every header of a frame that passes its CRC says: ACK, returned credit, NAK (R379, R383). -/
def State.rxHeader (s : State) (l : Nat) (f : Frame) : State :=
  let c := fCcl f
  let s := s.mapGuy l fun g =>
    let g := g.acked s.time (fAck f)
    { g with credits := g.credits.setIfInBounds c (g.credits.toList.getD c 0 + fCredit f) }
  let s := if fNak f && !(s.guy l).retry.isEmpty then
      (s.mapGuy l fun g => { g with rewind := some 0, lastAckAt := s.time }).resend l
    else if (s.guy l).rewind.isSome then s.resend l else s
  s.mapGuy l fun g => Guy.pump s.time g.waiting.length g

/-- One NAK for a gap (R382). -/
def Guy.nakOnce (g : Guy) (now : Nat) : Guy :=
  if g.nakSent then g else { (g.sendLink now true none).count cntNaks 1 with nakSent := true }

/-- A frame whose blocks exceed the credits granted (R387). -/
def State.creditError (s : State) (l : Nat) (f : Frame) : State :=
  let s := (s.mapGuy l fun g => g.count cntCredit 1).raise
    { code := 0x0701, cls := .degraded, kind := 5, loc := guyLoc l, arg0 := l + classOf (fType f) * 2 ^ 8, arg1 := (s.guy l).partner }
  s.fullTraining l

/-- A frame as the receiver takes it: whether a sequenced frame was accepted, or a LINK frame passed (R377, R382). -/
def State.rxFrame (s : State) (l : Nat) (f : Frame) : State × Bool :=
  let g := s.guy l
  if !g.up then (s, false)
  else if !crcOk f then
    let s := s.mapGuy l fun g => g.count cntCrc 1
    (if fType f = typLink then s else s.mapGuy l fun g => g.nakOnce s.time, false)
  else if !headerOk f then (s, false)
  else if fType f = typLink then (s.rxHeader l f, true)
  else
    let s := s.rxHeader l f
    let ahead := (fSeq f + 4096 - g.expect) % 4096
    if ahead ≠ 0 then
      (if ahead < 2048 then s.mapGuy l fun g => g.nakOnce s.time else s.mapGuy l fun g => { g with owesAck := true }, false)
    else
      let i := classOf (fType f)
      let n := frameBlocks f
      if (s.guy l).granted.toList.getD i 0 < n then (s.creditError l f, false)
      else
        (s.mapGuy l fun g =>
          { g with
            expect := (g.expect + 1) % 4096, owesAck := true, nakSent := false
            granted := g.granted.setIfInBounds i (g.granted.toList.getD i 0 - n)
            freed := g.freed.setIfInBounds i (g.freed.toList.getD i 0 + n) }, true)

/-- A frame of a type whose first block passes a test: what it does once it is taken. -/
def State.onFrame (s : State) (l typ : Nat) (ok : Nat → Bool) (f : Frame) (k : Nat → State → State) : State :=
  let b := (f.blocks.head?.getD 0).toNat
  if fType f ≠ typ ∨ !ok b then s
  else
    let r := s.rxFrame l f
    if r.2 then k b r.1 else r.1

/-! ### STAGE frames (R380, R390) -/

/-- A flit of a STAGE frame with its route word rebuilt: multicast, class 0, the frame's CHAN, the router at panel-local
index 6 of the gateway. -/
def stageFlit (l : Nat) (f : Frame) (i : Nat) : Flit :=
  let nb := fNb f
  let k := gateRouter l 6
  let pay := if fTag f = 0 then 0 else bitsOf ((f.blocks.getD (nb + i / 16) 0).toNat / 2 ^ (32 * (i % 16))) 31 0
  { data := f.blocks.getD i 0
    side := sideBits 1 0 (siteCanopy k) (siteG k) (siteH k) (fChan f) 0 (i + 1 == nb) pay
    poisoned := false }

def State.takeStage (s : State) (l : Nat) (f : Frame) : State :=
  (List.range (fNb f)).foldl (fun s i => s.inject (gateRouter l 6) (stageFlit l f i)) s

/-- STAGE_FRAME (R380, R382, R390). -/
def execStageFrame (l : Nat) (fr : Frame) (s : State) : Host.Outcome State Fault Refusal :=
  onUnit (linkOk l) s fun s => s.onFrame l typStage (fun _ => true) fr fun _ s => s.takeStage l fr

/-! ### Acknowledgement (R383) -/

/-- GUY_ACK_FRAME (R383): a LINK frame with NB 0. -/
def execGuyAckFrame (l : Nat) (fr : Frame) (s : State) : Host.Outcome State Fault Refusal :=
  onUnit (linkOk l) s fun s => if fNb fr = 0 then s.onFrame l typLink (fun _ => true) fr fun _ s => s else s

/-- GUY_ACK_TIMEOUT (R383): ACK has not advanced for 4 µs with frames outstanding. -/
def execGuyAckTimeout (l : Nat) (s : State) : Host.Outcome State Fault Refusal :=
  onUnit (linkOk l) s fun s =>
    let g := s.guy l
    if !g.up || g.retry.isEmpty || decide (s.time < g.lastAckAt + 4000) then s
    else (s.mapGuy l fun g => { g with rewind := some 0, lastAckAt := s.time }).resend l

/-- ACK_IDLE_TIMER (R383). -/
def execAckIdleTimer (l : Nat) (s : State) : Host.Outcome State Fault Refusal :=
  onUnit (linkOk l) s fun s =>
    let g := s.guy l
    if g.owesAck && decide (g.lastTxAt + 1000 ≤ s.time) then s.mapGuy l fun g => g.sendLink s.time false none else s

/-- FRAME_CRC_ERROR (R382): a frame that fails its CRC or comes out of order; one that does neither is no error. -/
def execFrameCrcError (l : Nat) (fr : Frame) (s : State) : Host.Outcome State Fault Refusal :=
  onUnit (linkOk l) s fun s =>
    if crcOk fr && (fType fr == typLink || fSeq fr == (s.guy l).expect) then s else (s.rxFrame l fr).1

/-- UNCORRECTABLE_CODEWORD (R377): words are discarded up to the next frame a POINTER names; retry recovers the frames. -/
def execUncorrectableCodeword (l : Nat) (why : CodewordFault) (s : State) : Host.Outcome State Fault Refusal :=
  onUnit (linkOk l) s fun s => if why = .uncorrectable then s.mapGuy l fun g => g.count cntUncorr 1 else s

/-! ### Bulk messages (R357, R391, R392) -/

/-- A request for a shard: it joins the link's answers, refused outright where R392 says so. -/
def State.takeRequest (s : State) (l chan : Nat) (dg : BitVec 256) : State :=
  let pending := (s.guy l).answers.any fun a => a.2.chan == chan
  let refused := !(s.weights.serve.getLsbD l) || s.power.state == .bivouac || pending
  let s := s.mapGuy l fun g => { g with answers := g.answers ++ [(refused, ⟨chan, dg⟩)] }
  let sources := s.weights.src.get 0 != .empty || s.weights.src.get 1 != .empty
  let s := if refused || (s.heldShard dg).isSome || !sources then s
    else { s with weights := { s.weights with relays := s.weights.relays ++ [⟨l, chan, dg, 0, 0, none, false⟩] } }
  s.settleRelays

/-- SHARD_REQUEST (R357, R391, R392). -/
def execShardRequest (l : Nat) (fr : Frame) (s : State) : Host.Outcome State Fault Refusal :=
  onUnit (linkOk l) s fun s => s.onFrame l typBulk (fun b => b % 256 == 1) fr fun b s =>
    s.takeRequest l (fChan fr) (BitVec.ofNat 256 (bitsOf b 319 64))

/-- A whole answer with a shard: verified for every fetch and relay that asked for it. -/
def State.finishShard (s : State) (l chan size : Nat) (dg : BitVec 256) (bytes : List Byte) : State :=
  let s := s.mapGuy l fun g => { g with incoming := none }
  match (s.guy l).requests.find? (fun r => r.chan == chan) with
  | none => s
  | some q =>
    let s := s.mapGuy l fun g => { g with requests := g.requests.filter fun r => r.chan ≠ chan }
    let bs := bytes.take size
    if dg ≠ q.digest ∨ bytes.length ≠ 64 * ceilDiv size 64 ∨ digestOf bs ≠ dg then (s.failDigest l q.digest).settleRelays
    else
      let s := s.weights.fetches.foldl (fun s f =>
        if f.failed ∨ f ∉ s.weights.fetches then s
        else match s.sourceNow f.tries0 f.tries1, s.fetchRec f with
          | some (second, .guy l'), some r => if l' = l ∧ r.digest = dg then s.takeShard f second bs State.loadFails else s
          | _, _ => s) s
      let s : State := { s with weights := { s.weights with relays := s.weights.relays.map fun r =>
        if r.digest = dg ∧ !r.failed then { r with got := some bs } else r } }
      s.settleRelays

/-- One frame of a SHARD_DATA answer. -/
def State.takeData (s : State) (l : Nat) (f : Frame) : State :=
  let bytes := f.blocks.flatMap fun b => natLe 64 b.toNat
  match (s.guy l).incoming with
  | none =>
    let b := (f.blocks.head?.getD 0).toNat
    if b % 256 ≠ 2 then s
    else
      let size := bitsOf b 63 32
      let dg := BitVec.ofNat 256 (bitsOf b 319 64)
      if fLast f then s.finishShard l (fChan f) size dg (bytes.drop 64)
      else s.mapGuy l fun g => { g with incoming := some (fChan f, size, dg, bytes.drop 64) }
  | some (chan, size, dg, got) =>
    if fLast f then s.finishShard l chan size dg (got ++ bytes)
    else s.mapGuy l fun g => { g with incoming := some (chan, size, dg, got ++ bytes) }

/-- SHARD_DATA (R359, R391, R392): the frames of an answer, in order. -/
def execShardData (l : Nat) (frs : List Frame) (s : State) : Host.Outcome State Fault Refusal :=
  onUnit (linkOk l) s fun s => frs.foldl (fun s f =>
    if fType f ≠ typBulk then s
    else
      let r := s.rxFrame l f
      if r.2 then r.1.takeData l f else r.1) s

/-- NOT_HELD (R392): the request is a failed attempt. -/
def execNotHeld (l : Nat) (fr : Frame) (s : State) : Host.Outcome State Fault Refusal :=
  onUnit (linkOk l) s fun s => s.onFrame l typBulk (fun b => b % 256 == 3) fr fun _ s =>
    match (s.guy l).requests.find? (fun r => r.chan == fChan fr) with
    | none => s
    | some q =>
      ((s.mapGuy l fun g => { g with requests := g.requests.filter fun r => r.chan ≠ fChan fr }).failDigest l q.digest).settleRelays

/-! ### Tick markers (R230 to R232, R393, R394) -/

/-- A tick number of 64 bits with its sign: all ones stands for tick −1 (R396). -/
def signed64 (n : Nat) : Int := (BitVec.ofNat 64 n).toInt

/-- The tick whose marker the module waits for: the one in progress, or −1 before tick 0. -/
def State.markerTick (s : State) : Int :=
  match s.loaded with
  | none => -1
  | some l => if l.started then (s.tick.n : Int) else -1

/-- A hold of reason 6 for a lost marker ends once markers are back on every link that lost them (R232). -/
def State.markerBack (s : State) (l : Nat) : State :=
  if !(s.guy l).lostMarker then s
  else
    let s := s.mapGuy l fun g => { g with lostMarker := false }
    if s.tick.badMarker || (List.range 8).any fun i => (s.guy i).lostMarker then s else s.liftHold 6

/-- A TICK (1) or HELD (2) marker taken from a group link (R231, R394). -/
def State.takeMarker (s : State) (l b : Nat) : State :=
  let t := signed64 (bitsOf b 95 32)
  let ack := bitsOf b 159 96
  let s := s.mapGuy l fun g => { g with
    highest := if signed64 g.highest < t then bitsOf b 95 32 else g.highest
    partnerAck := if signed64 g.partnerAck < signed64 ack then ack else g.partnerAck }
  if !s.chained || !s.groupLinks.contains l then s
  else
    let cur := s.markerTick
    if cur + 1 < t then
      let s : State := { s.placeHold 6 with tick := { (s.placeHold 6).tick with badMarker := true } }
      s.raise { code := 0x0304, cls := .contained, kind := 5, loc := guyLoc l, arg0 := l, arg1 := bitsOf b 95 32, arg2 := (s.guy l).partner }
    else
      let s := s.markerBack l
      if b % 256 = 2 then { s with tick := { s.tick with heldSeen := putK s.tick.heldSeen l s.time } }
      else if t = cur then
        if s.tick.markers.any fun m => m.1 == l then s else { s with tick := { s.tick with markers := s.tick.markers ++ [(l, s.time)] } }
      else if t = cur + 1 then
        if s.tick.early.contains l then s else { s with tick := { s.tick with early := s.tick.early ++ [l] } }
      else s

/-- TICK_MARKER (R230, R394). -/
def execTickMarker (l : Nat) (fr : Frame) (s : State) : Host.Outcome State Fault Refusal :=
  onUnit (linkOk l) s fun s => s.onFrame l typLink (fun b => fNb fr == 1 && b % 256 == 1) fr fun b s => s.takeMarker l b

/-- HELD_MARKER (R231, R394). -/
def execHeldMarker (l : Nat) (fr : Frame) (s : State) : Host.Outcome State Fault Refusal :=
  onUnit (linkOk l) s fun s => s.onFrame l typLink (fun b => fNb fr == 1 && b % 256 == 2) fr fun b s => s.takeMarker l b

/-- MARKER_REPEAT (R393): the latest marker again, 2 µs after it was last sent, until it is acknowledged. -/
def execMarkerRepeat (l : Nat) (s : State) : Host.Outcome State Fault Refusal :=
  onUnit (linkOk l) s fun s =>
    let g := s.guy l
    match g.marker with
    | some (m, h, t) =>
      if g.up && decide (g.markerAt + 2000 ≤ s.time) && decide (signed64 g.partnerAck < signed64 t) then
        (s.sendMarker l m h t).mapGuy l fun g => g.count cntRepeats 1
      else s
    | none => s

/-- HELD_MARKER_TIMER's effect (R231, R393): while a hold is in force a HELD marker goes out every 1 ms; once the last is
lifted the tick's own marker follows it. -/
def State.heldMarkers (s : State) : State :=
  if !s.chained || !s.tick.running then s
  else
    s.groupLinks.foldl (fun s l =>
      let g := s.guy l
      let held := match g.marker with
        | some (m, _, _) => m == 2
        | none => false
      match s.holds with
      | h :: _ => if held && decide (s.time < g.markerAt + msNs) then s else s.sendMarker l 2 h.reason s.tick.n
      | [] => if held && s.allDone then s.sendMarker l 1 0 s.tick.n else s) s

/-- HELD_MARKER_TIMER (R231, R393). -/
def execHeldMarkerTimer (s : State) : Host.Outcome State Fault Refusal := onUnit True s fun s => s.heldMarkers

/-- The barrier deadline of the tick in progress (R229). -/
def State.deadlineAt (s : State) : Nat :=
  let t := (s.loaded.map (·.t)).getD 0
  s.tick.start + t + probeNs t + s.tick.deadlineShift

/-- TICK_MARKER_TIMEOUT (R232): 5 ms past the deadline with neither a tick marker nor a held marker. -/
def execTickMarkerTimeout (l : Nat) (s : State) : Host.Outcome State Fault Refusal :=
  onUnit (linkOk l) s fun s =>
    let came := (s.tick.markers.any fun m => m.1 == l) || s.tick.heldSeen.any fun m => m.1 == l
    if !s.chained || !s.tick.running || !s.groupLinks.contains l || came || (s.guy l).lostMarker ||
        decide (s.time < s.deadlineAt + 5 * msNs) then s
    else
      ((s.mapGuy l fun g => { g with lostMarker := true }).placeHold 6).raise
        { code := 0x0303, cls := .contained, kind := 5, loc := guyLoc l, arg0 := l, arg1 := (s.guy l).partner }

/-! ### Training (R398 to R401) -/

/-- Blocks granted to the partner at link-up, per class (R386). -/
def rxBlocks : Vector Nat 3 := #v[272, 16, 1024]

/-- This module's HELLO. -/
def State.sendHello (s : State) (l : Nat) : State :=
  let b := linkBlock 3 l 0 0 s.flash.modId.toNat s.gid (s.guy l).expect 272 16 1024
  s.mapGuy l fun g => { g with granted := rxBlocks, freed := Vector.replicate 3 0 }.sendLink s.time false (some b)

/-- A HELLO ends training: grants and NEXTSEQ taken, the exchange answered, sequenced traffic resumed (R386, R398); another
partner than before starts afresh (R401). -/
def State.takeHello (s : State) (l b : Nat) : State :=
  let modid := bitsOf b 223 160
  let nextSeq := bitsOf b 267 256
  let g := s.guy l
  let changed := g.partner ≠ 0 ∧ g.partner ≠ modid
  let old := g.partner
  let g := if changed then { g with retry := [], waiting := [], rewind := none, nextSeq := nextSeq, expect := 0, nakSent := false } else g
  let g := match g.retry.findIdx? (fun e => e.seq == nextSeq) with
    | some i => { g with retry := g.retry.drop i }
    | none => { g with retry := if nextSeq = g.nextSeq then [] else g.retry }
  let used (i : Nat) : Nat := (g.retry.map fun e => if classOf (fType e.frame) = i then frameBlocks e.frame else 0).sum
  let g := { g with
    width := if g.training = .full then 8 else g.width
    training := .none, partner := modid
    credits := #v[bitsOf b 283 268 - used 0, bitsOf b 299 284 - used 1, bitsOf b 315 300 - used 2]
    retry := g.retry.map fun e => { e with times := 0 }
    rewind := if g.retry.isEmpty then none else some 0
    lastAckAt := s.time }
  let s := s.mapGuy l fun _ => g
  let s := (s.sendHello l).resend l
  let s := s.mapGuy l fun g => Guy.pump s.time g.waiting.length g
  if !changed then s.settleRelays
  else
    let s := s.failRequests l
    if !(s.chained && s.groupLinks.contains l) then s
    else
      let s : State := { s.placeHold 6 with tick := { (s.placeHold 6).tick with badMarker := true } }
      s.raise { code := 0x0704, cls := .contained, kind := 5, loc := guyLoc l, arg0 := l, arg1 := old, arg2 := modid }

/-- HELLO (R386, R398, R401): taken by a link in training. -/
def execHello (l : Nat) (fr : Frame) (s : State) : Host.Outcome State Fault Refusal :=
  onUnit (linkOk l) s fun s =>
    let b := (fr.blocks.head?.getD 0).toNat
    if s.power.state = .standby ∨ (s.guy l).training = .none ∨ fType fr ≠ typLink ∨ fNb fr ≠ 1 ∨ b % 256 ≠ 3 ∨
        !crcOk fr ∨ !headerOk fr then s
    else s.takeHello l b

/-- LANE_ERROR_RATE's effect (R399). -/
def State.laneErrors (s : State) (l : Nat) (mask : Byte) : State :=
  let g := s.guy l
  let low := mask.toNat % 16
  let ev (code : Nat) : Ev := { code := code, cls := .degraded, kind := 5, loc := guyLoc l, arg0 := l + mask.toNat * 2 ^ 8, arg1 := g.partner }
  if (g.width = 0 ∧ g.training = .none) ∨ mask = 0#8 ∨ (g.width = 4 ∧ low = 0) then s
  else if low ≠ 0 then
    ((s.mapGuy l fun g => { g with width := 0, training := .none }).failRequests l).raise (ev 0x0703)
  else (s.mapGuy l fun g => { (g.count cntLanes 1).fast with width := 4 }).raise (ev 0x0702)

/-- LANE_ERROR_RATE (R399). -/
def execLaneErrorRate (l : Nat) (unsound : Byte) (s : State) : Host.Outcome State Fault Refusal :=
  onUnit (linkOk l) s fun s => s.laneErrors l unsound

/-- LANE_ALIGNMENT_LOSS (R398): a fast retraining; the retry buffer and all sequence state survive. -/
def execLaneAlignmentLoss (l : Nat) (s : State) : Host.Outcome State Fault Refusal :=
  onUnit (linkOk l) s fun s => if (s.guy l).up then s.mapGuy l Guy.fast else s

/-! ### Control blocks of a tick group (R395 to R397, R469) -/

/-- GROUP (R395): kept for the link, and checked against a LOAD that waits. -/
def execGroup (l : Nat) (fr : Frame) (s : State) : Host.Outcome State Fault Refusal :=
  onUnit (linkOk l) s fun s => s.onFrame l typControl (fun b => b % 256 == 1) fr fun b s =>
    (s.mapGuy l fun g => { g with
      groupSeen := some (bitsOf b 63 32, bitsOf b 95 64, bitsOf b 159 96, BitVec.ofNat 256 (bitsOf b 415 160)) }).settleChain

/-- A BIVOUAC block's effect (R396, R397). -/
def State.takeBivouac (s : State) (l b : Nat) : State :=
  let t := bitsOf b 95 32
  if !s.chained ∨ bitsOf b 191 160 ≠ s.gid ∨ (s.power.state ≠ .running ∧ s.power.state ≠ .entering) then s
  else
    let fresh := match s.power.groupStop with
      | some u => decide (u < t)
      | none => true
    if !fresh then s
    else ({ s with power := { s.power with state := .entering, groupStop := some t } } : State).sendPower 2 0 t fun i => i != l

/-- BIVOUAC (R396, R397). -/
def execBivouac (l : Nat) (fr : Frame) (s : State) : Host.Outcome State Fault Refusal :=
  onUnit (linkOk l) s fun s => s.onFrame l typControl (fun b => b % 256 == 2) fr fun b s => s.takeBivouac l b

/-- WAKE (R397): the module wakes in the block's mode and passes the block on. -/
def execWake (l : Nat) (fr : Frame) (s : State) : Host.Outcome State Fault Refusal :=
  onUnit (linkOk l) s fun s => s.onFrame l typControl (fun b => b % 256 == 3) fr fun b s =>
    if !s.chained ∨ bitsOf b 191 160 ≠ s.gid ∨ !s.mayWake then s
    else (s.sendPower 3 (bitsOf b 8 8) (bitsOf b 95 32) fun i => i != l).wakeNow (bitOf b 8)

/-- LOSS (R469): the member marks the cohort lost; the losing module has told every member. -/
def execLoss (l : Nat) (fr : Frame) (s : State) : Host.Outcome State Fault Refusal :=
  onUnit (linkOk l) s fun s => s.onFrame l typControl (fun b => b % 256 == 4) fr fun b s =>
    let c := bitsOf b 127 64
    if !s.chained ∨ s.errors.cohortsLost.any (fun x => x.1 = c) then s
    else { s with errors := { s.errors with cohortsLost := s.errors.cohortsLost ++ [(c, 0xFFFFFFFF, 0, guyLoc l, 1)] } }

end Sys2Proof.Machine
end

