-- ==== Sys2Proof/Machine/HostPort.lean ====
section
/-! DEFINITION. The host port (R322, R326, R331 to R335, R348, R532, R549): doorbell lines, interrupts that waited,
function-level resets, and the link going down and coming back. -/

namespace Sys2Proof.Machine

/-! ### Doorbell lines (R329, R331 to R334) -/

/-- Has a function an enabled ring? -/
def Fn.anyRing (x : Fn) : Bool := x.rings.toList.any (·.en)

/-- Are doorbell lines watched by CXL.cache (R332)? -/
def State.cacheUsed (s : State) : Bool := s.regs.cacheEn && s.regs.cacheNeg

/-- A ring stops for a wrong index (R331). -/
def State.stopRing (s : State) (f i idx : Nat) : State :=
  let s := (s.mapRing f i fun r => { r with stopped := true }).fnSticky f 0b001#3 s.errors.nextSeq
  s.raise { code := 0x0502, cls := .contained, kind := 6, loc := hostLoc, func := some f, arg0 := i, arg1 := idx }

/-- Is an index a doorbell line gives for a ring wrong (R331): a tail that moves back or passes the ring's size, or a
head beyond the tail? -/
def Ring.badIndex (r : Ring) (i idx : Nat) : Bool :=
  if i < 5 then
    let ahead := (2 ^ 32 - r.own + idx) % 2 ^ 32
    decide (r.size < ahead) || decide (ahead < r.waiting)
  else decide (r.size < (2 ^ 32 - idx + r.own) % 2 ^ 32)

/-- A ring the engine fills has room again: held records go out (R344); of dropped events one record tells (R347). -/
def State.gainRoom (s : State) (f i : Nat) : State :=
  if i = 5 then s.flushHeld f false
  else if i = 6 then
    let n := (s.fn f).dropped
    if 0 < n ∧ ((s.fn f).ring 6).room 1 then
      (s.mapFn f fun x => { x with dropped := 0 }).raise { code := 0x0504, cls := .note, func := some f, count := n }
    else s
  else s

/-- The engine sees one index of a doorbell line; a disabled or stopped ring ignores it. -/
def State.seeIndex (s : State) (f i idx : Nat) : State :=
  let r := (s.fn f).ring i
  if !r.en || r.stopped || idx == r.seen then s
  else if r.badIndex i idx then s.stopRing f i idx
  else
    (s.mapRing f i fun r => { r with seen := idx }).gainRoom f i

/-- The engine compares a doorbell line's words with what it last saw. -/
def State.readLine (s : State) (f : Nat) : State :=
  let bs := s.hostRead (s.fn f).dbAddr 64
  let s := (List.range 7).foldl (fun s i => s.seeIndex f i (fieldAt bs (8 * i) 4)) s
  State.refuseKinds f ((s.fn f).ring 4).waiting s

/-- Gives up a function's line (CleanEvictNoData), with any read of it that is outstanding. -/
def State.dropLine (s : State) (f : Nat) : State :=
  s.mapFn f fun x => { x with lineHeld := false, readOut := false, readAgain := false }

/-- Starts reading a function's line, if it is watched by CXL.cache. -/
def State.watchLine (s : State) (f : Nat) : State :=
  if s.cacheUsed && s.linkUp && (s.fn f).anyRing then s.mapFn f fun x => { x with readOut := true } else s

/-- DOORBELL_SNOOP (R333): the line is left invalid and read again; a snoop during a read causes one further read. -/
def execDoorbellSnoop (f : Nat) (s : State) : Host.Outcome State Fault Refusal :=
  onUnit (fnOk f) s fun s => s.mapFn f fun x =>
    if x.readOut then { x with readAgain := true }
    else if x.lineHeld then { x with lineHeld := false, readOut := true }
    else x

/-- DOORBELL_READ (R333): an outstanding read of the line completes. -/
def execDoorbellRead (f : Nat) (s : State) : Host.Outcome State Fault Refusal :=
  onUnit (fnOk f) s fun s =>
    if !s.linkUp || !(s.fn f).readOut then s
    else (s.mapFn f fun x => { x with lineHeld := true, readOut := x.readAgain, readAgain := false }).readLine f

/-- DOORBELL_POLL (R334): every function's line whose interval has passed is read under the host-DMA ration. -/
def execDoorbellPoll (s : State) : Host.Outcome State Fault Refusal :=
  onUnit True s fun s =>
    if s.cacheUsed || !s.linkUp then s
    else (s.fns.map (·.1)).foldl (fun s f =>
      let p := servePanel s.leadCanopy
      if (s.fn f).anyRing && decide ((s.fn f).polled + s.regs.poll * 1000 ≤ s.time) && s.dmaOk p f then
        ((s.dmaCharge p f 64).mapFn f fun x => { x with polled := s.time }).readLine f
      else s) s

/-- MSIX_MODERATION (R348): a message that waited for its interval or for its release goes. -/
def execMsixModeration (f vec : Nat) (s : State) : Host.Outcome State Fault Refusal :=
  onUnit (fnOk f) s fun s =>
    let v := getK (s.fn f).vectors vec {}
    if v.waiting then s.sendMsi f vec false else s

/-! ### Ring registers (R328, R532) -/

/-- RING_ENABLE's effect: both indices start at 0, STOPPED is cleared, a ring the engine fills has room; the first ring of a function starts the watch of
its doorbell line. -/
def State.enableRing (s : State) (f i lsize : Nat) : State :=
  let s := s.mapRing f i fun r => { r with en := true, lsize := lsize, stopped := false, own := 0, seen := 0 }
  let s : State := { s with serve := { s.serve with ended := s.serve.ended.filter fun e => ¬ (e.1 = f ∧ e.2.1 = i) } }
  let s := s.gainRoom f i
  if (s.fn f).lineHeld || (s.fn f).readOut then s else s.watchLine f

/-- RING_DISABLE's effect; the last ring of a function gives up its doorbell line. -/
def State.disableRing (s : State) (f i : Nat) : State :=
  let s := s.mapRing f i fun r => { r with en := false }
  if (s.fn f).anyRing then s else s.dropLine f

/-! ### Function-level reset (R326, R533) -/

/-- A function's rings and quotas return to their reset values; its requests and zips go without a record. Its sequences
end at the next release, and the KEPT ones are released there. -/
def State.resetFn (s : State) (f : Nat) : State :=
  let z := fnReset f
  let s := s.abortZips (fun z => z.owner.fn == some f) true
  let s := s.mapFn f fun x => { x with
    rings := z.rings, heldRecs := [], dropped := 0, moved := 0, zipsGone := [], lineHeld := false, readOut := false
    readAgain := false, seqQuota := z.seqQuota, kvQuota := z.kvQuota, ceil := z.ceil, dmaCap := z.dmaCap, autos := z.autos }
  { s with serve := { s.serve with
    queued := s.serve.queued.filter fun r => r.func ≠ f
    recs := s.serve.recs.filter fun r => r.1 ≠ f
    ended := s.serve.ended.filter fun e => e.1 ≠ f
    seqs := s.serve.seqs.map fun x => if x.req.func = f then { x with silent := true } else x } }

/-- A reset of the physical function resets every function and unloads the package as UNLOAD does. -/
def State.resetPf (s : State) : State :=
  let fs := (0 :: s.fns.map (·.1)).eraseDups
  let s := fs.foldl (fun s f => s.resetFn f) s
  let s : State := { s with
    loadPending := none
    regs := { s.regs with halves := [], groupIn := if s.loaded.isSome then s.regs.groupIn else none } }
  if s.loaded.isNone then s
  else
    let s : State := { s with unloading := some none }
    if s.tick.running && !s.errors.fatal then s else s.unloadNow none

/-- FUNCTION_LEVEL_RESET (R326). -/
def execFunctionLevelReset (f : Nat) (s : State) : Host.Outcome State Fault Refusal :=
  onUnit (fnOk f) s fun s => if f = 0 then s.resetPf else s.resetFn f

/-! ### The link (R321, R322, R549) -/

/-- The link's width now: one lane in bivouac (R321). -/
def State.widthNow (s : State) : Nat := if s.power.state = .bivouac then 1 else s.linkWidth

/-- The link leaves L0. -/
def State.hostDown (s : State) : State :=
  if !s.linkUp then s
  else
    let w := s.widthNow
    let s : State := { s with linkUp := false }
    let s := (s.fns.map (·.1)).foldl (fun s f => s.dropLine f) s
    s.raise { code := 0x0501, cls := .degraded, kind := 6, loc := hostLoc, arg0 := w }

/-- HOST_LINK_DOWN (R322). -/
def execHostLinkDown (s : State) : Host.Outcome State Fault Refusal := onUnit True s fun s => s.hostDown

/-- A held write or message goes out. -/
def State.putHeld (s : State) (w : HostWrite) : State := match w.vec with
  | some v => { s with msiOut := s.msiOut ++ [(w.func, v)] }
  | none => { s with hostMem := Mem.write s.hostMem w.addr w.bytes }

/-- The link has retrained: held writes go out in order, and doorbell lines are watched again; whether CXL.cache is
negotiated and how wide the link is are the host's (notes/assumptions/44). -/
def State.hostUp (s : State) : State :=
  if s.linkUp || s.perstLow then s
  else
    let held := s.heldWrites
    let s : State := { s with
      linkUp := true
      heldWrites := []
      linkWidth := if Config.linkWide s.free then 16 else 8
      regs := { s.regs with cacheNeg := Config.cacheNegotiated s.free }
      free := s.free + 1 }
    let s := held.foldl (fun s w => s.putHeld w) s
    (s.fns.map (·.1)).foldl (fun s f => s.watchLine f) s

/-- HOST_LINK_UP (R322). -/
def execHostLinkUp (s : State) : Host.Outcome State Fault Refusal := onUnit True s fun s => s.hostUp

/-- HOST_PERST_N (R549): a pulse shorter than 1 µs is ignored. Link training after deassertion ends with HOST_LINK_UP. -/
def execHostPerstN (low : Bool) (ns : Nat) (s : State) : Host.Outcome State Fault Refusal :=
  onUnit True s fun s =>
    if !low then { s with perstLow := false }
    else if ns < 1000 then s
    else (({ s with perstLow := true } : State).hostDown).resetPf

end Sys2Proof.Machine
end

