-- ==== Sys2Proof/Machine/Release.lean ====
section
/-! DEFINITION. Barrier releases (R212 to R227): when one may happen, the work that first holds it, what ends with a tick
(tokens, lists, outcomes, R298 to R309, R339 to R344), and what the next tick begins with (R217, R238, R265, R365). -/

namespace Sys2Proof.Machine

/-! ### The release time (R216) -/

/-- 240 ns of boundary preparation. -/
def prepNs : Nat := 240

def State.lastDone (s : State) : Nat := (s.tick.stageDone.map fun d => d.2.1).foldl max 0
def State.lastMarker (s : State) : Nat := (s.tick.markers.map (·.2)).foldl max 0
def State.lastLiftAt (s : State) : Nat := match s.tick.lastLift with
  | some x => x.1
  | none => 0

/-- The end of the tick were it not extended; for the first tick and after a wake, the moment ticks may resume (R434). -/
def State.tickEnd (s : State) : Nat :=
  if s.tick.running then s.tick.start + (s.loaded.map (·.t)).getD 0
  else match s.power.resumeAt with
    | some t => if s.tick.stoppedAt.isSome then t + prepNs else 0
    | none => 0

/-- The time of R216. -/
def State.releaseTime (s : State) : Nat :=
  let add (t : Nat) : Nat := if t = 0 then 0 else t + prepNs
  max (max s.tickEnd (add s.lastDone)) (max (add s.lastMarker) (add s.lastLiftAt))

/-- Has every partner on a group link sent the marker (R231, R396)? -/
def State.markersHere (s : State) : Bool :=
  !s.chained || s.groupLinks.all fun l => s.tick.markers.any fun m => m.1 == l

/-- May a sequence of ticks begin or go on from standing still (R212, R434, R452)? -/
def State.mayBegin (s : State) (l : Loaded) : Bool :=
  s.power.state == .running &&
    if l.started then s.tick.stoppedAt.isSome && !s.calib.scheduled && s.calib.running.isNone else s.shardsReady

/-- May the barrier be released now? -/
def State.mayRelease (s : State) : Bool :=
  match s.loaded with
  | none => false
  | some l =>
    !s.clocksStopped && s.holds.isEmpty && s.tick.stalledStages.isEmpty && s.allDone && s.markersHere &&
      (s.tick.running || s.mayBegin l) && decide (s.releaseTime ≤ s.time)

/-! ### Work that holds the release (R228, R363, R370, R487) -/

/-- The verified shards of a core that lie over a weight-store address, or all that fail their digest where none is
given. -/
def State.brokenShards (s : State) (k : Site) (rec : Option Nat) (addr : Option Nat) : List HeldShard :=
  s.weights.shards.filter fun h => h.core == k && (match rec with
    | some r => h.shard == r && digestOf (((s.recOfHeld h).map fun x => (s.core k).carried x h.area).getD []) != h.digest
    | none => match s.recOfHeld h, addr with
      | some x, some a =>
        let base := h.area * (s.core k).tab.span + x.dest
        decide (base ≤ a) && decide (a < base + x.stored)
      | _, _ => false)

/-- The repairs that a release owes (R363, R467): scrub failures and weight words whose parity failed twice; a word that
fails again after its repair retires the core (R467). -/
def State.startRepairs (s : State) : State :=
  let again := s.errors.badWords.filter fun w => w ∈ s.errors.fixedWords
  let words := s.errors.badWords.filter fun w => w ∉ s.errors.fixedWords
  let hs := ((s.weights.repairs.flatMap fun r => s.brokenShards r.2 (some r.1) none) ++
    words.flatMap fun w => s.brokenShards w.1 none (some w.2)).eraseDups
  let s : State := { s with
    weights := { s.weights with repairs := [] }
    errors := { s.errors with
      badWords := [], fixedWords := s.errors.fixedWords ++ words
      pendingDarn := (s.errors.pendingDarn ++ again.map (·.1)).eraseDups } }
  if hs.isEmpty then s
  else (hs.foldl (fun s h => s.addFetch h.shard h.core h.area h.digest .repair) (s.placeHold 3)).settleSources State.loadFails

/-- Is a layer of REPLACE due at this release (R370)? -/
def State.layerDue (s : State) : Bool :=
  match s.weights.op with
  | .replace _ _ (_ :: _) drained _ => drained && s.weights.stepTick != some s.tick.n
  | _ => false

/-- A layer of REPLACE: the barrier held, every changed shard of the layer fetched into its stage's current area (R370). -/
def State.startLayer (s : State) : State :=
  match s.weights.op, s.weights.held with
  | .replace m _ (layer :: _) _ _, some old =>
    let recs := ((List.zip old.shards m.shards).zipIdx.filter fun x => x.1.1.layer == layer && x.1.1.digest != x.1.2.digest)
    let jobs := recs.flatMap fun x => (s.coresOf x.1.1).filterMap fun k =>
      ((s.core k).tab.assign.bind fun a => s.currentArea a.stage).map fun ar => (x.2, k, ar, x.1.2.digest)
    let s := s.placeHold 3
    let s := jobs.foldl (fun s j => s.addFetch j.1 j.2.1 j.2.2.1 j.2.2.2 .replaceStep) s
    if jobs.isEmpty then s.endStep else s.settleSources State.loadFails
  | _, _ => s

/-- Places the holds that take effect at a release (R228): darning and retired frames, repairs, a layer of REPLACE, the
operator's hold. -/
def State.dueWork (s : State) : State :=
  let s := s.takeDarnOvr.settleDying
  let s := s.startRepairs
  let s := if s.errors.pendingDarn.isEmpty && s.errors.badFrames.isEmpty then s else s.placeHold 2
  let s := if s.layerDue then s.startLayer else s
  if s.mgmt.opHold then ({ s with mgmt := { s.mgmt with opHold := false } } : State).placeHold 7 else s

/-! ### Extensions (R224, R225, R227) -/

/-- The extension record of a tick that ends now `ext` ns late. -/
def State.extRecord (s : State) (ext : Nat) : ExtRec :=
  let last := s.tick.stageDone.foldl (fun b d => match b with
    | some x => if x.2.1 ≤ d.2.1 then some d else some x
    | none => some d) (none : Option (Nat × Nat × Nat))
  let p := match last with
    | some d => d.2.2
    | none => 0
  let stage := match last with
    | some d => d.1
    | none => 0xFF
  let held := decide (0 < s.lastLiftAt) && decide (s.lastMarker ≤ s.lastLiftAt) && decide (s.lastDone ≤ s.lastLiftAt)
  let partner := !held && decide (0 < s.lastMarker) && decide (s.lastDone ≤ s.lastMarker)
  let link := ((s.tick.markers.filter fun m => m.2 == s.lastMarker).map (·.1)).getLast?
  { tick := s.tick.n, start := s.tick.start, extNs := min ext 0xFFFFFFFF
    causes := (if held then 0b10000#8 else if partner then 0b100000#8 else (s.panel p).causes) |||
      if s.tick.heldSeen.isEmpty then 0#8 else 0b100000#8
    stage := if held || partner then 0xFF else stage
    hold := if held then (match s.tick.lastLift with
      | some x => x.2
      | none => 0) else 0
    link := if partner || !s.tick.heldSeen.isEmpty then link.getD 0xFF else 0xFF
    panel := panelWord p }

/-- An extended tick: counted, recorded, and reported once per 1 ms. -/
def State.noteExtension (s : State) (endTick : Nat) : State :=
  let ext := s.time - endTick
  if ext = 0 then s
  else
    let recent := (s.tick.recent.filter fun t => s.time < t + msNs) ++ [s.time]
    let s := s.pushExt (s.extRecord ext)
    let s : State := { s with tick := { s.tick with extTotal := (s.tick.extTotal + 1) % 2 ^ 64, recent := recent } }
    s.raiseEvery msNs (0x0301, 0) { code := 0x0301, cls := .note, loc := moduleLoc, count := recent.length }

/-! ### Lost cohorts (R468, R469) -/

/-- The lowest position of each sequence with a row in a cohort. -/
def Cohort.lowest (c : Cohort) : List (Nat × Nat) :=
  c.rows.foldl (fun acc r => putK acc r.slot (min r.pos (getK acc r.slot r.pos))) []

/-- Cohorts marked for loss are lost: none of their tokens is delivered, their sequences rebuild. -/
def State.loseCohorts (s : State) : State :=
  let xs := s.sendLosses.errors.cohortsLost
  let s := s.sendLosses
  let s : State := { s with errors := { s.errors with cohortsLost := [] } }
  xs.foldl (fun s x =>
    match s.cohortNum x.1 with
    | none => s
    | some c =>
      let s : State := { s with serve := { s.serve with
        cohorts := s.serve.cohorts.map fun y => if y.n = x.1 then { y with lost := true } else y
        drawn := s.serve.drawn.filter fun d => d.cohort ≠ x.1 } }
      (s.rebuildAll c.lowest).1) s

/-! ### Token delivery (R298, R303, R305, R339, R340, R342) -/

/-- Puts a record into the batch of this release. -/
def State.batch (s : State) (r : Nat × CRec) : State := { s with serve := { s.serve with recs := s.serve.recs ++ [r] } }

/-- A token entry's 8 bytes (R339). -/
def tokenEntry (e : Emit) (clipped late : Bool) : List Byte :=
  let b (x : Bool) (i : Nat) : Nat := if x then 2 ^ i else 0
  natLe 8 (e.d.token % 2 ^ 24 + b clipped 24 + b late 25 + b e.d.forced 26 + b e.d.nan 27 + b e.last 28 + 2 ^ 31 +
    e.d.prob.toNat * 2 ^ 32)

/-- A request ends in a terminal state, with its DONE record. -/
def State.endSeq (s : State) (x : Seq) (st : SeqState) (outcome code : Nat) : State :=
  let s := s.mapSeq x.slot fun y => { y with state := st }
  if x.silent then s
  else
    let s := s.batch (doneRec x outcome code x.req.keep)
    { s with serve := { s.serve with ended := s.serve.ended ++ [(x.req.func, x.req.ring, x.req.idx)] } }

/-- Writes one sequence's bundle of a cohort and moves it on. -/
def State.deliverSeq (s : State) (c : Cohort) (x : Seq) (r : List Emit × Seq) : State :=
  let late := x.req.deadline != 0 && decide (x.req.deadline < s.time)
  let rowClip (i : Nat) : Bool := ((c.rows[i]?).map (·.clipped)).getD false
  let out := r.1.zipIdx.map fun e => (e.1, x.emitted + e.2, rowClip e.1.d.row || (e.2 == 0 && x.clipMark))
  let s := out.foldl (fun s e =>
    if 8 * (e.2.1 + 1) ≤ x.req.osize then
      (s.hostWrite x.req.func (x.req.oaddr + 8 * e.2.1) (tokenEntry e.1 e.2.2 late)).dmaCharge (servePanel s.leadCanopy) x.req.func 8
    else s) s
  let taken := r.1.map fun e => e.d.row
  -- a clipped row whose token is not emitted marks the sequence's next completion (R120)
  let spill := (c.rowsOf x.slot).any fun y => y.1.draws && y.1.clipped && !taken.contains y.2
  let y : Seq := { r.2 with
    clipMark := spill || (x.clipMark && r.1.isEmpty)
    clipSeen := x.clipSeen || out.any fun e => e.2.2
    lateSeen := x.lateSeen || (late && !r.1.isEmpty) }
  let s := s.mapSeq x.slot fun _ => y
  let s : State := { s with serve := { s.serve with
    cohorts := s.serve.cohorts.map fun d => if d.n = c.n then
      { d with rows := d.rows.map fun w => if w.slot = x.slot ∧ w.draws then { w with drawn := true } else w } else d
    drawn := s.serve.drawn.filter fun d => ¬ (d.cohort = c.n ∧ d.slot = x.slot) } }
  let s := if y.req.prog && !r.1.isEmpty then
      s.batch (y.req.func, ⟨2, 0, y.req.ring, y.req.idx, none, y.req.utag, some y.slot, y.emitted, 0⟩) else s
  if y.finish = 0 then s else s.endSeq y .finished 0 y.finish

/-- Delivers what a cohort's rows drew; a cohort whose lists no longer arrive leaves the rows without a list without a
token (R309). -/
def State.deliverCohort (s : State) (c : Cohort) : State :=
  let ended := c.n + s.stageCount == s.tick.n
  s.serve.seqs.foldl (fun s x0 =>
    match s.seqAt x0.slot with
    | none => s
    | some x =>
      if x.state.terminal ∨ x.state = .kept then s
      else match s.takes c x ended with
        | some r => s.deliverSeq c x r
        | none =>
          if ended && !c.lost && (c.rowsOf x.slot).any (fun y => y.1.draws && !y.1.discard && !y.1.drawn && !y.1.starved) then
            s.mapSeq x.slot fun y => { y with tokenReady := true }
          else s) s

/-- Delivers the tokens drawn in the tick that ends. -/
def State.deliver_ (s : State) : State :=
  let cs := sortBy (fun (a b : Cohort) => decide (a.n < b.n)) s.serve.cohorts
  cs.foldl (fun s c => match s.cohortNum c.n with
    | some d => s.deliverCohort d
    | none => s) s

/-! ### LANTERN_COUNT (R309) -/

/-- Where acceptance of a cohort ends, its count of lists is compared with its rows, Lantern by Lantern. -/
def State.checkLists (s : State) : State :=
  match s.serving, s.serve.cohorts.find? (fun c => c.n + s.stageCount == s.tick.n) with
  | some sv, some c =>
    if c.lost then s
    else
      (List.range sv.lanterns).foldl (fun s i =>
        let la := s.lantern i
        let mine := c.rows.zipIdx.filter fun r => r.2 % sv.lanterns == i
        let got := ((la.accepting.find? fun x => x.cohort == c.n).map fun x => x.lists.length).getD 0
        if got = mine.length ∧ la.discarded = 0 then s
        else
          let draws := mine.filter fun r => r.1.draws && !r.1.starved
          let s := s.raise { code := 0x0407, cls := .contained, kind := 10, loc := locWord sv.scan 0 0 0 0 0 1 i
                             arg0 := c.n, arg1 := got % 65536 + draws.length % 65536 * 65536 }
          let runs (x : Seq) : Bool := x.state == .prefill || x.state == .decode || x.state == .rebuild
          (draws.map fun r => r.1.slot).eraseDups.foldl (fun s q => match s.seqAt q with
            | some x => if runs x then s.pauseSeq q .host false else s
            | none => s) s) s
  | _, _ => s

/-! ### Deadlines and cancels (R303 to R305, R346) -/

/-- Is a deadline past? -/
def State.past (s : State) (r : Request) : Bool := r.deadline != 0 && decide (r.deadline < s.time)

/-- Requests and sequences past their deadline become EXPIRED, cancelled ones CANCELLED. -/
def State.endLate (s : State) : State :=
  let gone := s.serve.queued.filter fun r => s.past r || r.cancelled
  let s : State := { s with serve := { s.serve with queued := s.serve.queued.filter fun r => !(s.past r || r.cancelled) } }
  let s := gone.foldl (fun s r => s.endRequest r (if s.past r then 0x100 else 0x200)) s
  s.serve.seqs.foldl (fun s x =>
    if x.state.terminal ∨ x.state = .kept then s
    else if s.past x.req then s.endSeq x .expired 1 0
    else if x.req.cancelled ∨ x.silent then s.endSeq x .cancelled 2 0
    else s) s

/-- Terminal sequences with no row in flight give their slot back, or are kept (R287). -/
def State.drainSeqs (s : State) : State :=
  s.serve.seqs.foldl (fun s x =>
    if !x.state.terminal || s.rowsFly x.slot then s
    else if x.req.keep && !x.silent then
      s.mapSeq x.slot fun y => { y with state := .kept, kvLost := y.kvLost || decide (y.rebuildFrom < y.rebuildTo) }
    else s.dropSeq x.slot) s

/-- QUEUED continuations whose slot is no longer kept are refused (R289). -/
def State.refuseConts (s : State) : State :=
  let bad (r : Request) : Bool := match r.cont with
    | none => false
    | some q => !(match s.seqAt q with
      | some x => x.req.func == r.func && (x.state == .kept || x.state.terminal)
      | none => false)
  let gone := s.serve.queued.filter bad
  let s : State := { s with serve := { s.serve with queued := s.serve.queued.filter fun r => !bad r } }
  gone.foldl (fun s r => s.endRequest r 0x305) s

/-- ADMITTED records of the requests whose admission this release begins (R342). -/
def State.reportAdmitted (s : State) : State :=
  let qs := s.serve.admitted
  let s := qs.foldl (fun s q => match s.seqAt q with
    | some x => if x.state.terminal ∨ x.silent then s
      else s.batch (x.req.func, ⟨1, 0, x.req.ring, x.req.idx, none, x.req.utag, some x.slot, x.base, s.time⟩)
    | none => s) s
  { s with serve := { s.serve with admitted := [] } }

/-! ### REPLACE (R370) -/

/-- The end of the drain: every sequence with an epoch is cancelled, every kept one released, EPOCH_CANCELLED. -/
def State.endDrain (s : State) : State :=
  match s.weights.op with
  | .replace m limit left _ done =>
    let live := s.serve.seqs.filter fun x => x.epoch.isSome && !x.state.terminal
    let s := live.foldl (fun s x => if x.state = .kept then s.dropSeq x.slot else s.endSeq x .cancelled 2 0) s
    let s : State := { s with weights := { s.weights with op := .replace m limit left true done } }
    s.raise { code := 0x0606, cls := .note, loc := moduleLoc, count := live.length }
  | _ => s

/-- Does a drain end: no running sequence with an epoch remains, or its limit has passed? -/
def State.drainOver (s : State) : Bool :=
  match s.weights.op with
  | .replace _ limit _ false _ =>
    (match limit with
      | some t => decide (t ≤ s.time)
      | none => false) || !s.serve.seqs.any fun x => x.epoch.isSome && !x.state.terminal && x.state != .kept
  | _ => false

/-- The end of REPLACE: QUEUED requests that name an epoch no longer held are refused, the manifest is the held one. -/
def State.endReplace (s : State) : State :=
  match s.weights.op with
  | .replace m _ [] true done =>
    let bad (r : Request) : Bool := !r.epany && r.cont.isNone && r.epoch != 0xFFFFFFFF && !s.epochHeld r.epoch
    let gone := s.serve.queued.filter bad
    let s : State := { s with serve := { s.serve with queued := s.serve.queued.filter fun r => !bad r } }
    let s := gone.foldl (fun s r => s.endRequest r 0x306) s
    ({ s with weights := { s.weights with held := some m, heldDigest := m.hash } } : State).endOp 0 s.weights.epoch done
  | _ => s

/-- REPLACE at a release; `ended` is the tick that ends. -/
def State.stepReplace (s : State) (ended : Nat) : State :=
  match s.weights.op with
  | .replace _ _ left drained _ =>
    if !drained then (if s.drainOver then s.endDrain else s)
    else if left.isEmpty && s.weights.stepTick != some ended then s.endReplace
    else s
  | _ => s

/-- REPLACE_DRAIN_LIMIT (R370): the drain limit has passed. -/
def execReplaceDrainLimit (s : State) : Host.Outcome State Fault Refusal :=
  onUnit True s fun s =>
    match s.weights.op with
    | .replace _ (some t) _ false _ => if t ≤ s.time then s.endDrain else s
    | _ => s

/-! ### The next tick's cohort (R213, R217, R265, R268, R280, R365) -/

/-- Rows of a cohort whose pages are mapped: a sequence whose MAP has not committed yet has its later rows dropped, one
whose MAP failed starves. Answers the rows, and the starved (slot, page) pairs. -/
def State.settleRows (s : State) : List Row → List Nat → List Row × List (Nat × Nat)
  | [], _ => ([], [])
  | r :: rest, cut =>
    match s.seqAt r.slot with
    | none => s.settleRows rest cut
    | some x =>
      let page := r.pos / pagePos s.kv4
      if r.slot ∈ cut then s.settleRows rest cut
      else if r.starved ∨ s.pageMapped r.slot x.base page then
        let t := s.settleRows rest cut
        (r :: t.1, t.2)
      else if s.zips.any fun z => z.owner == .engine && z.entries.contains (mapEntry r.slot page) then
        s.settleRows rest (r.slot :: cut)
      else
        let t := s.settleRows rest (r.slot :: cut)
        ({ r with starved := true, app := false, draws := false } :: t.1, (r.slot, page) :: t.2)

/-- A sequence starved at the boundary: paused and reported (R280). -/
def State.starveNow (s : State) (q page : Nat) : State :=
  match s.seqAt q with
  | none => s
  | some x =>
    let m := (s.mapPage q x.base page).2
    let why := if m.frame ≠ 0 then 1 else if m.way ≠ 0 then 3 else 2
    let n := if m.frame ≠ 0 then m.frame else if m.way ≠ 0 then m.way else s.groups.length
    let s := if x.state = .paused ∨ x.state.terminal then s else s.pauseSeq q .starved true
    s.raise { code := 0x0405, cls := .note, kind := 11, func := some x.req.func, count := n, arg0 := q + why * 2 ^ 13 }

/-- The state a sequence in REBUILD returns to. -/
def Seq.former (x : Seq) : SeqState := if x.next < x.promptEnd then .prefill else .decode

/-- What the rows of cohort `n` do to a sequence once they are in flight (R286, R293, R294, R307). -/
def Seq.progress (x : Seq) (n : Nat) (rows : List Row) : Seq :=
  let of (k : RowKind) : List Row := rows.filter fun r => r.kind == k && !r.discard && !r.starved
  let top (l : List Row) : Nat := (l.map fun r => r.pos + 1).foldl max 0
  let pre := of .prefill
  let reb := of .rebuild
  let x : Seq := if pre.isEmpty then x
    else
      let x : Seq := { x with next := top pre, len := max x.len (top pre), lastRow := n }
      if x.next < x.promptEnd then x
      else
        let x : Seq := { x with tokenReady := false, lastDrafts := 0 }
        if x.state = .prefill then { x with state := .decode } else if x.state = .paused then { x with was := .decode } else x
  let x : Seq := if reb.isEmpty then x else { x with rebuildFrom := top reb, lastRow := n }
  if (of .decode).isEmpty then x else { x with tokenReady := false, lastRow := n, lastDrafts := (of .verify).length }

/-- Sequences whose last rebuild row is built return to their former state (R307). -/
def State.endRebuilds (s : State) : State :=
  s.serve.seqs.foldl (fun s x =>
    if x.rebuildFrom < x.rebuildTo then s
    else if x.state = .rebuild then (s.mapSeq x.slot fun y => { y with state := y.former }).batch (stateRec x 4)
    else if x.state = .paused ∧ x.was = .rebuild then s.mapSeq x.slot fun y => { y with was := y.former }
    else s) s

/-- KIND of a lengths-table row. -/
def RowKind.num : RowKind → Nat
  | .decode => 0
  | .prefill => 1
  | .verify => 2
  | .rebuild => 3

/-- A lengths-table row (R265). -/
def Row.bytes (r : Row) : List Byte :=
  natLe 4 (r.slot + r.kind.num * 2 ^ 13 + (if r.app then 2 ^ 16 else 0) + if r.starved then 2 ^ 17 else 0) ++
    natLe 4 r.pos ++ natLe 4 r.len ++ natLe 4 r.token

/-- Begins cohort `m`, the one built for the tick that begins, or an empty one. -/
def State.beginCohort (s : State) (m : Nat) : State :=
  let c := match s.serve.built with
    | some b => { b with n := m, epoch := if b.epoch = 0 then s.weights.epoch else b.epoch }
    | none => ⟨m, s.weights.epoch, [], false⟩
  let t := s.settleRows c.rows []
  let c := { c with rows := fixLens t.1 }
  let s := t.2.foldl (fun s q => s.starveNow q.1 q.2) s
  let slots := (c.rows.map (·.slot)).eraseDups
  let s := slots.foldl (fun s q => s.mapSeq q fun x => x.progress m (c.rows.filter fun r => r.slot == q)) s
  let s : State := { s with serve := { s.serve with
    built := none
    cohorts := (s.serve.cohorts.filter fun x => m ≤ x.n + s.stageCount) ++ [c] } }
  s.endRebuilds

/-- The Lanterns accept the cohort whose last stage the tick runs, and no longer the one before last (R309). -/
def State.turnLanterns (s : State) (m : Nat) : State :=
  let S := s.stageCount
  { s with serve := { s.serve with lanterns := s.serve.lanterns.map fun l =>
    { l with
      discarded := 0
      accepting := (l.accepting.filter fun c => m ≤ c.cohort + S) ++
        if S ≤ m + 1 ∧ 0 < S then [⟨m + 1 - S, []⟩] else [] } } }

/-- The lengths tables of every stage (R265): bits of a row past a stage's cohort keep what the store held. -/
def State.writeLengths (s : State) : State :=
  s.assigned.foldl (fun s x =>
    match (if x.2.stage ≤ s.tick.n then s.cohortNum (s.tick.n - x.2.stage) else none) with
    | some c => s.mapCore x.1 fun k => k.wrRaw 0 s.ltAddr (c.rows.flatMap Row.bytes)
    | none => s) s

/-- Stages with no area for their cohort's epoch (R365). -/
def State.checkEpochs (s : State) : State :=
  (List.range s.stageCount).foldl (fun s g =>
    let e := s.stageEpoch g
    if (s.areaFor g e).isSome then s
    else s.raise { code := 0x0604, cls := .fatal, loc := moduleLoc, arg0 := g, arg1 := e }) s

/-- A core's release (R118, R120, R206, R365, R458, R471): held scales are written, tokens and counts are 0, %shard_base
presets apply again, a new step begins, and fetch resumes at BODY. -/
def State.resumeCore (s : State) (k : Site) (body : Nat) : State :=
  let c := s.core k
  let c := c.rep.heldScales.foldl (fun c x => c.wrRaw 0 x.1 (natLe 2 x.2)) c
  let s := s.setCore k { c with
    t := Vector.replicate 16 0#8, idx := body, loops := [], atBarrier := false, lastProbe := none, dupOp := 0
    redCount := [], dupIn := [], rep := { c.rep with rescaled := [], heldScales := [] } }
  let s := s.presetCore k (s.shardBase k) fun code => code == 9
  s.mapCore k fun c => c.newStep body none

/-- Every assigned core resumes, then fetches. -/
def State.resumeCores (s : State) : State :=
  match s.loaded with
  | none => s
  | some l =>
    let s := s.assigned.foldl (fun s x => s.resumeCore x.1 l.pkg.body) s
    s.assigned.foldl (fun s x => s.pumpCore x.1) s

/-! ### Counters that start over (R217, R219, R472, R534) -/

/-- Duplication checks not finished are dropped and counted (R472). -/
def State.dropChecks (s : State) : State :=
  s.panels.foldl (fun s e =>
    let n := ((s.cores.filter fun c => c.1.panel == e.1).map fun c => c.2.dupIn.length).sum
    if n = 0 then s
    else
      let s := s.mapPanel e.1 fun x => { x with dupDropped := x.dupDropped + n }
      let t := s.raiseEvery secNs (0x0A03, e.1) { code := 0x0A03, cls := .note, kind := 0, loc := panelLoc e.1
                                                  count := (s.panel e.1).dupDropped }
      if t.errors.nextSeq = s.errors.nextSeq then s else t.mapPanel e.1 fun x => { x with dupDropped := 0 }) s

/-- The panels' meters and cause bits start over (R219, R225). -/
def State.turnPanels (s : State) (served : Nat) : State :=
  let s : State := { s with panels := s.panels.map fun e => (e.1, { e.2 with
    used := Vector.replicate 8 0, causes := 0, journalFull := false, scrubUsed := e.2.scrubUsed + served }) }
  let s := s.retryTrims
  s.panels.foldl (fun s e => s.markStretch e.1) s

/-- Tick `m` begins: its number, start and latched limits (R217, R222, R471, R534). `served` is what the last tick took
without its holds. -/
def State.turnTick (s : State) (m : Nat) (served : Option Nat) : State :=
  { s with
    tick := { s.tick with
      running := true, n := m, start := s.time, stageDone := [], lastLift := none
      markers := s.tick.early.map fun l => (l, s.time), early := []
      heldSeen := [], deadlineShift := 0, probes := 0, stalledStages := [], limits := s.regs.rations
      lastTicks := (match served with
        | some t => (s.tick.lastTicks ++ [t]).drop (s.tick.lastTicks.length + 1 - 64)
        | none => s.tick.lastTicks)
      heldNs := 0, heldSince := none, stoppedAt := none
      dupFrac := bitsOf s.errors.dupCtrl.toNat 2 0, dupRed := s.errors.dupCtrl.getLsbD 3 }
    fns := s.fns.map fun e => (e.1, { e.2 with dmaUsed := 0, dmaLatched := e.2.dmaCap })
    routers := s.routers.map fun e => (e.1, { e.2 with broken := [] })
    power := { s.power with resumeAt := none } }

/-! ### Batches (R343, R344, R350) -/

/-- Writes every function's held records and its batch; a ring without room is reported once a second. -/
def State.writeBatches (s : State) (tick : Option Nat) : State :=
  s.liveFns.foldl (fun s f =>
    let s := if (s.fn f).heldRecs.isEmpty then s else s.flushHeld f true
    (s.writeBatch f tick).reportFull f) s

/-! ### The release -/

/-- Do ticks stop at this release: power goes, or bivouac is entered and no cohort with rows is left (R431, R433, R396)? -/
def State.stopsHere (s : State) : Bool :=
  match s.power.state with
  | .stopping => true
  | .entering =>
    let empty := s.flying.all fun c => c.rows.isEmpty || c.n + s.stageCount ≤ s.tick.n + 1
    if s.chained then (match s.power.groupStop with
      | some t => decide (t ≤ s.tick.n)
      | none => empty)
    else empty
  | _ => false

/-- What ends with the tick in progress. -/
def State.endTick (s : State) : State :=
  let s := s.flushCounted
  let s := s.noteExtension (s.tick.start + (s.loaded.map (·.t)).getD 0)
  let s := s.dropChecks
  let s := s.loseCohorts
  let s := s.deliver_
  let s := s.checkLists
  s.endLate

/-- Ticks stop: the tick number is kept (R431, R433). -/
def State.stopTicks (s : State) : State :=
  let n := s.tick.n
  let s : State := { s with
    tick := { s.tick with running := false, stoppedAt := some n, markers := [], lastLift := none } }
  (s.drainSeqs.writeBatches (some n)).serveReads

/-- The first release of a package: LOAD's record, and the end of every handling period and unavailability that the
reload ends (R212, R345, R481, R491). -/
def State.firstRelease (s : State) (l : Loaded) : State :=
  let s : State := { s with
    loaded := some { l with started := true }
    errors := { s.errors with
      unavailMs := match s.errors.unavailSince with
        | some t => min (s.errors.unavailMs + (s.time - t) / msNs) 0xFFFFFFFF
        | none => s.errors.unavailMs
      unavailSince := none } }
  s.endReloadHandling.batch (l.func, ⟨5, 0, 4, l.ringIdx, none, l.utag, none, l.planIdx, 0⟩)

/-- Begins tick `m`; `ended` is the tick that ends now, none where none ran. -/
def State.beginTick (s : State) (l : Loaded) (m : Nat) (ended : Option Nat) : State :=
  let served := ended.map fun _ => s.time - s.tick.start - s.tick.heldNs
  let lift := s.tick.lastLift.map (·.2)
  let s := s.turnTick m served
  let s := (s.turnPanels (served.getD 0)).serveReads
  let s := s.settleZips (s.time - prepNs)
  let s := s.commitZips m
  let s := s.refuseConts
  let s := s.beginCohort m
  let s := s.drainSeqs
  let s := s.reportAdmitted
  let s := s.retireAreas
  let s := s.runDiscards
  let s := s.stepReplace (ended.getD (2 ^ 64))
  let s := s.turnLanterns m
  let s := if l.started then s else s.firstRelease l
  let s := s.writeBatches ended
  let s := s.writeLengths
  let s := s.checkEpochs
  let s := if lift = some 1 then s else s.step3Act
  let s := s.resumeLinks
  s.resumeCores

/-- The barrier released: the tick that runs ends, and the next begins or ticks stop. -/
def State.release (s : State) : State :=
  match s.loaded with
  | none => s
  | some l =>
    if s.tick.running then
      let n := s.tick.n
      let s := s.endTick
      if s.stopsHere then s.stopTicks else s.beginTick l (n + 1) (some n)
    else
      let m := match s.tick.stoppedAt with
        | some n => n + 1
        | none => 0
      s.beginTick l m none

/-- TICK_RELEASE's effect: an UNLOAD that waits takes the package away, a package whose tick cannot end among them (R345);
else due work holds the release, or the release happens. -/
def State.tickRelease (s : State) : State :=
  if s.tick.running && s.tickStuck && s.unloading.isSome then s.unloadNow (some s.tick.n)
  else if s.tick.running && s.tickStuck && s.power.state == .stopping then s.stopTicks
  else if !s.mayRelease then s
  else if s.unloading.isSome then
    if s.tick.running then s.endTick.unloadNow (some s.tick.n) else s.unloadNow none
  else if !s.tick.running || s.power.state == .stopping then s.release
  else
    let t := s.dueWork
    if t.mayRelease then t.release else t

/-- TICK_RELEASE (R216). -/
def execTickRelease (s : State) : Host.Outcome State Fault Refusal := onUnit True s fun s => s.tickRelease

end Sys2Proof.Machine
end

