-- ==== Sys2Proof/Machine/Regs.lean ====
section
/-! DEFINITION. The register file (R19, R436, R437, R456, R492, R524 to R539): what each register reads as, and what a
write does by its access code: RW, SQ, GP, ZP, WO. -/

namespace Sys2Proof.Machine

/-! ### Fields that read as other state -/

/-- MOD_STATE. -/
def State.modState (s : State) : Nat :=
  let b (x : Bool) (i : Nat) : Nat := if x then 2 ^ i else 0
  let st := s.power.state
  b s.loaded.isSome 0 + b s.debug 1 + b s.chained 2 + b (st == .entering || st == .bivouac || st == .waking) 3 +
    b (s.freeze.state == .frozen || s.freeze.state == .dead) 4 + ((List.range 7).map fun r => b (s.held (r + 1)) (8 + r)).sum

/-- STATE of GOV_STATUS. -/
def State.govState (s : State) : Nat := s.power.state.num

/-- The highest ladder step in force (R444). -/
def State.ladderStep (s : State) : Nat :=
  if s.thermal.trip then 4
  else if !s.thermal.step3.isEmpty then 3
  else if s.panels.any fun e => e.2.capTherm < e.2.thermTop then 2
  else if s.thermal.step1 then 1
  else 0

/-- STATE of FREEZE_STATUS. -/
def FreezeState.num : FreezeState → Nat
  | .running => 0
  | .pending => 1
  | .frozen => 2
  | .dead => 3

/-- PSTATE of PANEL_SUPPLY. -/
def PState.num : PState → Nat
  | .full => 0
  | .capped => 1
  | .dark => 2
  | .off => 3

/-- An extension or late record's 32 bytes (R227). -/
def ExtRec.bytes (x : ExtRec) : List Byte :=
  natLe 8 x.tick ++ natLe 8 x.start ++ natLe 4 x.extNs ++ [x.causes] ++ natLe 1 x.stage ++ natLe 1 x.hold ++ natLe 1 x.link ++
    natLe 2 x.panel ++ natLe 6 0

/-- The record at an index of the extension ring; none where none was written since the load. -/
def State.extAt (s : State) (idx : Nat) : Option ExtRec :=
  let n := s.regs.extRing.length
  s.regs.extRing[(idx + 2 ^ 32 - (s.regs.extWr + 2 ^ 32 - n) % 1024) % 1024]?

/-- The lanes a link has in use. -/
def Guy.lanes (g : Guy) : Nat := if g.width = 0 then 0 else if g.lowRate then 1 else g.width

/-- The link and counter that GUY_SEL names. -/
def State.selGuy (s : State) : Guy := s.guy (bitsOf s.regs.guySel.toNat 2 0)
def State.selCount (s : State) : Nat := (s.selGuy.counters.toList).getD (bitsOf s.regs.guySel.toNat 6 3) 0

/-- The panel and domain that PANEL_SEL names; the reserved panels read as 0. -/
def State.selPanel (s : State) : Nat := bitsOf s.power.panelSel.toNat 8 0
def State.selDom (s : State) : DomainState :=
  if s.selPanel < 384 then (s.panel s.selPanel).dom.toList.getD (bitsOf s.power.panelSel.toNat 10 9) {} else {}

/-- A signed temperature in quarters of a degree as whole degrees, rounded down. -/
def wholeDeg (t : Int) : Nat := ((t / 4) % 256).toNat

def lo32 (n : Nat) : Nat := n % 2 ^ 32
def hi32 (n : Nat) : Nat := n / 2 ^ 32 % 2 ^ 32

/-! ### Reading (R525 to R527, R529) -/

/-- The function block. -/
def State.fnReg (s : State) (f off : Nat) : Nat :=
  let x := s.fn f
  if 0x40 ≤ off ∧ off < 0xB0 then
    let r := x.ring ((off - 0x40) / 16)
    match off % 16 with
    | 0 => lo32 r.base
    | 4 => hi32 r.base
    | 8 => (if r.en then 1 else 0) + r.lsize * 2 + if r.stopped then 32 else 0
    | _ => lo32 r.own
  else
    match off with
    | 0x00 => f + 2 ^ 16
    | 0x04 => x.sticky.toNat + x.seq * 2 ^ 16
    | 0x08 => lo32 x.dbAddr
    | 0x0C => hi32 x.dbAddr
    | 0x10 => lo32 x.stAddr
    | 0x14 => hi32 x.stAddr
    | 0x18 => x.cvec + x.evec * 2 ^ 11
    | 0x1C => x.moderation
    | 0x20 => s.slotsUsed f
    | 0x24 => s.framesUsed f
    | 0x28 => x.zipId + x.zipEntry * 2 ^ 16
    | 0x2C => x.zipCode + (if x.zipDone then 256 else 0) + x.zipSeq * 2 ^ 16
    | _ => 0

/-- Module page 0x1000. -/
def State.page1 (s : State) (off : Nat) : Nat :=
  let t := s.tickNow.getD (2 ^ 64 - 1)
  let sel := bitsOf s.regs.tenSel.toNat 8 0
  let x := s.fn sel
  match off with
  | 0x1000 => (if s.flash.gradeB then 1 else 0) + 2 ^ 8
  | 0x1004 => s.activeCores
  | 0x1008 => lo32 s.flash.modId.toNat
  | 0x100C => hi32 s.flash.modId.toNat
  | 0x1010 => lo32 s.time
  | 0x1014 => hi32 s.time
  | 0x1018 => lo32 t
  | 0x101C => hi32 t
  | 0x1020 => s.modState
  | 0x1024 => s.regs.modSticky.toNat + s.regs.modSeq * 2 ^ 16
  | 0x1028 => (s.loaded.map (·.t)).getD 0
  | 0x102C => match s.loaded with
    | some l => l.rows + l.plan.stages.length * 2 ^ 13 + l.planIdx * 2 ^ 21
    | none => 0
  | 0x1030 => if s.loaded.isSome then s.weights.epoch else 0
  | 0x1034 => s.regs.guardCount
  | 0x1040 => (if s.regs.cacheEn then 1 else 0) + (if s.regs.cacheNeg then 2 else 0) + s.regs.poll * 4
  | 0x1100 => sel
  | 0x1104 => x.seqQuota
  | 0x1108 => x.kvQuota
  | 0x110C => x.ceil + x.dmaCap * 8
  | 0x1110 => lo32 x.autos.toNat
  | 0x1114 => hi32 x.autos.toNat
  | _ => 0

/-- Module pages 0x2000 and 0x3000. -/
def State.page2 (s : State) (off : Nat) : Nat :=
  if 0x2020 ≤ off ∧ off < 0x2040 then (s.regs.extLatched.getD ((off - 0x2020) / 4) 0#32).toNat
  else if 0x2100 ≤ off ∧ off < 0x2120 then s.regs.rations.toList.getD ((off - 0x2100) / 4) 0
  else if 0x3000 ≤ off ∧ off < 0x3020 then s.regs.goals.getD ((off - 0x3000) / 4) 0
  else
    match off with
    | 0x2000 => lo32 s.tick.extTotal
    | 0x2004 => hi32 s.tick.extTotal
    | 0x2008 => s.regs.extWr
    | 0x200C => s.regs.extOvf
    | 0x2010 => s.regs.extSel.toNat
    | 0x2040 => s.regs.lateSel.toNat
    | 0x2044 => getK s.regs.lateCnt s.regs.lateSel.toNat 0
    | 0x3020 => s.serve.seqs.length + s.serve.queued.length * 2 ^ 14
    | 0x3040 => s.regs.ptLoc.toNat
    | 0x3044 => s.regs.ptFrame.toNat
    | 0x3048 => lo32 s.regs.ptData.toNat
    | 0x304C => hi32 s.regs.ptData.toNat
    | 0x3050 => s.regs.ptCode * 2
    | _ => 0

/-- Module page 0x4000. -/
def State.page4 (s : State) (off : Nat) : Nat :=
  let b (x : Bool) (i : Nat) : Nat := if x then 2 ^ i else 0
  let d := s.selDom
  match off with
  | 0x4000 => s.power.up + s.power.dn * 2 ^ 16
  | 0x4004 => s.power.ceil + s.power.floor * 2 ^ 16
  | 0x4008 => s.power.slot
  | 0x4010 => s.govState + s.power.bind * 2 ^ 4 + s.power.sticky.toNat * 2 ^ 8 + s.power.seq * 2 ^ 16
  | 0x4014 => s.power.pin + s.power.vin * 2 ^ 15
  | 0x4018 => s.power.iin + s.power.ballast * 2 ^ 16
  | 0x401C => s.power.cap + s.power.e / 1000 * 2 ^ 16
  | 0x4020 => s.power.panelSel.toNat
  | 0x4024 => (match d.vmin with
      | some (v, _, p) => v + p * 2 ^ 13
      | none => 0) + d.vminSeq * 2 ^ 16
  | 0x4028 => lo32 ((d.vmin.map fun x => x.2.1).getD 0)
  | 0x402C => hi32 ((d.vmin.map fun x => x.2.1).getD 0)
  | 0x4030 => if 384 ≤ s.selPanel then 0 else
      d.failed.length + (s.panel s.selPanel).pstate.num * 2 ^ 6 + (s.panel s.selPanel).cap * 2 ^ 8 + b (!d.bond.isEmpty) 15
  | 0x4040 => s.calib.thresh + s.calib.defer * 2 ^ 16
  | 0x4048 => (if s.calib.running.isSome then 2 else if s.calib.due.isSome then 1 else 0) + s.calib.dueMask * 4 +
      s.calib.sticky.toNat * 2 ^ 6 + s.calib.seq * 2 ^ 16
  | 0x404C => s.thermal.hot + s.ladderStep * 2 ^ 8 +
      ((List.range 4).map fun c => b (s.thermal.offOrder.any fun p => canopyOf p == c) (11 + c)).sum + b s.thermal.sticky 15 +
      s.thermal.seq * 2 ^ 16
  | 0x4050 => match s.thermal.coolant with
    | some (i, o, f) => i + o * 2 ^ 10 + f * 2 ^ 20 + b (!s.thermal.coolLost) 30
    | none => 0
  | 0x4054 => (List.range 4).foldl (fun n c => n + wholeDeg (s.calib.temps.getD c 0) * 2 ^ (8 * c)) 0
  | 0x4060 => s.errors.dupCtrl.toNat
  | 0x4064 => s.errors.sticky.toNat + s.errors.observed.length * 2 ^ 3 + s.errors.seq * 2 ^ 16
  | 0x4068 => s.errors.darnOvr.toNat
  | 0x406C => s.errors.unavailMs
  | 0x4070 => s.errors.overflow
  | 0x4080 => b s.freeze.immediate 0
  | 0x4084 => s.freeze.state.num + b s.freeze.spin 2 + b s.freeze.sviu 3 + b s.freeze.sbrk 4 + b s.freeze.expired 5 + s.freeze.seq * 2 ^ 16
  | 0x4088 => lo32 s.freeze.stopTime
  | 0x408C => hi32 s.freeze.stopTime
  | _ => 0

/-- Module page 0x5000. -/
def State.page5 (s : State) (off : Nat) : Nat :=
  let l := bitsOf s.regs.guySel.toNat 2 0
  let g := s.selGuy
  if 0x5040 ≤ off ∧ off < 0x5060 then lo32 ((s.regs.groupDig.getD l 0).toNat / 2 ^ (32 * ((off - 0x5040) / 4)))
  else
    match off with
    | 0x5000 => s.regs.guySel.toNat
    | 0x5004 => g.lanes + (if g.lowRate then 16 else 0) + (if g.training = .none then 0 else 32) +
        if s.chained && s.groupLinks.contains l then 64 else 0
    | 0x5008 => lo32 s.selCount
    | 0x500C => hi32 s.selCount
    | 0x5010 => lo32 g.partner
    | 0x5014 => hi32 g.partner
    | 0x5020 => s.regs.groupLinks.toNat
    | 0x5024 => s.regs.gid.toNat
    | _ => 0

/-- The guarded registers. -/
def gpOffsets : List Nat :=
  [0x1104, 0x1108, 0x110C, 0x1110, 0x1114, 0x2100, 0x2104, 0x2108, 0x210C, 0x2110, 0x2114, 0x2118, 0x211C, 0x4000, 0x4004, 0x4008, 0x4068, 0x4080]

/-- The register a guarded pair's offset belongs to, and whether it is the complement's (R529). -/
def gpOf (off : Nat) : Option (Nat × Bool) :=
  if off ∈ gpOffsets then some (off, false)
  else if 0x800 ≤ off ∧ off - 0x800 ∈ gpOffsets then some (off - 0x800, true)
  else none

/-- What a register of a function's window reads as; a virtual function's window holds the function block only (R526). -/
def State.regNow (s : State) (f off : Nat) : Nat :=
  if off < 0x1000 then s.fnReg f off
  else if f ≠ 0 then 0
  else if off < 0x2000 then s.page1 off
  else if off < 0x4000 then s.page2 off
  else if off < 0x5000 then s.page4 off
  else s.page5 off

/-- The value in force at an offset, or its complement at a guarded register's second offset (R529). -/
def State.regGet (s : State) (f off : Nat) : Word :=
  if f = 0 then
    match gpOf off with
    | some (a, true) => ~~~(BitVec.ofNat 32 (s.regNow 0 a))
    | _ => BitVec.ofNat 32 (s.regNow f off)
  else BitVec.ofNat 32 (s.regNow f off)

/-- Low offsets of register pairs (R527). -/
def loOffsets : List Nat :=
  [0x08, 0x10, 0x40, 0x50, 0x60, 0x70, 0x80, 0x90, 0xA0, 0x1008, 0x1010, 0x1018, 0x1110, 0x2000, 0x3048, 0x5008, 0x5010]

/-- Reading a low word latches its high word, which the next read of that gives (R527); a misaligned read gives 0 (R525). -/
def State.readReg (s : State) (f off : Nat) : Word × State :=
  if off % 4 ≠ 0 then (0#32, s)
  else if off ∈ loOffsets then
    (s.regGet f off, { s with regs := { s.regs with latchHi := putK s.regs.latchHi (f * 2 ^ 16 + off + 4) (s.regGet f (off + 4)) } })
  else
    match s.regs.latchHi.find? (fun x => x.1 == f * 2 ^ 16 + off) with
    | some x => (x.2, { s with regs := { s.regs with latchHi := delK s.regs.latchHi x.1 } })
    | none => (s.regGet f off, s)

/-! ### Guarded pairs (R19, R529, R533, R536, R537) -/

/-- 256 register-clock cycles. -/
def gpWindow : Nat := 1280

/-- Is a value inside the stated ranges of a guarded register's fields? -/
def State.gpInRange (s : State) (off : Nat) (v : Nat) : Bool :=
  let lim := v % 2 ^ 24
  match off with
  | 0x1104 => decide (bitsOf v 13 0 ≤ 8192)
  | 0x2104 => decide (lim ≤ 4096)
  | 0x2108 => match s.loaded with
    | some l => decide (scrubMin l.t ≤ lim)
    | none => true
  | 0x210C => decide (lim ≤ 255)
  | 0x2114 => decide (lim ≤ 15)
  | 0x2118 => decide (lim ≤ 15)
  | 0x211C => decide (1 ≤ lim) && decide (lim ≤ 255)
  | 0x4000 => [bitsOf v 15 0, bitsOf v 31 16].all fun x => decide (1 ≤ x) && decide (x ≤ 10000)
  | 0x4004 => decide (2000 ≤ bitsOf v 14 0) && decide (bitsOf v 14 0 ≤ 28000) && decide (bitsOf v 22 16 ≤ 100)
  | 0x4068 => darnOvrOk (BitVec.ofNat 32 v)
  | _ => true

/-- With no package loaded only a ration's field width is checked (R536). -/
def State.gpOk (s : State) (off v : Nat) : Bool :=
  if s.loaded.isNone ∧ 0x2100 ≤ off ∧ off < 0x2120 then true else s.gpInRange off v

/-- The governor's guarded settings in flash, which the next power-up starts from (R436). -/
def State.storeGov (s : State) : State :=
  { s with flash := { s.flash with up := s.power.up, dn := s.power.dn, ceil := s.power.ceil, floor := s.power.floor, slot := s.power.slot } }

/-- A completed pair in force; `sel` is the function a tenant register's pair selected. -/
def State.gpApply (s : State) (off sel v : Nat) : State :=
  let gov (p : Power) : State :=
    let s : State := { s with power := p }
    if s.mgmt.running then s.storeGov
    else { s with mgmt := { s.mgmt with flashDue := true } }
  match off with
  | 0x1104 => s.mapFn sel fun x => { x with seqQuota := bitsOf v 13 0 }
  | 0x1108 => s.mapFn sel fun x => { x with kvQuota := v }
  | 0x110C => s.mapFn sel fun x => { x with ceil := bitsOf v 2 0, dmaCap := bitsOf v 26 3 }
  | 0x1110 => s.mapFn sel fun x => { x with autos := BitVec.ofNat 64 (v + x.autos.toNat / 2 ^ 32 * 2 ^ 32) }
  | 0x1114 => s.mapFn sel fun x => { x with autos := BitVec.ofNat 64 (v * 2 ^ 32 + x.autos.toNat % 2 ^ 32) }
  | 0x4000 => gov { s.power with up := bitsOf v 15 0, dn := bitsOf v 31 16 }
  | 0x4004 => gov { s.power with ceil := bitsOf v 14 0, floor := bitsOf v 22 16 }
  | 0x4008 => gov { s.power with slot := bitsOf v 11 0 }
  | 0x4068 => { s with errors := { s.errors with darnOvr := BitVec.ofNat 32 (v % 2 ^ 18) } }
  | 0x4080 => { s with freeze := { s.freeze with immediate := v.testBit 0 } }
  | _ => { s with regs := { s.regs with rations := s.regs.rations.setIfInBounds ((off - 0x2100) / 4) (v % 2 ^ 24) } }

/-- Waiting halves past their 256 cycles are guard faults. -/
def State.expireHalves (s : State) : State :=
  let old := s.regs.halves.filter fun h => h.at_ + gpWindow < s.time
  let s : State := { s with regs := { s.regs with halves := s.regs.halves.filter fun h => ¬ h.at_ + gpWindow < s.time } }
  old.foldl (fun s h => s.guardFault (some 0) h.off) s

/-- A first half waits; a 17th discards the oldest as a guard fault. -/
def State.addHalf (s : State) (h : GpHalf) : State :=
  let s := match s.regs.halves with
    | o :: r => if 16 ≤ s.regs.halves.length then
        ({ s with regs := { s.regs with halves := r } } : State).guardFault (some 0) o.off else s
    | [] => s
  { s with regs := { s.regs with halves := s.regs.halves ++ [h] } }

/-- A completed pair: in force, or a guard fault. -/
def State.gpComplete (s : State) (writer : Option Nat) (off sel : Nat) (ok : Bool) (v : Word) : State :=
  if ok && s.gpOk off v.toNat then s.gpApply off sel v.toNat else s.guardFault writer off

/-- A write to one half of a guarded register by the host (R529). -/
def State.gpWrite (s : State) (off : Nat) (value : Word) : State :=
  match gpOf off with
  | none => s
  | some (a, isC) =>
    let s := s.expireHalves
    let new : GpHalf := ⟨a, isC, value, s.time, s.regs.tenSel⟩
    match s.regs.halves.find? (fun h => h.off == a) with
    | none => s.addHalf new
    | some h =>
      let s : State := { s with regs := { s.regs with halves := s.regs.halves.filter fun x => x.off ≠ a } }
      if h.isComplement = isC then (s.guardFault (some 0) a).addHalf new
      else
        let v := if isC then h.value else value
        let ok := h.value == ~~~value && (!(decide (0x1104 ≤ a) && decide (a ≤ 0x1114)) || h.sel == s.regs.tenSel)
        s.gpComplete (some 0) a h.sel.toNat ok v

/-- GUARDED_PAIR (R529). -/
def execGuardedPair (off : Nat) (value : Word) (s : State) : Host.Outcome State Fault Refusal :=
  onUnit True s fun s => s.gpWrite off value

/-- GUARD_PAIR_TIMEOUT (R529): the waiting half of a register is discarded 256 register-clock cycles after it came. -/
def execGuardPairTimeout (off : Nat) (s : State) : Host.Outcome State Fault Refusal :=
  onUnit True s fun s =>
    match gpOf off with
    | none => s
    | some (a, _) =>
      match s.regs.halves.find? (fun h => h.off == a) with
      | none => s
      | some h =>
        if s.time < h.at_ + gpWindow then s
        else ({ s with regs := { s.regs with halves := s.regs.halves.filter fun x => x.off ≠ a } } : State).guardFault (some 0) a

/-! ### Sequence clear (R528) -/

/-- Writing back the sequence number of a status register clears its sticky bits. -/
def State.sqWrite (s : State) (f off : Nat) (v : Word) : State :=
  let x := s.fn f
  match off with
  | 0x04 => if sqClear x.seq v then s.setFn f { x with sticky := 0 } else s
  | 0x2C => if sqClear x.zipSeq v then s.setFn f { x with zipDone := false } else s
  | off =>
    if f ≠ 0 then s
    else
      match off with
      | 0x1024 => if sqClear s.regs.modSeq v then { s with regs := { s.regs with modSticky := 0 } } else s
      | 0x4010 => if sqClear s.power.seq v then { s with power := { s.power with sticky := 0 } } else s
      | 0x4024 => if sqClear s.selDom.vminSeq v && decide (s.selPanel < 384) then
          s.mapPanel s.selPanel fun x => { x with
            dom := x.dom.setIfInBounds (bitsOf s.power.panelSel.toNat 10 9) { s.selDom with vmin := none } } else s
      | 0x4048 => if sqClear s.calib.seq v then { s with calib := { s.calib with sticky := 0 } } else s
      | 0x404C => if sqClear s.thermal.seq v then { s with thermal := { s.thermal with sticky := false } } else s
      | 0x4064 => if sqClear s.errors.seq v then { s with errors := { s.errors with sticky := 0 } } else s
      | 0x4084 => if sqClear s.freeze.seq v then { s with freeze := { s.freeze with expired := false } } else s
      | _ => s

/-- SEQUENCE_CLEAR (R528). -/
def execSequenceClear (f off : Nat) (value : Word) (s : State) : Host.Outcome State Fault Refusal :=
  onUnit (fnOk f) s fun s => s.sqWrite f off value

/-! ### Zip-staged registers (R531) -/

/-- ZP_WRITE (R531): only the physical function's window holds the goal registers. -/
def execZpWrite (f off : Nat) (value : Word) (s : State) : Host.Outcome State Fault Refusal :=
  onUnit (fnOk f) s fun s =>
    if f = 0 ∧ 0x3000 ≤ off ∧ off < 0x3020 ∧ off % 4 = 0 then s.zpWrite f off value else s

/-! ### Ring and doorbell registers (R328, R332, R334, R532) -/

/-- A write to RCTRL: a reserved LSIZE changes nothing, and enabling with one is ignored. -/
def State.rctrlWrite (s : State) (f i : Nat) (v : Word) : State :=
  let r := (s.fn f).ring i
  let n := bitsOf v.toNat 4 1
  let legal := decide (6 ≤ n) && n ≤ 16
  let sized := if legal then s.mapRing f i fun r => { r with lsize := n } else s
  if v.getLsbD 0 then (if r.en then sized else if legal then s.enableRing f i n else s)
  else if r.en then sized.disableRing f i
  else sized

/-- RING_ENABLE (R532). -/
def execRingEnable (f ring : Nat) (value : Word) (s : State) : Host.Outcome State Fault Refusal :=
  onUnit (fnOk f ∧ ringOk ring) s fun s => if value.getLsbD 0 then s.rctrlWrite f ring value else s

/-- RING_DISABLE (R532). -/
def execRingDisable (f ring : Nat) (value : Word) (s : State) : Host.Outcome State Fault Refusal :=
  onUnit (fnOk f ∧ ringOk ring) s fun s => if value.getLsbD 0 then s else s.rctrlWrite f ring value

/-- A write to FN_DB_HI: the held low word joins it, the old line is given up and the new one read (R332, R527). -/
def State.dbWrite (s : State) (f : Nat) (hi : Word) : State :=
  let x := s.fn f
  let addr := hi.toNat * 2 ^ 32 + x.dbHeldLo.toNat / 64 * 64
  ((s.dropLine f).mapFn f fun x => { x with dbAddr := addr }).watchLine f

/-- DOORBELL_ADDRESS_WRITE (R332). -/
def execDoorbellAddressWrite (f : Nat) (hi : Word) (s : State) : Host.Outcome State Fault Refusal :=
  onUnit (fnOk f) s fun s => s.dbWrite f hi

/-- A write to HOST_CTRL: POLL is stored as the nearer limit; CACHE_EN switches between watched and polled lines. -/
def State.hostCtrl (s : State) (v : Word) : State :=
  let en := v.getLsbD 0
  let was := s.regs.cacheEn
  let s : State := { s with regs := { s.regs with cacheEn := en, poll := max 1 (min 1000 (bitsOf v.toNat 11 2)) } }
  let fs := s.fns.map (·.1)
  if was && !en then fs.foldl (fun s f => s.dropLine f) s
  else if !was && en then fs.foldl (fun s f => s.watchLine f) s
  else s

/-- CACHE_EN_WRITE (R332). -/
def execCacheEnWrite (value : Word) (s : State) : Host.Outcome State Fault Refusal := onUnit True s fun s => s.hostCtrl value

/-! ### Page-table access (R538) -/

/-- The core and frame that PT_LOC and PT_FRAME name; none where PT_NOFRAME applies. -/
def State.ptSite (s : State) : Option (Site × Nat) :=
  let n := s.regs.ptLoc.toNat
  let fr := s.regs.ptFrame.toNat
  if s.loaded.isNone then none
  else
    match s.siteOfLogical (panelAt (bitsOf n 1 0) (bitsOf n 5 2) (bitsOf n 8 6)) (bitsOf n 12 9) (bitsOf n 16 13) with
    | some k => if fr < (s.core k).tab.frames then some (k, fr) else none
    | none => none

/-- The record fetched; where there is none it reads as 0. -/
def State.ptFetch (s : State) : State :=
  let v := match s.ptSite with
    | some (k, f) => (s.core k).frameRaw f
    | none => 0
  { s with regs := { s.regs with ptData := BitVec.ofNat 64 v } }

/-- A write to PT_LOC or PT_FRAME. -/
def State.ptSelect (s : State) (off : Nat) (v : Word) : State :=
  if off = 0x3040 then ({ s with regs := { s.regs with ptLoc := v &&& 0x1FFFF#32 } } : State).ptFetch
  else if off = 0x3044 then ({ s with regs := { s.regs with ptFrame := v &&& 0x3FF#32 } } : State).ptFetch
  else s

/-- PT_FETCH (R538). -/
def execPtFetch (off : Nat) (value : Word) (s : State) : Host.Outcome State Fault Refusal :=
  onUnit True s fun s => s.ptSelect off value

/-- A write to PT_DATA_HI: the record submitted, or refused. -/
def State.ptSubmit (s : State) (hi : Word) : State :=
  let d : DWord := hi.zeroExtend 64 <<< 32 ||| (s.regs.ptData &&& 0xFFFFFFFF#64)
  let s : State := { s with regs := { s.regs with ptData := d } }
  let refuse (c : Nat) : State := { s with regs := { s.regs with ptCode := c, modSticky := s.regs.modSticky ||| 0b010#3 } }
  match s.ptSite with
  | none => refuse 3
  | some (k, f) =>
    let st := ((s.core k).frameRec f).st
    if st = 1 then refuse 1
    else if st = 2 ∨ (d.toNat ≠ 0 ∧ d.toNat ≠ 3) then refuse 2
    else ({ s with regs := { s.regs with ptCode := 0 } } : State).putFrameRec k f (frameRecOf d.toNat)

/-- PT_WRITE (R538). -/
def execPtWrite (value : Word) (s : State) : Host.Outcome State Fault Refusal := onUnit True s fun s => s.ptSubmit value

/-! ### Extension records (R535) -/

/-- A write to EXT_SEL latches the record at that index, or zeros. -/
def State.extSelect (s : State) (v : Word) : State :=
  let i := bitsOf v.toNat 9 0
  let ws := match s.extAt i with
    | some x => wordsOf x.bytes 8
    | none => List.replicate 8 0#32
  { s with regs := { s.regs with extSel := BitVec.ofNat 32 i, extLatched := ws } }

/-- EXT_SEL (R535). -/
def execExtSel (value : Word) (s : State) : Host.Outcome State Fault Refusal := onUnit True s fun s => s.extSelect value

/-! ### Commands through registers (R433, R434, R437, R451) -/

/-- PWR_CMD's effect, from the register or over Viumond; whether it applied. -/
def State.powerCmd (s : State) (cmd : Nat) : Bool × State :=
  match cmd with
  | 1 => if s.power.state = .running then (true, s.enterBivouac) else (false, s.ignorePower 1)
  | 2 => if s.mayWake then (true, s.wakeGroup false) else (false, s.ignorePower 2)
  | 3 => if s.mayWake then (true, s.wakeGroup true) else (false, s.ignorePower 3)
  | _ => (true, s)

/-! ### Every other register (R530) -/

/-- A write to a register of the function block. -/
def State.fnWrite (s : State) (f off : Nat) (v : Word) : State :=
  let n := v.toNat
  let vecs := if f = 0 then 2048 else 16
  if 0x40 ≤ off ∧ off < 0xB0 then
    let i := (off - 0x40) / 16
    match off % 16 with
    | 0 => s.mapRing f i fun r => { r with heldLo := v }
    | 4 => s.mapRing f i fun r => { r with base := n * 2 ^ 32 + r.heldLo.toNat / 4096 * 4096 }
    | 8 => s.rctrlWrite f i v
    | _ => s
  else
    match off with
    | 0x04 => s.sqWrite f off v
    | 0x08 => s.mapFn f fun x => { x with dbHeldLo := v }
    | 0x0C => s.dbWrite f v
    | 0x10 => s.mapFn f fun x => { x with stHeldLo := v }
    | 0x14 => s.mapFn f fun x => { x with stAddr := n * 2 ^ 32 + x.stHeldLo.toNat / 64 * 64 }
    | 0x18 => s.mapFn f fun x => { x with
        cvec := if bitsOf n 10 0 < vecs then bitsOf n 10 0 else x.cvec
        evec := if bitsOf n 21 11 < vecs then bitsOf n 21 11 else x.evec }
    | 0x1C => s.mapFn f fun x => { x with moderation := min 1000 (bitsOf n 9 0) }
    | 0x2C => s.sqWrite f off v
    | _ => s

/-- A write to a module page's register that is neither guarded nor zip-staged. -/
def State.pageWrite (s : State) (off : Nat) (v : Word) : State :=
  let n := v.toNat
  let r := s.regs
  if 0x5040 ≤ off ∧ off < 0x5060 then
    let l := bitsOf r.guySel.toNat 2 0
    let sh := 32 * ((off - 0x5040) / 4)
    let d := (r.groupDig.getD l 0).toNat
    { s with regs := { r with groupDig := r.groupDig.set l (BitVec.ofNat 256 (d - d / 2 ^ sh % 2 ^ 32 * 2 ^ sh + n * 2 ^ sh)) } }
  else
    match off with
    | 0x1040 => s.hostCtrl v
    | 0x1100 => { s with regs := { r with
        tenSel := v &&& 0x1FF#32
        -- a pair whose selector is written between its halves is a guard fault (R529)
        halves := r.halves.map fun h => { h with sel := 0xFFFFFFFF#32 } } }
    | 0x2010 => s.extSelect v
    | 0x2040 => { s with regs := { r with lateSel := v &&& 0xFF#32 } }
    | 0x3040 => s.ptSelect off v
    | 0x3044 => s.ptSelect off v
    | 0x3048 => { s with regs := { r with ptData := BitVec.ofNat 64 (r.ptData.toNat / 2 ^ 32 * 2 ^ 32 + n) } }
    | 0x304C => s.ptSubmit v
    | 0x400C => (s.powerCmd (n % 4)).2
    | 0x4020 => { s with power := { s.power with panelSel := v &&& 0x7FF#32 } }
    | 0x4040 => { s with calib := { s.calib with thresh := max 2 (min 20 (bitsOf n 4 0)), defer := min 60000 (bitsOf n 31 16) } }
    | 0x4044 => if v.getLsbD 0 then s.calNow else s
    | 0x4060 =>
      let frac := if bitsOf n 2 0 ≤ 4 then bitsOf n 2 0 else bitsOf s.errors.dupCtrl.toNat 2 0
      { s with errors := { s.errors with dupCtrl := BitVec.ofNat 32 (frac + bitsOf n 3 3 * 8) } }
    | 0x5000 => { s with regs := { r with guySel := v &&& 0x7F#32 } }
    | 0x5020 => { s with regs := { r with groupLinks := BitVec.ofNat 8 n } }
    | 0x5024 => { s with regs := { r with gid := v } }
    | _ => s.sqWrite 0 off v

/-- A host's write to any register of a function's window (R525, R526): misaligned and reserved offsets do nothing. -/
def State.writeReg (s : State) (f off : Nat) (v : Word) : State :=
  if off % 4 ≠ 0 ∨ 0x10000 ≤ off then s
  else if off < 0x1000 then s.fnWrite f off v
  else if f ≠ 0 then s
  else if (gpOf off).isSome then s.gpWrite off v
  else if 0x3000 ≤ off ∧ off < 0x3020 then s.zpWrite 0 off v
  else s.pageWrite off v

/-- REGISTER_WRITE (R525, R530). -/
def execRegisterWrite (f off : Nat) (value : Word) (s : State) : Host.Outcome State Fault Refusal :=
  onUnit (fnOk f) s fun s => s.writeReg f off value

/-- Viumond's write of a guarded register: both halves at once, and no half that waits is disturbed; whether it is in
force (R529, R511). -/
def State.viuPair (s : State) (off : Nat) (v comp : Word) : Bool × State :=
  let ok := comp == ~~~v && s.gpOk off v.toNat
  (ok, s.gpComplete none off (bitsOf s.regs.tenSel.toNat 8 0) ok v)

end Sys2Proof.Machine
end

