-- ==== Sys2Proof/Machine/Mgmt.lean ====
section
/-! DEFINITION. Management and trust (R494 to R524): the controller, its supervisor and its firmware, the identity key,
Viumond's sessions and messages, event pushes, the operator hold, and freezes. -/

namespace Sys2Proof.Machine

/-! ### Firmware images (R498, R500 to R502) -/

/-- The bytes of an image a slot holds. -/
def FwSlot.image (f : FwSlot) : List Byte := if f.factory then Config.factoryImage else Mem.readN f.bytes 0 f.total

/-- How far the ranges that have come cover an image from `at_`. -/
def coveredTo : Nat → List (Nat × Nat) → Nat → Nat
  | 0, _, at_ => at_
  | n + 1, rs, at_ => match rs.find? (fun r => decide (r.1 ≤ at_) && decide (at_ < r.1 + r.2)) with
    | some r => coveredTo n rs (r.1 + r.2)
    | none => at_

/-- Has every byte of a staged image come? -/
def FwSlot.complete (f : FwSlot) : Bool := decide (0 < f.total) && coveredTo (f.got.length + 1) f.got 0 == f.total

/-- Does the ROM accept a slot's image (R501)? -/
def State.slotOk (s : State) (f : FwSlot) : Bool :=
  f.factory || (f.complete && Config.imageSigned f.image && decide (s.flash.minVersion ≤ Config.imageVersion f.image))

def State.slotOf (s : State) (b : Bool) : FwSlot := if b then s.flash.fwB else s.flash.fwA
def State.setSlot (s : State) (b : Bool) (f : FwSlot) : State :=
  { s with flash := if b then { s.flash with fwB := f } else { s.flash with fwA := f } }

/-- The running image. -/
def State.runningImage (s : State) : List Byte := (s.slotOf s.mgmt.runningB).image

/-! ### The controller and its supervisor (R494 to R497, R501, R502) -/

/-- The processor stops: its sessions, and the reads that wait in them, are gone. -/
def State.stopController (s : State) : State :=
  { s with mgmt := { s.mgmt with running := false, sessions := [], reads := [], trialSince := none } }

/-- The supervisor restarts the controller; the fourth restart within an hour leaves it in reset (R496, R497). -/
def State.restartController (s : State) : State :=
  let now := s.mclock
  let recent := (s.mgmt.restarts.filter fun t => now < t + hourNs) ++ [now]
  let s := s.stopController
  let s : State := { s with mgmt := { s.mgmt with restarts := recent } }
  if 4 ≤ recent.length then
    ({ s with mgmt := { s.mgmt with heldInReset := true } } : State).raise
      { code := 0x0B01, cls := .degraded, kind := 12, loc := mgmtLoc, count := recent.length }
  else s

/-- A trial image has failed: the former image is preferred again (R502). -/
def State.rollBack (s : State) : State :=
  let v := Config.imageVersion (s.slotOf s.flash.preferB).image
  ({ s with flash := { s.flash with preferB := !s.flash.preferB, trial := false } } : State).raise
    { code := 0x0B03, cls := .degraded, kind := 12, loc := mgmtLoc, arg0 := v }

/-- The supervisor's restart of a controller that does not answer, on the former image during a trial. -/
def State.supervise (s : State) : State :=
  let trial := s.mgmt.trialSince.isSome
  let s := s.restartController
  if trial then s.rollBack else s

/-- SUPERVISOR_CHALLENGE (R496): the answer to the last challenge, then the next challenge. -/
def execSupervisorChallenge (answer : Option Word) (s : State) : Host.Outcome State Fault Refusal :=
  onUnit True s fun s =>
    if !s.powered then s
    else
      let good := answer == some (mix s.mgmt.challenge)
      let late := decide (s.mgmt.lastGood + secNs ≤ s.mclock)
      let x := s.takeFree
      let s : State := { x.2 with mgmt := { x.2.mgmt with challenge := x.1 } }
      if !s.mgmt.running then s
      else if good then { s with mgmt := { s.mgmt with lastGood := s.mclock } }
      else if late then s.supervise
      else s

/-- FIRMWARE_TRIAL (R502): the outcome of a trial. -/
def execFirmwareTrial (good : Bool) (s : State) : Host.Outcome State Fault Refusal :=
  onUnit True s fun s =>
    match s.mgmt.trialSince with
    | none => s
    | some t =>
      if !good then s.supervise
      else if s.mclock < t + 60 * secNs then s
      else { s with flash := { s.flash with trial := false }, mgmt := { s.mgmt with trialSince := none } }

/-- A session identifier that is not 0 and that no open session has (R509, R510). -/
def State.freshId (s : State) : DWord :=
  ((Config.sessionId s.free :: (List.range 9).map fun i => BitVec.ofNat 64 (i + 1)).find? fun v =>
    v != 0#64 && !(s.mgmt.sessions.any fun x => x.id == v)).getD 1#64

/-- Sessions opened to the collectors that flash names (R513). -/
def State.openCollectors (s : State) : State :=
  s.flash.collectors.foldl (fun s c =>
    let x : Collector := ⟨c.1, c.2, s.freshId, Config.pushKey s.free, 1, []⟩
    { s with mgmt := { s.mgmt with collectors := s.mgmt.collectors ++ [x] }, free := s.free + 1 })
    { s with mgmt := { s.mgmt with collectors := [] } }

/-- The records the log holds that Viumond has not taken (R480). -/
def State.takeUntaken (s : State) : State :=
  let es := s.errors.log.drop (s.errors.log.length - s.errors.untaken)
  es.foldl (fun s e => s.takeEvent e) { s with errors := { s.errors with untaken := 0 } }

/-- The writes to flash that waited for the controller (R495). -/
def State.flushWaiting (s : State) : State :=
  let s := if s.mgmt.flashDue then s.storeGov else s
  let s := if s.mgmt.mapDue then s.storeMap else s
  { s with mgmt := { s.mgmt with flashDue := false, mapDue := false } }

/-- A PWR_EN assertion made before the controller first ran counts as made now (R554). -/
def State.firstStart (s : State) : State :=
  if s.mgmt.started then s
  else
    { s with
      mgmt := { s.mgmt with started := true }
      power := if s.power.pwrEn && !s.power.cycle && s.power.state == .standby then { s.power with startAt := some s.slotAt } else s.power }

/-- The controller runs an image: what waited for it, and what its start begins (R480, R495, R502 to R504). -/
def State.bootController (s : State) (b : Bool) : State :=
  let now := s.mclock
  let s : State := { s with
    mgmt := { s.mgmt with
      running := true, runningB := b, lastGood := now, pufOk := Config.pufUnwraps s.free
      trialSince := if s.flash.trial && b == s.flash.preferB then some now else none }
    flash := { s.flash with keyIndex := s.flash.reservation }
    free := s.free + 1 }
  let s := if s.mgmt.collectors.isEmpty then s.openCollectors else s
  let s := s.takeUntaken.flushWaiting.firstStart
  let s := if s.flash.trial && b != s.flash.preferB then s.rollBack else s
  if s.mgmt.pufOk then s else s.raise { code := 0x0B05, cls := .degraded, kind := 12, loc := mgmtLoc }

/-- CONTROLLER_START (R501): the preferred image, then the other one. -/
def execControllerStart (s : State) : Host.Outcome State Fault Refusal :=
  onUnit True s fun s =>
    if !s.powered || s.mgmt.running || s.mgmt.heldInReset then s
    else
      let b := s.flash.preferB
      if s.slotOk (s.slotOf b) then s.bootController b
      else if s.slotOk (s.slotOf !b) then s.bootController !b
      else s.raise { code := 0x0B02, cls := .fatal, kind := 12, loc := mgmtLoc }

/-! ### Attestation (R503 to R506, R509, R510) -/

/-- The fields of R506 from MODID to MAP. -/
def State.attest (s : State) (kidx : Nat) : List Byte :=
  let tick := match s.loaded with
    | some _ => if s.tick.running then s.tick.n else s.tick.stoppedAt.getD (2 ^ 64 - 1)
    | none => 2 ^ 64 - 1
  let pkg := match s.loaded with
    | some l => l.pkg.digest.toNat
    | none => 0
  natLe 8 s.flash.modId.toNat ++ natLe 8 s.time ++ natLe 8 tick ++ natLe 4 (Config.imageVersion s.runningImage) ++ natLe 4 kidx ++
    sha256 s.runningImage ++ natLe 32 pkg ++ natLe 32 s.weights.heldDigest.toNat ++
    natLe 32 (Config.mapDigest (s.errors.skipped.map fun k => (k.panel, k.col, k.row))).toNat

/-- An LMS signature is 1,772 bytes (R506). -/
def State.sign (s : State) (q : Nat) (msg : List Byte) : List Byte := bytesAt (Config.lmsSign s.flash.keyId q msg) 0 1772

/-- The session record (R510). -/
def State.sessionRecord (s : State) (mnonce : BitVec 256) (id : DWord) (q : Option Nat) : List Byte :=
  let left := match q with
    | some q => keyTotal - 1 - q
    | none => keyTotal - s.flash.keyIndex
  natLe 32 mnonce.toNat ++ natLe 8 id.toNat ++
    natLe 8 ((if q.isNone then 1 else 0) + if left ≤ 104857 then 2 else 0) ++ s.attest (q.getD 0xFFFFFFFF) ++ List.replicate 48 0#8

/-- SESSION_OPEN's effect, its tag verified under the operator key. -/
def State.openSession (s : State) (d : Datagram) (opKey : BitVec 256) : State :=
  let answer (s : State) (st : Nat) (body : List Byte) : State := s.send (s.response d opKey st body)
  if !bodyOk d 32 [(0, 256)] || d.session != 0#64 then answer s stRange []
  else if 8 ≤ s.mgmt.sessions.length then answer s stBusy []
  else
    let mn := Config.nonce s.free
    let id := s.freshId
    let on := d.body.take 32
    let key := hmac256 opKey (on ++ natLe 32 mn.toNat)
    let s : State := { s with free := s.free + 1 }
    let sess (u : Bool) : Session := ⟨id, key, s.mclock, none, none, u⟩
    match s.signNext false with
    | some (q, t) =>
      let rec_ := t.sessionRecord mn id (some q)
      answer { t with mgmt := { t.mgmt with sessions := t.mgmt.sessions ++ [sess false] } } stOk (rec_ ++ t.sign q (on ++ rec_))
    | none =>
      let rec_ := s.sessionRecord mn id none
      answer { s with mgmt := { s.mgmt with sessions := s.mgmt.sessions ++ [sess true] } } stOk rec_

/-- SESSION_OPEN (R509, R510). -/
def execSessionOpen (d : Datagram) (s : State) : Host.Outcome State Fault Refusal :=
  onUnit True s fun s =>
    if !s.powered || !s.mgmt.running || !datagramOk d || d.typ != 1#8 then s
    else
      match s.flash.opKey with
      | none => s.dropTag
      | some k => if d.tag ≠ tagOf k d then s.dropTag else s.openSession d k

/-- SESSION_TIMEOUT (R509): 600 s without a request close a session. -/
def execSessionTimeout (id : DWord) (s : State) : Host.Outcome State Fault Refusal :=
  onUnit True s fun s =>
    { s with mgmt := { s.mgmt with sessions := s.mgmt.sessions.filter fun x => x.id ≠ id || decide (s.mclock < x.lastReq + 600 * secNs) } }

/-- QUOTE (R506). -/
def State.quote (s : State) (nonce : List Byte) : Reply :=
  match s.signNext false with
  | some (q, t) =>
    let ev := nonce ++ t.attest q ++ List.replicate 64 0#8
    replyOk (ev ++ t.sign q ev) t
  | none => reply stState s

def execQuote (d : Datagram) (s : State) : Host.Outcome State Fault Refusal :=
  onUnit True s fun s => s.viumond 0x0F d (fun _ => 32) (fun _ => [(0, 256)]) fun s _ _ => s.quote (d.body.take 32)

/-- KEY_ROTATE, generate: a successor key, its public half signed with the current key (R505). -/
def State.makeSuccessor (s : State) : Reply :=
  match s.signNext true with
  | some (q, t) =>
    let pub := Config.lmsPublic t.free
    let body := natLe 56 pub.toNat
    replyOk (body ++ t.sign q body) { t with mgmt := { t.mgmt with successor := some (t.free + 1, pub) }, free := t.free + 1 }
  | none => reply stState s

/-- KEY_ROTATE, confirm: the successor takes over (R505). -/
def State.takeSuccessor (s : State) : Reply :=
  match s.mgmt.successor with
  | some (k, _) => replyOk [] { s with
      flash := { s.flash with keyId := k, keyIndex := 0, reservation := 0 }, mgmt := { s.mgmt with successor := none } }
  | none => reply stState s

/-- KEY_ROTATE_GENERATE (R505); OP 1 is the other command. -/
def execKeyRotateGenerate (d : Datagram) (s : State) : Host.Outcome State Fault Refusal :=
  onUnit True s fun s =>
    if (d.body.getD 0 0#8).getLsbD 0 then s
    else s.viumond 0x10 d (fun _ => 1) (fun _ => [(0, 1)]) fun s _ _ => s.makeSuccessor

/-- KEY_ROTATE_CONFIRM (R505); OP 0 is the other command. -/
def execKeyRotateConfirm (d : Datagram) (s : State) : Host.Outcome State Fault Refusal :=
  onUnit True s fun s =>
    if (d.body.getD 0 0#8).getLsbD 0 then s.viumond 0x10 d (fun _ => 1) (fun _ => [(0, 1)]) fun s _ _ => s.takeSuccessor
    else s

/-- OPKEY (R509). -/
def execOpkey (d : Datagram) (s : State) : Host.Outcome State Fault Refusal :=
  onUnit True s fun s => s.viumond 0x14 d (fun _ => 32) (fun _ => [(0, 256)]) fun s _ v =>
    replyOk [] { s with flash := { s.flash with opKey := some (BitVec.ofNat 256 v) } }

/-! ### Registers (R511, R512, R529) -/

/-- READ_REG's words, from an offset upward. -/
def readWords (f : Nat) : Nat → Nat → State → List Byte × State
  | 0, _, s => ([], s)
  | n + 1, off, s =>
    let r := s.readReg f off
    let t := readWords f n (off + 4) r.2
    (natLe 4 r.1.toNat ++ t.1, t.2)

/-- Bytes of a function's register window (R525). -/
def windowSize (f : Nat) : Nat := if f = 0 then 2 ^ 16 else 2 ^ 12

/-- READ_REG (R511, R512). -/
def execReadReg (d : Datagram) (s : State) : Host.Outcome State Fault Refusal :=
  onUnit True s fun s => s.viumond 2 d (fun _ => 10) (fun _ => [(0, 9), (32, 32), (64, 9)]) fun s _ v =>
    let f := bitsOf v 8 0
    let off := bitsOf v 63 32
    let n := bitsOf v 72 64
    if off % 4 ≠ 0 ∨ n = 0 ∨ 256 < n ∨ windowSize f < off + 4 * n then reply stRange s
    else
      let r := readWords f n off s
      replyOk r.1 r.2

/-- WRITE_REG's effect (R511, R512, R529). -/
def State.viuWrite (s : State) (f off : Nat) (v comp : Word) : Reply :=
  let gp := if f = 0 then gpOf off else none
  match gp with
  | some (a, false) =>
    let r := s.viuPair a v comp
    if r.1 then replyOk [] r.2 else reply stGuard r.2
  | some (_, true) => reply stRange s
  | none => if comp ≠ 0#32 ∨ windowSize f ≤ off then reply stRange s else replyOk [] (s.writeReg f off v)

def execWriteReg (d : Datagram) (s : State) : Host.Outcome State Fault Refusal :=
  onUnit True s fun s => s.viumond 3 d (fun _ => 16) (fun _ => [(0, 9), (32, 32), (64, 32), (96, 32)]) fun s _ v =>
    s.viuWrite (bitsOf v 8 0) (bitsOf v 63 32) (BitVec.ofNat 32 (bitsOf v 95 64)) (BitVec.ofNat 32 (bitsOf v 127 96))

/-! ### Events (R480, R512, R513) -/

/-- The log's records from a SEQ: from the newest record that has it, else from the oldest with a greater one. -/
def logFrom (log : List Event) (first : Nat) : List Event :=
  match log.reverse.findIdx? (fun e => e.seq == first) with
  | some i => log.drop (log.length - 1 - i)
  | none => match log.findIdx? (fun e => decide (first < e.seq)) with
    | some i => log.drop i
    | none => []

/-- EVENTS (R511, R512). -/
def execEvents (d : Datagram) (s : State) : Host.Outcome State Fault Refusal :=
  onUnit True s fun s => s.viumond 5 d (fun _ => 3) (fun _ => [(0, 16), (16, 8)]) fun s _ v =>
    let n := bitsOf v 23 16
    if n = 0 ∨ 60 < n then reply stRange s
    else
      let es := (logFrom s.errors.log (bitsOf v 15 0)).take n
      replyOk (eventsBody es (match es.getLast? with
        | some e => nextSeqOf e.seq
        | none => bitsOf v 15 0)) s

/-- The pushes left once those up to a SEQ are acknowledged. -/
def ackTo (l : List Push) (hi : Nat) : List Push :=
  match l.reverse.findIdx? (fun p => p.ev.seq == hi) with
  | some i => l.drop (l.length - i)
  | none => l

/-- EVENT_ACK (R513): it comes in the session the engine opened to the collector. -/
def execEventAck (d : Datagram) (s : State) : Host.Outcome State Fault Refusal :=
  onUnit True s fun s =>
    if !s.powered || !s.mgmt.running || !datagramOk d || d.typ != 7#8 then s
    else
      match s.mgmt.collectors.find? (fun c => c.session == d.session) with
      | none => s.dropTag
      | some c =>
        if d.tag ≠ tagOf c.key d then s.dropTag
        else if !bodyOk d 2 [(0, 16)] then s.send (s.response d c.key stRange [])
        else
          let hi := fieldAt d.body 0 2
          ({ s with mgmt := { s.mgmt with collectors := s.mgmt.collectors.map fun x =>
            if x.session = c.session then { x with unacked := ackTo x.unacked hi } else x } } : State).send (s.response d c.key stOk [])

/-- Records in datagrams of up to 60, numbered from the collector's next request; `fuel` bounds their number. -/
def repushes (modid : DWord) : Nat → Collector → List Event → List Datagram × Collector
  | 0, c, _ => ([], c)
  | n + 1, c, es =>
    if es.isEmpty then ([], c)
    else
      let r := repushes modid n { c with nextReq := c.nextReq + 1 } (es.drop 60)
      (c.push modid (es.take 60) :: r.1, r.2)

/-- A collector's unacknowledged pushes: those an hour old lapse, those last sent 1 s ago go again (R513). -/
def repush (now : Nat) (modid : DWord) (c : Collector) : List Datagram × Collector :=
  let keep := c.unacked.filter fun p => now < p.first + hourNs
  let due := keep.filter fun p => p.last + secNs ≤ now
  let r := repushes modid (due.length + 1) c (due.map (·.ev))
  (r.1, { r.2 with unacked := keep.map fun p => if p.last + secNs ≤ now then { p with last := now } else p })

/-- EVENT_PUSH_REPEAT (R513). -/
def execEventPushRepeat (s : State) : Host.Outcome State Fault Refusal :=
  onUnit True s fun s =>
    if !s.powered || !s.mgmt.running then s
    else
      let rs := s.mgmt.collectors.map (repush s.mclock s.flash.modId)
      { s with mgmt := { s.mgmt with
        collectors := rs.map (·.2)
        pushes := s.mgmt.pushes ++ ((List.range rs.length).zip rs).flatMap fun x => x.2.1.map fun d => (x.1, d) } }

/-- The entries of a COLLECTORS body. -/
def collectorAt (body : List Byte) (i : Nat) : BitVec 128 × Nat :=
  (BitVec.ofNat 128 (fieldAt body (8 + 24 * i) 16), fieldAt body (24 + 24 * i) 2)

/-- COLLECTORS' body: N, CMASK and N entries. -/
def collectorsLeast (v : Nat) : Nat := if v % 8 = 0 then 2 else 8 + 24 * (v % 8)
def collectorsLayout (v : Nat) : Layout :=
  [(0, 3), (8, 8)] ++ (List.range (v % 8)).flatMap fun i => [(64 + 192 * i, 128), (192 + 192 * i, 16)]

/-- COLLECTORS (R511 to R513). -/
def execCollectors (d : Datagram) (s : State) : Host.Outcome State Fault Refusal :=
  onUnit True s fun s => s.viumond 0x11 d collectorsLeast collectorsLayout fun s _ v =>
    let n := v % 8
    if 4 < n then reply stRange s
    else
      replyOk [] ({ s with flash := { s.flash with
        collectors := (List.range n).map (collectorAt d.body), classMask := BitVec.ofNat 8 (bitsOf v 15 8) } } : State).openCollectors

/-! ### Firmware update (R502) -/

/-- FW_STAGE's body: OFFSET, TOTAL, CLEN and the chunk. -/
def fwStageLeast (v : Nat) : Nat := 16 + bitsOf v 79 64
def fwStageLayout (v : Nat) : Layout := [(0, 32), (32, 32), (64, 16), (128, 8 * bitsOf v 79 64)]

/-- Bytes of a firmware slot (R498). -/
def fwSlotSize : Nat := 48 * 2 ^ 20

/-- FW_STAGE's effect on the slot that does not run. -/
def State.fwStage (s : State) (off total : Nat) (chunk : List Byte) : Reply :=
  let n := chunk.length
  if n = 0 ∨ 4000 < n ∨ total = 0 ∨ fwSlotSize < total ∨ total < off + n then reply stRange s
  else
    let b := !s.mgmt.runningB
    let f := s.slotOf b
    let f := if f.factory || f.complete || f.total != total then { total := total } else f
    let f := { f with bytes := Mem.write f.bytes off chunk, got := f.got ++ [(off, n)] }
    let s := s.setSlot b f
    if f.complete && !s.slotOk f then reply stState s else reply stOk s

/-- FW_STAGE (R502, R512). -/
def execFwStage (d : Datagram) (s : State) : Host.Outcome State Fault Refusal :=
  onUnit True s fun s => s.viumond 0x0D d fwStageLeast fwStageLayout fun s _ v =>
    s.fwStage (bitsOf v 31 0) (bitsOf v 63 32) (bytesAt d.body 16 (bitsOf v 79 64))

/-- FW_ACTIVATE (R502): the other slot is preferred on trial and the controller restarts. -/
def execFwActivate (d : Datagram) (s : State) : Host.Outcome State Fault Refusal :=
  onUnit True s fun s => s.viumond 0x0E d (fun _ => 0) (fun _ => []) fun s _ _ =>
    let b := !s.mgmt.runningB
    if s.slotOk (s.slotOf b) then
      reply stOk ({ s with flash := { s.flash with preferB := b, trial := true } } : State).stopController
    else reply stState s

/-! ### Power, reset and the operator hold (R228, R433, R434, R437, R511, R523) -/

/-- A power command: from PWR_CMD, or as a POWER message that names it. -/
def State.powerRequest (s : State) (src : PowerSource) (cmd : Nat) : State :=
  match src with
  | .register => (s.powerCmd cmd).2
  | .viumond d =>
    if (d.body.getD 0 0#8).toNat % 4 ≠ cmd then s
    else s.viumond 0x0C d (fun _ => 1) (fun _ => [(0, 2)]) fun s _ _ =>
      let r := s.powerCmd cmd
      if r.1 then replyOk [] r.2 else reply stState r.2

/-- BIVOUAC_ENTRY (R433). -/
def execBivouacEntry (src : PowerSource) (s : State) : Host.Outcome State Fault Refusal :=
  onUnit True s fun s => s.powerRequest src 1

/-- WAKE_IMMEDIATE (R434). -/
def execWakeImmediate (src : PowerSource) (s : State) : Host.Outcome State Fault Refusal :=
  onUnit True s fun s => s.powerRequest src 2

/-- WAKE_STAGGERED (R434). -/
def execWakeStaggered (src : PowerSource) (s : State) : Host.Outcome State Fault Refusal :=
  onUnit True s fun s => s.powerRequest src 3

/-- RESET (R523): answered, then the module resets; module time starts at 0 when pitching begins. -/
def execReset (d : Datagram) (p : Pitch) (s : State) : Host.Outcome State Fault Refusal :=
  onUnit True s fun s => s.viumond 0x0B d (fun _ => 0) (fun _ => []) fun s _ _ => reply stOk (s.startReset (some (p, true)))

/-- HOLD_PLACE (R228, R511): placed at the next release; there is none without a package. -/
def execHoldPlace (d : Datagram) (s : State) : Host.Outcome State Fault Refusal :=
  onUnit True s fun s =>
    if (d.body.getD 0 0#8).getLsbD 0 then s
    else s.viumond 8 d (fun _ => 1) (fun _ => [(0, 1)]) fun s _ _ =>
      if s.loaded.isNone then reply stState s
      else reply stOk (if s.held 7 then s else { s with mgmt := { s.mgmt with opHold := true } })

/-- HOLD_LIFT (R228, R511). -/
def execHoldLift (d : Datagram) (s : State) : Host.Outcome State Fault Refusal :=
  onUnit True s fun s =>
    if (d.body.getD 0 0#8).getLsbD 0 then s.viumond 8 d (fun _ => 1) (fun _ => [(0, 1)]) fun s _ _ =>
      reply stOk (({ s with mgmt := { s.mgmt with opHold := false } } : State).liftHold 7).freezeSettle
    else s

/-! ### Freezes (R520 to R524, R552, R554) -/

/-- 100 ms, after which a freeze is no longer resumable (R522). -/
def freezeLimit : Nat := 100 * msNs

/-- Does a freeze wait until pitching ends (R554)? -/
def State.freezeWaits (s : State) : Bool := s.power.state == .standby || s.power.state == .pitching

/-- A Viumond FREEZE in the mode it names. -/
def State.viuFreeze (s : State) (immediate : Bool) : State :=
  if s.freezeWaits then { s with freeze := { s.freeze with waitPitch := some (immediate || s.freeze.waitPitch == some true) } }
  else s.requestFreeze .viumond immediate

/-- FREEZE_TICK_ALIGNED (R520). -/
def execFreezeTickAligned (d : Datagram) (s : State) : Host.Outcome State Fault Refusal :=
  onUnit True s fun s =>
    if (d.body.getD 0 0#8).getLsbD 0 then s
    else s.viumond 9 d (fun _ => 1) (fun _ => [(0, 1)]) fun s _ _ => reply stOk (s.viuFreeze false)

/-- FREEZE_IMMEDIATE (R520). -/
def execFreezeImmediate (d : Datagram) (s : State) : Host.Outcome State Fault Refusal :=
  onUnit True s fun s =>
    if (d.body.getD 0 0#8).getLsbD 0 then
      s.viumond 9 d (fun _ => 1) (fun _ => [(0, 1)]) fun s _ _ => reply stOk (s.viuFreeze true)
    else s

/-- FREEZE_N_ASSERT (R520, R552, R554): FREEZE_N has been low for `ns`; it takes effect after 1 µs. -/
def execFreezeNAssert (ns : Nat) (s : State) : Host.Outcome State Fault Refusal :=
  onUnit True s fun s =>
    if !s.powered ∨ ns < 1000 then s
    else if s.freezeWaits || s.resetLow then { s with freeze := { s.freeze with spin := true } }
    else s.requestFreeze .pin s.freeze.immediate

/-- Clocks restart where they stopped: the deadline moves by the frozen time that a thermal trip does not count, and the
tick's extension record will show HELD with reason 4 (R522). -/
def State.restartClocks (s : State) : State :=
  let f := s.freeze
  let len := if s.thermal.trip then s.thermal.tripAt - f.since else s.time - f.since
  let tk := s.tick
  let s : State := { s with
    freeze := { f with state := .running }
    tick := { tk with deadlineShift := tk.deadlineShift + len, heldNs := if tk.heldSince.isNone then tk.heldNs + len else tk.heldNs } }
  let s := s.liftHold 4
  if s.tick.running then { s with tick := { s.tick with lastLift := some (s.time, 4) } } else s

/-- Resumes once no source is left: a freeze that has stopped the clocks while no more than 100 ms have passed, a pending
one by its hold (R522). -/
def State.tryResume (s : State) : State :=
  let f := s.freeze
  if f.spin || f.sviu || f.sbrk then s
  else
    match f.state with
    | .frozen => if s.time ≤ f.since + freezeLimit then s.restartClocks else s
    | .pending => ({ s with freeze := { f with state := .running } } : State).liftHold 4
    | _ => s

/-- FREEZE_N_DEASSERT (R522). -/
def execFreezeNDeassert (s : State) : Host.Outcome State Fault Refusal :=
  onUnit True s fun s => ({ s with freeze := { s.freeze with spin := false } } : State).tryResume

/-- RESUME's effect: it releases a Viumond and a DBRK freeze; refused once the freeze is not resumable (R522). -/
def State.viuResume (s : State) : Reply :=
  let f := s.freeze
  let s' : State := { s with freeze := { f with sviu := false, sbrk := false, waitPitch := none } }
  match f.state with
  | .dead => reply stState s
  | .frozen => if s.time ≤ f.since + freezeLimit then reply stOk s'.tryResume else reply stState s
  | .pending => reply stOk s'.tryResume
  | .running => if f.waitPitch.isSome then reply stOk s' else reply stState s

/-- RESUME (R522). -/
def execResume (d : Datagram) (s : State) : Host.Outcome State Fault Refusal :=
  onUnit True s fun s => s.viumond 0x0A d (fun _ => 0) (fun _ => []) fun s _ _ => s.viuResume

/-- FREEZE_EXPIRY (R522). -/
def execFreezeExpiry (s : State) : Host.Outcome State Fault Refusal :=
  onUnit True s fun s =>
    if s.freeze.state == .frozen && decide (s.freeze.since + freezeLimit ≤ s.time) then
      ({ s with freeze := { s.freeze with state := .dead, expired := true, seq := s.errors.nextSeq } } : State).raise
        { code := 0x0B0B, cls := .note, loc := moduleLoc }
    else s

/-! ### Read-out (R209, R512, R521) -/

/-- The entries of a DTRACE ring as TRACE gives them. -/
def traceBody (c : Core) : List Byte :=
  natLe 16 c.traceNext ++ (List.range 64).flatMap fun i =>
    match c.trace.find? (fun x => x.1 == i) with
    | some x => natLe 4 (x.2.idx % 2 ^ 16) ++ natLe 4 x.2.value.toNat ++ natLe 8 x.2.time
    | none => List.replicate 16 0#8

/-- TRACE (R209, R511, R512). -/
def execTrace (d : Datagram) (s : State) : Host.Outcome State Fault Refusal :=
  onUnit True s fun s => s.viumond 0x12 d (fun _ => 8) (fun _ => [(0, 64)]) fun s _ v =>
    match s.siteOfLoc (bitsOf v 63 0) with
    | some k => if bitsOf v 20 18 = 3 then replyOk (traceBody (s.core k)) s else reply stRange s
    | none => reply stRange s

/-- A list of bits as a number, the first lowest. -/
def bitsNat : List Bool → Nat
  | [] => 0
  | b :: bs => (if b then 1 else 0) + 2 * bitsNat bs

/-- SCAN (R512, R521): while frozen. -/
def execScan (d : Datagram) (s : State) : Host.Outcome State Fault Refusal :=
  onUnit True s fun s => s.viumond 0x13 d (fun _ => 18) (fun _ => [(0, 64), (64, 16), (96, 32), (128, 16)]) fun s _ v =>
    let n := bitsOf v 143 128
    if n = 0 ∨ 32000 < n then reply stRange s
    else if s.freeze.state != .frozen && s.freeze.state != .dead then reply stState s
    else
      let bit (i : Nat) : Bool := Config.scanBit s.freeze.since (BitVec.ofNat 64 (bitsOf v 63 0)) (bitsOf v 79 64) (bitsOf v 127 96 + i)
      replyOk (natLe 2 n ++ List.replicate 6 0#8 ++ natLe (ceilDiv n 8) (bitsNat ((List.range n).map bit))) s

end Sys2Proof.Machine
end

