-- ==== Sys2Proof/Machine/Dispatch.lean ====
section
/-! DEFINITION. The dispatch of commands: one arm per row of spec/opcode_table.json, each one call of its meaning. -/

namespace Sys2Proof.Machine

/-- The effect of a command on everything but the queue of waiting commands. -/
def exec (i : Instr) (s : State) : Host.Outcome State Fault Refusal :=
  match i with
  | .aload k w => Sys2Proof.Machine.execAload k w s
  | .tileArrival k => Sys2Proof.Machine.execTileArrival k s
  | .astrm k w => Sys2Proof.Machine.execAstrm k w s
  | .astrc k w => Sys2Proof.Machine.execAstrc k w s
  | .adrain k w => Sys2Proof.Machine.execAdrain k w s
  | .arrayIdle k => Sys2Proof.Machine.execArrayIdle k s
  | .vadd k w => Sys2Proof.Machine.execVadd k w s
  | .vsub k w => Sys2Proof.Machine.execVsub k w s
  | .vmul k w => Sys2Proof.Machine.execVmul k w s
  | .vfma k w => Sys2Proof.Machine.execVfma k w s
  | .vmax k w => Sys2Proof.Machine.execVmax k w s
  | .vmin k w => Sys2Proof.Machine.execVmin k w s
  | .vuna k w => Sys2Proof.Machine.execVuna k w s
  | .vcmp k w => Sys2Proof.Machine.execVcmp k w s
  | .vsel k w => Sys2Proof.Machine.execVsel k w s
  | .vbcst k w => Sys2Proof.Machine.execVbcst k w s
  | .vred k w => Sys2Proof.Machine.execVred k w s
  | .vcvt k w => Sys2Proof.Machine.execVcvt k w s
  | .vexp2 k w => Sys2Proof.Machine.execVexp2 k w s
  | .vrcp k w => Sys2Proof.Machine.execVrcp k w s
  | .vrsq k w => Sys2Proof.Machine.execVrsq k w s
  | .vlog2 k w => Sys2Proof.Machine.execVlog2 k w s
  | .vld k w => Sys2Proof.Machine.execVld k w s
  | .vst k w => Sys2Proof.Machine.execVst k w s
  | .vqnt k w => Sys2Proof.Machine.execVqnt k w s
  | .vdeq k w => Sys2Proof.Machine.execVdeq k w s
  | .vsplt k w => Sys2Proof.Machine.execVsplt k w s
  | .vrot k w => Sys2Proof.Machine.execVrot k w s
  | .vrope k w => Sys2Proof.Machine.execVrope k w s
  | .xmov k w => Sys2Proof.Machine.execXmov k w s
  | .xtw k w => Sys2Proof.Machine.execXtw k w s
  | .xfill k w => Sys2Proof.Machine.execXfill k w s
  | .fsend k w => Sys2Proof.Machine.execFsend k w s
  | .frecv k w => Sys2Proof.Machine.execFrecv k w s
  | .messageLanded k => Sys2Proof.Machine.execMessageLanded k s
  | .fred k w => Sys2Proof.Machine.execFred k w s
  | .fmrg k w => Sys2Proof.Machine.execFmrg k w s
  | .attend k w => Sys2Proof.Machine.execAttend k w s
  | .gate k w => Sys2Proof.Machine.execGate k w s
  | .sampleFeed k w => Sys2Proof.Machine.execSampleFeed k w s
  | .seti k w => Sys2Proof.Machine.execSeti k w s
  | .sop k w => Sys2Proof.Machine.execSop k w s
  | .loop k w => Sys2Proof.Machine.execLoop k w s
  | .tok k w => Sys2Proof.Machine.execTok k w s
  | .tparm k w => Sys2Proof.Machine.execTparm k w s
  | .barr k w => Sys2Proof.Machine.execBarr k w s
  | .step k w => Sys2Proof.Machine.execStep k w s
  | .dtag k w => Sys2Proof.Machine.execDtag k w s
  | .dtrace k w => Sys2Proof.Machine.execDtrace k w s
  | .dbrk k w => Sys2Proof.Machine.execDbrk k w s
  | .routerFlitArrival k port f sb => Sys2Proof.Machine.execRouterFlitArrival k port f sb s
  | .reduceCombine k tree => Sys2Proof.Machine.execReduceCombine k tree s
  | .mergeCombine k tree => Sys2Proof.Machine.execMergeCombine k tree s
  | .routerDeathDetect k => Sys2Proof.Machine.execRouterDeathDetect k s
  | .dupCheck k => Sys2Proof.Machine.execDupCheck k s
  | .guardUpdate k src frame off delta tick => Sys2Proof.Machine.execGuardUpdate k src frame off delta tick s
  | .guardCloseMarker k src tick => Sys2Proof.Machine.execGuardCloseMarker k src tick s
  | .tickRelease => Sys2Proof.Machine.execTickRelease s
  | .cohortBuild => Sys2Proof.Machine.execCohortBuild s
  | .lanternListArrival lantern flits => Sys2Proof.Machine.execLanternListArrival lantern flits s
  | .lanternDraw lantern cohort row => Sys2Proof.Machine.execLanternDraw lantern cohort row s
  | .deadlineProbe silent => Sys2Proof.Machine.execDeadlineProbe silent s
  | .darningComplete => Sys2Proof.Machine.execDarningComplete s
  | .load f => Sys2Proof.Machine.execLoad f s
  | .unload f => Sys2Proof.Machine.execUnload f s
  | .zipOpen f => Sys2Proof.Machine.execZipOpen f s
  | .zipStage f => Sys2Proof.Machine.execZipStage f s
  | .zipClose f => Sys2Proof.Machine.execZipClose f s
  | .zipValidated id => Sys2Proof.Machine.execZipValidated id s
  | .zipExpiry id => Sys2Proof.Machine.execZipExpiry id s
  | .cancel f => Sys2Proof.Machine.execCancel f s
  | .evict f => Sys2Proof.Machine.execEvict f s
  | .restore f => Sys2Proof.Machine.execRestore f s
  | .automaton f => Sys2Proof.Machine.execAutomaton f s
  | .source f => Sys2Proof.Machine.execSource f s
  | .serve f => Sys2Proof.Machine.execServe f s
  | .replace f => Sys2Proof.Machine.execReplace f s
  | .replaceDrainLimit => Sys2Proof.Machine.execReplaceDrainLimit s
  | .copyBuild f => Sys2Proof.Machine.execCopyBuild f s
  | .copyDiscard f => Sys2Proof.Machine.execCopyDiscard f s
  | .shardArrival rec k bytes => Sys2Proof.Machine.execShardArrival rec k bytes s
  | .scrubShardHashed rec k => Sys2Proof.Machine.execScrubShardHashed rec k s
  | .request f ring => Sys2Proof.Machine.execRequest f ring s
  | .continue_ f ring => Sys2Proof.Machine.execContinue f ring s
  | .doorbellSnoop f => Sys2Proof.Machine.execDoorbellSnoop f s
  | .doorbellRead f => Sys2Proof.Machine.execDoorbellRead f s
  | .doorbellPoll => Sys2Proof.Machine.execDoorbellPoll s
  | .msixModeration f vec => Sys2Proof.Machine.execMsixModeration f vec s
  | .functionLevelReset f => Sys2Proof.Machine.execFunctionLevelReset f s
  | .hostLinkDown => Sys2Proof.Machine.execHostLinkDown s
  | .hostLinkUp => Sys2Proof.Machine.execHostLinkUp s
  | .hostPerstN low ns => Sys2Proof.Machine.execHostPerstN low ns s
  | .stageFrame l fr => Sys2Proof.Machine.execStageFrame l fr s
  | .guyAckFrame l fr => Sys2Proof.Machine.execGuyAckFrame l fr s
  | .guyAckTimeout l => Sys2Proof.Machine.execGuyAckTimeout l s
  | .ackIdleTimer l => Sys2Proof.Machine.execAckIdleTimer l s
  | .shardRequest l fr => Sys2Proof.Machine.execShardRequest l fr s
  | .shardData l frs => Sys2Proof.Machine.execShardData l frs s
  | .notHeld l fr => Sys2Proof.Machine.execNotHeld l fr s
  | .tickMarker l fr => Sys2Proof.Machine.execTickMarker l fr s
  | .heldMarker l fr => Sys2Proof.Machine.execHeldMarker l fr s
  | .markerRepeat l => Sys2Proof.Machine.execMarkerRepeat l s
  | .heldMarkerTimer => Sys2Proof.Machine.execHeldMarkerTimer s
  | .tickMarkerTimeout l => Sys2Proof.Machine.execTickMarkerTimeout l s
  | .hello l fr => Sys2Proof.Machine.execHello l fr s
  | .laneErrorRate l unsound => Sys2Proof.Machine.execLaneErrorRate l unsound s
  | .group l fr => Sys2Proof.Machine.execGroup l fr s
  | .bivouac l fr => Sys2Proof.Machine.execBivouac l fr s
  | .wake l fr => Sys2Proof.Machine.execWake l fr s
  | .loss l fr => Sys2Proof.Machine.execLoss l fr s
  | .pwrEnAssert => Sys2Proof.Machine.execPwrEnAssert s
  | .startSlotOpen p => Sys2Proof.Machine.execStartSlotOpen p s
  | .pwrEnDeassert => Sys2Proof.Machine.execPwrEnDeassert s
  | .resetN low p => Sys2Proof.Machine.execResetN low p s
  | .inputUndervoltage vin us => Sys2Proof.Machine.execInputUndervoltage vin us s
  | .inputOvervoltage vin us => Sys2Proof.Machine.execInputOvervoltage vin us s
  | .governorSample g => Sys2Proof.Machine.execGovernorSample g s
  | .panelReady panel => Sys2Proof.Machine.execPanelReady panel s
  | .senseSample panel dom err vmin point => Sys2Proof.Machine.execSenseSample panel dom err vmin point s
  | .droopTrip panel point depth => Sys2Proof.Machine.execDroopTrip panel point depth s
  | .droopRecovery panel => Sys2Proof.Machine.execDroopRecovery panel s
  | .bondCheck panel dom point excess us => Sys2Proof.Machine.execBondCheck panel dom point excess us s
  | .sectorLimitCheck sector amps us => Sys2Proof.Machine.execSectorLimitCheck sector amps us s
  | .regCellIsolation panel dom cell => Sys2Proof.Machine.execRegCellIsolation panel dom cell s
  | .converterFailure conv => Sys2Proof.Machine.execConverterFailure conv s
  | .lugImbalanceCheck pair share amps ms => Sys2Proof.Machine.execLugImbalanceCheck pair share amps ms s
  | .bivouacEntry src => Sys2Proof.Machine.execBivouacEntry src s
  | .wakeImmediate src => Sys2Proof.Machine.execWakeImmediate src s
  | .wakeStaggered src => Sys2Proof.Machine.execWakeStaggered src s
  | .thermalSample t => Sys2Proof.Machine.execThermalSample t s
  | .coolantReport msg pec => Sys2Proof.Machine.execCoolantReport msg pec s
  | .coolantDataTimeout => Sys2Proof.Machine.execCoolantDataTimeout s
  | .coolantBalanceCheck watts => Sys2Proof.Machine.execCoolantBalanceCheck watts s
  | .operatorKeySet msg flashOk => Sys2Proof.Machine.execOperatorKeySet msg flashOk s
  | .calTriggerEval temps => Sys2Proof.Machine.execCalTriggerEval temps s
  | .calibrationStart => Sys2Proof.Machine.execCalibrationStart s
  | .calDone c => Sys2Proof.Machine.execCalDone c s
  | .calNow => Sys2Proof.Machine.execCalNow s
  | .neighbourTest unit isRouter testers votes => Sys2Proof.Machine.execNeighbourTest unit isRouter testers votes s
  | .observationEnd unit isRouter => Sys2Proof.Machine.execObservationEnd unit isRouter s
  | .darnOvr value => Sys2Proof.Machine.execDarnOvr value s
  | .supervisorChallenge answer => Sys2Proof.Machine.execSupervisorChallenge answer s
  | .controllerStart => Sys2Proof.Machine.execControllerStart s
  | .firmwareTrial good => Sys2Proof.Machine.execFirmwareTrial good s
  | .sessionOpen d => Sys2Proof.Machine.execSessionOpen d s
  | .sessionTimeout id => Sys2Proof.Machine.execSessionTimeout id s
  | .readReg d => Sys2Proof.Machine.execReadReg d s
  | .writeReg d => Sys2Proof.Machine.execWriteReg d s
  | .readMem d => Sys2Proof.Machine.execReadMem d s
  | .events d => Sys2Proof.Machine.execEvents d s
  | .eventAck d => Sys2Proof.Machine.execEventAck d s
  | .eventPushRepeat => Sys2Proof.Machine.execEventPushRepeat s
  | .holdPlace d => Sys2Proof.Machine.execHoldPlace d s
  | .holdLift d => Sys2Proof.Machine.execHoldLift d s
  | .freezeTickAligned d => Sys2Proof.Machine.execFreezeTickAligned d s
  | .freezeImmediate d => Sys2Proof.Machine.execFreezeImmediate d s
  | .freezeNAssert ns => Sys2Proof.Machine.execFreezeNAssert ns s
  | .freezeNDeassert => Sys2Proof.Machine.execFreezeNDeassert s
  | .resume d => Sys2Proof.Machine.execResume d s
  | .freezeExpiry => Sys2Proof.Machine.execFreezeExpiry s
  | .reset d p => Sys2Proof.Machine.execReset d p s
  | .fwStage d => Sys2Proof.Machine.execFwStage d s
  | .fwActivate d => Sys2Proof.Machine.execFwActivate d s
  | .quote d => Sys2Proof.Machine.execQuote d s
  | .keyRotateGenerate d => Sys2Proof.Machine.execKeyRotateGenerate d s
  | .keyRotateConfirm d => Sys2Proof.Machine.execKeyRotateConfirm d s
  | .collectors d => Sys2Proof.Machine.execCollectors d s
  | .trace d => Sys2Proof.Machine.execTrace d s
  | .scan d => Sys2Proof.Machine.execScan d s
  | .opkey d => Sys2Proof.Machine.execOpkey d s
  | .guardedPair off value => Sys2Proof.Machine.execGuardedPair off value s
  | .guardPairTimeout off => Sys2Proof.Machine.execGuardPairTimeout off s
  | .sequenceClear f off value => Sys2Proof.Machine.execSequenceClear f off value s
  | .zpWrite f off value => Sys2Proof.Machine.execZpWrite f off value s
  | .ringEnable f ring value => Sys2Proof.Machine.execRingEnable f ring value s
  | .ringDisable f ring value => Sys2Proof.Machine.execRingDisable f ring value s
  | .doorbellAddressWrite f hi => Sys2Proof.Machine.execDoorbellAddressWrite f hi s
  | .cacheEnWrite value => Sys2Proof.Machine.execCacheEnWrite value s
  | .ptFetch off value => Sys2Proof.Machine.execPtFetch off value s
  | .ptWrite value => Sys2Proof.Machine.execPtWrite value s
  | .extSel value => Sys2Proof.Machine.execExtSel value s
  | .registerWrite f off value => Sys2Proof.Machine.execRegisterWrite f off value s
  | .powerOn => Sys2Proof.Machine.execPowerOn s
  | .laneAlignmentLoss l => Sys2Proof.Machine.execLaneAlignmentLoss l s
  | .uncorrectableCodeword l why => Sys2Proof.Machine.execUncorrectableCodeword l why s
  | .frameCrcError l fr => Sys2Proof.Machine.execFrameCrcError l fr s

end Sys2Proof.Machine
end

