-- ==== Sys2Proof/Machine/Step.lean ====
section
/-! DEFINITION. One step of the block: the command at the front of the queue runs; with none waiting, one nanosecond of
module time passes (R9, notes/assumptions/1). -/

namespace Sys2Proof.Machine

/-- The state after one nanosecond in which nothing is commanded: module time has 64 bits (R9). -/
def State.idle (s : State) : State := { s with time := (s.time + 1) % 2 ^ 64 }

/-- Takes the command at the front of the queue and runs it on the state with the rest of the queue; with an empty
queue, time passes. -/
def step (s : State) : Host.Outcome State Fault Refusal :=
  match s.pending with
  | [] => .next s.idle
  | c :: rest => exec c { s with pending := rest }

/-- The state with the command a word spells put at the front of its queue; no row of the table gives bits, so no word
spells one and the state is unchanged. -/
def State.withFetchWord (s : State) (nbits w : Nat) : State :=
  match decodeTableWord nbits w with
  | some c => { s with pending := c :: s.pending }
  | none => s

end Sys2Proof.Machine
end

