-- ==== Sys2Proof/Safety.lean ====
section
/-! DEFINITION. What counts as a safe run: no step of it ends in a fault or a refusal. -/

namespace Sys2Proof

open Machine

/-- Every command that waits names units the module has. -/
def QueueOk (s : State) : Prop := ∀ c ∈ s.pending, c.wf

/-- Does a step answer a next state? -/
def Advances (s : State) : Prop := ∃ t, step s = .next t

/-- `n` steps answer next states, the last of them `t`. -/
def Runs : Nat → State → State → Prop
  | 0, s, t => s = t
  | n + 1, s, t => ∃ u, step s = .next u ∧ Runs n u t

/-- Every store of a core and the host's memory is in canonical form: addresses strictly rising, no byte 0 listed. -/
def Canonical (s : State) : Prop := Mem.wf s.hostMem ∧ ∀ k, ∀ st ≤ 3, Mem.wf ((s.core k).mem st)

/-! ### A core that runs its next instruction at once -/

/-- Has a core nothing left to move? -/
def Machine.Core.idle (c : Core) : Prop := c.stream = [] ∧ c.aq = [] ∧ c.vq = [] ∧ c.tq = [] ∧ c.heldSignals = []

/-- No tile can move to the shadow position: it is taken, or none has arrived (R143). -/
def Machine.Core.settled (c : Core) : Bool :=
  c.shadow.isSome || match c.inflight with
    | some f => f.tile.isNone
    | none => true

/-- Nothing is under way in a core but a tile on its way: no instruction fetched or queued, no loop, no receive posted, no
message landed, no signal held back, no queue stopped, not at its barrier, its step not lost, its stores' parity sound. -/
def Machine.Core.rest (c : Core) : Bool :=
  c.stream.isEmpty && c.aq.isEmpty && c.vq.isEmpty && c.tq.isEmpty && c.loops.isEmpty && c.posted.isEmpty &&
    c.landing.isEmpty && c.settled && c.heldSignals.isEmpty && c.stopped.isEmpty && !c.atBarrier &&
    !c.rep.lossMode && c.badParity.isEmpty

/-- The core runs, is at rest, its fetch index lies in its program, and the word is legal (R98, R137). -/
def Machine.State.coreFront (s : State) (k : Site) (op : CoreOp) (w : BitVec 56) : Bool :=
  decide k.ok && s.coreRuns k && (s.core k).rest &&
    ((s.kindWords k).isEmpty || decide ((s.core k).idx < (s.kindWords k).length)) && legalWord op w

/-- The core would run the instruction at once, and the module is outside debug mode. -/
def Machine.State.coreReady (s : State) (k : Site) (op : CoreOp) (w : BitVec 56) : Bool :=
  s.coreFront k op w && !s.debug

/-- Nothing makes an instruction of a queue wait or skip: it awaits no token, its signal's count is below 255, and it is
not predicated as a whole (R100, R136). -/
def Machine.State.coreIssues (s : State) (k : Site) (op : CoreOp) (w : BitVec 56) : Bool :=
  s.coreReady k op w && !wWE w && (!wSE w || decide ((s.core k).tok (wST w) < 255)) && (!wPE w || op.lanes)

/-- The instruction as it stands at the head of its queue. -/
def Machine.State.coreEntry (s : State) (k : Site) (op : CoreOp) (w : BitVec 56) : QEntry :=
  { op := op, word := w, idx := (s.core k).idx, ord := (s.core k).dispatched, s := (s.core k).s, a := (s.core k).a }

/-- The core has fetched, dispatched and issued one instruction. -/
def Machine.State.coreTook (s : State) (k : Site) : State :=
  s.mapCore k fun c => { c with idx := c.idx + 1, dispatched := c.dispatched + 1, issued := c.issued + 1 }

/-- The core has fetched one instruction that its front end runs itself. -/
def Machine.State.coreTookFront (s : State) (k : Site) : State :=
  s.mapCore k fun c => { c with issued := c.issued + 1 }

/-- Does a core look as it did but for registers, stores and journal: nothing new under way, the same tokens? -/
def Machine.Core.calm (c d : Core) : Bool :=
  d.stream.isEmpty && d.aq.isEmpty && d.vq.isEmpty && d.tq.isEmpty && d.settled && d.heldSignals.isEmpty &&
    decide (d.t = c.t)

/-! ### What a completed instruction leaves -/

/-- The state with another's queue of waiting commands. -/
def Machine.State.withQueueOf (t s : State) : State := { t with pending := s.pending }

/-- Lane `i` of the registers that fields VA [36:32], VB [31:27] and VC [26:22] name (R159). -/
def Machine.State.va (s : State) (k : Site) (w : BitVec 56) (i : Nat) : Word := lane ((s.core k).vreg (fld w 36 32)) i
def Machine.State.vb (s : State) (k : Site) (w : BitVec 56) (i : Nat) : Word := lane ((s.core k).vreg (fld w 31 27)) i
def Machine.State.vc (s : State) (k : Site) (w : BitVec 56) (i : Nat) : Word := lane ((s.core k).vreg (fld w 26 22)) i

/-- The element type that ET [21:19] names (R159). -/
def wType (w : BitVec 56) : ElemType := (elemType (fld w 21 19)).getD .fp32

/-- Is lane `i` active: all are, but under PE those whose bit of p[PS] is set (R136)? -/
def Machine.State.active (s : State) (k : Site) (w : BitVec 56) (i : Nat) : Bool := ((s.core k).laneMask w).getLsbD i

/-- The core has taken an instruction whose result in lane `i` is `f i`: VD [41:37] takes it in the active lanes and keeps
its value in the others (R136, R162). -/
def Machine.State.lanesDone (s : State) (k : Site) (w : BitVec 56) (f : Nat → Word) : State :=
  (s.coreTook k).mapCore k fun c => c.setV (fld w 41 37)
    (vregOf ((List.range 64).map fun i => if s.active k w i then f i else lane (c.vreg (fld w 41 37)) i))

/-- The instruction, if it is one that sampled duplication numbers, is noted as `m` says (R471, R472), and completes with
its signal (R100). -/
def Machine.State.vectorEnd (t : State) (k : Site) (w : BitVec 56) (m : DupMsg) : State :=
  (t.dupNote k m).complete k .vector w

/-- A message of sampled duplication as its source core `k` sends it: recomputing its operands gives its results (R472). -/
def Machine.DupMsg.agrees (m : DupMsg) (k : Site) : Prop := m.src = k ∧ m.recompute = (m.results, m.resultP)

/-- The core's `op` answers `t`, noted for duplication as some message that agrees, and completes with its signal. -/
def Machine.State.endsAs (s : State) (k : Site) (w : BitVec 56) (i : Instr) (t : State) : Prop :=
  ∃ m : DupMsg, m.agrees k ∧ exec i s = .next ((t.vectorEnd k w m).withQueueOf s)

/-! ### Frames of a core's instructions -/

/-- Nothing changed but in the cores, and in a core other than `k` nothing but the operations sent to it as a buddy. -/
def Machine.State.onlyCore (s t : State) (k : Site) : Prop :=
  t = { s with cores := t.cores } ∧ ∀ j, j ≠ k → s.core j = { t.core j with dupIn := (s.core j).dupIn }

/-- Every byte of every store of a core reads as before. -/
def Machine.Core.sameStores (c d : Core) : Prop := ∀ st a n, d.rd st a n = c.rd st a n

/-- Every token but the one the instruction signals counts as before. -/
def Machine.Core.sameTokens (c d : Core) (w : BitVec 56) : Prop := ∀ n, ¬(wSE w = true ∧ n = wST w) → d.tok n = c.tok n

/-- Is byte `b` of the weight store in the core's journal area, and does the core keep a journal (R461)? -/
def Machine.Core.journalAt (c : Core) (b : Nat) : Prop :=
  c.rep.ckpt.isSome = true ∧ 65536 ≤ c.tab.span ∧ ∃ j < 65536, b = (c.tab.span - 65536 + j) % 2 ^ 24

/-- Every byte of every store reads as before but those `out` names (store, address) and the journal's own. -/
def Machine.Core.sameBut (c d : Core) (out : Nat → Nat → Prop) : Prop :=
  ∀ st ≤ 3, ∀ b < storeSize st, ¬out st b → ¬(st = 1 ∧ c.journalAt b) → d.rd st b 1 = c.rd st b 1

/-- The `n` bytes of a store from address `a`; addresses wrap. -/
def span (st a n : Nat) : Nat → Nat → Prop := fun st' b => st' = st ∧ ∃ i < n, b = (a + i) % storeSize st

/-- The frame of an instruction that writes stores: beside its queue's bookkeeping only the bytes `out` names change, the
tokens it signals, and what a write carries with it (the journal, guard updates); no other core changes, nor does a
vector, scalar, address or predicate register. -/
def Machine.State.wroteOnly (s t : State) (k : Site) (w : BitVec 56) (out : Nat → Nat → Prop) : Prop :=
  (s.core k).sameBut (t.core k) out ∧ (∀ j, j ≠ k → t.core j = s.core j) ∧ (s.core k).sameTokens (t.core k) w ∧
    (t.core k).v = (s.core k).v ∧ (t.core k).s = (s.core k).s ∧ (t.core k).a = (s.core k).a ∧ (t.core k).p = (s.core k).p

/-- The operand that an access of VLD or VST names is aligned and in its store's window (R168, R174). -/
def Machine.State.vmemOk (s : State) (k : Site) (op : CoreOp) (w : BitVec 56) : Prop :=
  let e := s.coreEntry k op w
  vmemAligned e = true ∧ (s.core k).inWindow (vmemAcc e).1 (vmemAcc e).2.1 (vmemAcc e).2.2 = true

/-! ### Control rings -/

/-- The control descriptor of a kind that stands at a control ring's head once descriptors of reserved kinds before it are
refused, and the state then (R345). -/
def Machine.State.ctrlHead (s : State) (f kind : Nat) : Option (Ctrl × State) :=
  let t := State.refuseKinds f ((s.fn f).ring 4).waiting s
  (t.ctrl f kind).map fun c => (c, t)

/-! ### Viumond's requests (R508 to R512) -/

/-- A datagram that a command of TYPE `typ` takes as a new request of the open session `x`: its tag is right, its number is
beyond the session's last, and an unsigned session has its key or asks for events. -/
def Machine.State.requestOf (s : State) (typ : Nat) (d : Datagram) (x : Session) : Prop :=
  s.powered = true ∧ s.mgmt.running = true ∧ datagramOk d = true ∧ d.typ.toNat = typ ∧
    s.mgmt.sessions.find? (fun y => y.id == d.session) = some x ∧ d.tag = tagOf x.key d ∧
    (∀ m, x.lastReqId = some m → m < d.reqid.toNat) ∧ (x.unsigned = true → s.mgmt.pufOk = true ∨ d.typ = 5#8)

/-- The state with a request entered in its session. -/
def Machine.State.entered (s : State) (d : Datagram) (x : Session) : State :=
  (s.mapSession x.id fun y => { y with lastReq := s.mclock }).mapSession x.id fun y =>
    { y with lastReqId := some d.reqid.toNat, cached := none }

/-- The command's effect is `t` and an answer of a STATUS and a body, kept for a repeat. -/
def Machine.State.answers (s : State) (c : Instr) (d : Datagram) (x : Session) (t : State) (status : Nat) (body : List Byte) : Prop :=
  exec c s = .next ((t.answer x d status body).withQueueOf s)

end Sys2Proof
end

