-- ==== Sys2Proof/Certificates/Slice0/Obligations.lean ====
section
/-! DEFINITION. What is claimed of the module: statements for the provers, each naming the rules it states. -/

open Sys2Proof Sys2Proof.Machine

/-! ### The block as a whole (R9, R73, R517, R553) -/

/-- A step of a state with a command at the front of its queue runs that command on the state with the rest of the queue; with
none waiting it passes one nanosecond of the 64-bit module time and changes nothing else. -/
def Obligations.StepRunsFront : Prop :=
  (∀ (c : Instr) (s : State) (rest : List Instr), s.pending = c :: rest → step s = exec c { s with pending := rest }) ∧
  (∀ s : State, s.pending = [] → step s = .next { s with time := (s.time + 1) % 2 ^ 64 })

/-- After reset module time is 0, no package is loaded, no tick runs, no command waits, no zip is held, the flash's event log and
the host's memory list nothing, every store is canonical, and every core and every virtual function holds its reset values
(the power inputs and link at reset, and values R553 does not give, are the model's choices, notes/assumptions/1, 3, 4, 5). -/
def Obligations.ResetState : Prop :=
  State.reset.time = 0 ∧ State.reset.pending = [] ∧ State.reset.loaded = none ∧ State.reset.tick.running = false ∧
    State.reset.zips = [] ∧ State.reset.flash.log = [] ∧ State.reset.hostMem = [] ∧ Canonical State.reset ∧
    (∀ k, (State.reset.core k) = {}) ∧ (∀ f, 0 < f → State.reset.fn f = {}) ∧ QueueOk State.reset

/-- What a command can answer: a next state whose queue is the one it was given, if the units it names exist; if not, the fault
that says so. It never refuses. -/
def Obligations.CommandOutcomes : Prop :=
  ∀ (c : Instr) (s : State),
    (c.wf → ∃ t, exec c s = .next t ∧ t.pending = s.pending) ∧
    (¬c.wf → exec c s = .fault .noSuchUnit)

/-- From a queue whose commands name units the module has, every step answers a next state, takes exactly the front command off
the queue, and leaves a queue of the same kind. -/
def Obligations.QueueInvariant : Prop :=
  (∀ s t : State, QueueOk s → step s = .next t → QueueOk t ∧ t.pending = s.pending.tail) ∧
  (∀ s : State, QueueOk s → Advances s)

/-- The commands run in the order they wait: as many steps as there are commands that name units of the module answer next
states and leave what waited behind them; then a command that names none stops the machine, and an empty queue idles for as
many nanoseconds as are left. -/
def Obligations.QueueRuns : Prop :=
  ∀ (s : State) (cs rest : List Instr), s.pending = cs ++ rest → (∀ c ∈ cs, c.wf) →
    ∃ t, Runs cs.length s t ∧ t.pending = rest ∧ (∀ u, Runs cs.length s u → u = t) ∧
      (∀ c r, rest = c :: r → ¬c.wf → step t = .fault .noSuchUnit) ∧
      (rest = [] → ∀ n, Runs (cs.length + n) s { t with time := if n = 0 then t.time else (t.time + n) % 2 ^ 64 })

/-- The instructions that write a store, and a posted write to host memory, keep every memory in its canonical form. -/
def Obligations.CanonicalMemories : Prop :=
  (∀ (s : State) (k : Site) (st a : Nat) (bs : List Byte) (redo : Bool), Canonical s → Canonical (s.jwrite k st a bs redo)) ∧
  (∀ (s : State) (f a : Nat) (bs : List Byte), Canonical s → Canonical (s.hostWrite f a bs)) ∧
  (∀ (s t : State) (k : Site) (w : BitVec 56), Canonical s → s.coreIssues k .vst w = true → s.vmemOk k .vst w →
    exec (.vst k w) s = .next t → Canonical t) ∧
  (∀ (s t : State) (k : Site) (w : BitVec 56), Canonical s → s.coreIssues k .xfill w = true →
    let e := s.coreEntry k .xfill w
    unitCount (xfillCount e) = true → (xfillDst e).2 % 32 = 0 →
    (s.core k).inWindow (xfillDst e).1 (xfillDst e).2 (32 * xfillCount e) = true → exec (.xfill k w) s = .next t → Canonical t) ∧
  (∀ (s t : State) (k : Site) (w : BitVec 56), Canonical s → s.coreIssues k .xmov w = true →
    let e := s.coreEntry k .xmov w
    unitCount (xmovCount e) = true → (xmovSrc e).2 % 32 = 0 → (xmovDst e).2 % 32 = 0 →
    (s.core k).inWindow (xmovSrc e).1 (xmovSrc e).2 (32 * xmovCount e) = true →
    (s.core k).inWindow (xmovDst e).1 (xmovDst e).2 (32 * xmovCount e) = true → exec (.xmov k w) s = .next t → Canonical t)

/-! ### The vector unit: the register format (R159 to R167) -/

/-- VADD, VSUB, VMUL and VFMA complete on a core at rest: each active lane of VD becomes the sum, difference, product or
a·b + c of the operand lanes, rounded once in a floating-point type, wrapped or saturated in an integer type. VMAX and
VMIN write the larger or smaller lane; VUNA writes the absolute value (FN 0), the negation (FN 1) or the operand (FN
2). -/
def Obligations.VectorLaneArithmetic : Prop :=
  (
  (∀ (s : State) (k : Site) (w : BitVec 56),
    s.coreIssues k .vadd w = true → s.endsAs k w (.vadd k w) (s.lanesDone k w fun i =>
    arithLane (wType w) (flag w 15) (fun a b _ => a.add b) (fun a b _ => a + b) (s.va k w i) (s.vb k w i) 0)) ∧
  (∀ (s : State) (k : Site) (w : BitVec 56),
    s.coreIssues k .vsub w = true → s.endsAs k w (.vsub k w) (s.lanesDone k w fun i =>
    arithLane (wType w) (flag w 15) (fun a b _ => a.add b.neg) (fun a b _ => a - b) (s.va k w i) (s.vb k w i) 0)) ∧
  (∀ (s : State) (k : Site) (w : BitVec 56),
    s.coreIssues k .vmul w = true → s.endsAs k w (.vmul k w) (s.lanesDone k w fun i =>
    arithLane (wType w) (flag w 15) (fun a b _ => a.mul b) (fun a b _ => a * b) (s.va k w i) (s.vb k w i) 0)) ∧
  (∀ (s : State) (k : Site) (w : BitVec 56),
    s.coreIssues k .vfma w = true → s.endsAs k w (.vfma k w) (s.lanesDone k w fun i =>
    arithLane (wType w) (flag w 15) (fun a b c => (a.mul b).add c) (fun a b c => a * b + c)
      (s.va k w i) (s.vb k w i) (s.vc k w i)))) ∧
  (
  (∀ (s : State) (k : Site) (w : BitVec 56),
    s.coreIssues k .vmax w = true → s.endsAs k w (.vmax k w) (s.lanesDone k w fun i =>
    maxLane (wType w) (s.va k w i) (s.vb k w i))) ∧
  (∀ (s : State) (k : Site) (w : BitVec 56),
    s.coreIssues k .vmin w = true → s.endsAs k w (.vmin k w) (s.lanesDone k w fun i =>
    minLane (wType w) (s.va k w i) (s.vb k w i))) ∧
  (∀ (s : State) (k : Site) (w : BitVec 56),
    s.coreIssues k .vuna w = true → s.endsAs k w (.vuna k w) (s.lanesDone k w fun i =>
    match fld w 18 16 with
    | 0 => arithLane (wType w) (flag w 15) (fun a _ _ => a.abs) (fun a _ _ => a.natAbs) (s.va k w i) 0 0
    | 1 => arithLane (wType w) (flag w 15) (fun a _ _ => a.neg) (fun a _ _ => -a) (s.va k w i) 0 0
    | _ => arithLane (wType w) (flag w 15) (fun a _ _ => a) (fun a _ _ => a) (s.va k w i) 0 0)))

/-- VSEL takes each lane from VA where p[PC] has its bit set and from VB elsewhere; VRED puts the tree sum, or the
maximum, of VA's active lanes in all 64 lanes of VD; VCMP sets the active bits of p[PD] and leaves the others. VCVT
converts each active lane from ET to the type of FN; VEXP2, VRCP, VRSQ and VLOG2 apply their functions. -/
def Obligations.VectorSelectConvert : Prop :=
  (
  (∀ (s : State) (k : Site) (w : BitVec 56),
    s.coreIssues k .vsel w = true → s.endsAs k w (.vsel k w) (s.lanesDone k w fun i =>
    if ((s.core k).preg (fld w 24 22)).getLsbD i then s.va k w i else s.vb k w i)) ∧
  (∀ (s : State) (k : Site) (w : BitVec 56),
    s.coreIssues k .vred w = true → s.endsAs k w (.vred k w) ((s.coreTook k).mapCore k fun c =>
    c.setV (fld w 41 37) (vregOf (List.replicate 64
      (redLanes (wType w) (fld w 18 16) (c.laneMask w) (c.vreg (fld w 36 32))))))) ∧
  (∀ (s : State) (k : Site) (w : BitVec 56),
    s.coreIssues k .vcmp w = true → s.endsAs k w (.vcmp k w) ((s.coreTook k).mapCore k fun c =>
    c.setP (fld w 39 37) ((c.preg (fld w 39 37) &&& ~~~(c.laneMask w)) |||
      (maskOf (fun i => cmpLane (wType w) (fld w 18 16) (s.va k w i) (s.vb k w i)) &&& c.laneMask w))))) ∧
  (
  (∀ (s : State) (k : Site) (w : BitVec 56),
    s.coreIssues k .vcvt w = true → s.endsAs k w (.vcvt k w) (s.lanesDone k w fun i =>
    cvtLane (wType w) ((elemType (fld w 18 16)).getD .fp32) (s.va k w i))) ∧
  (∀ (s : State) (k : Site) (w : BitVec 56),
    s.coreIssues k .vexp2 w = true → s.endsAs k w (.vexp2 k w) (s.lanesDone k w fun i => exp2F32 (s.va k w i))) ∧
  (∀ (s : State) (k : Site) (w : BitVec 56),
    s.coreIssues k .vrcp w = true → s.endsAs k w (.vrcp k w) (s.lanesDone k w fun i => rcpF32 (s.va k w i))) ∧
  (∀ (s : State) (k : Site) (w : BitVec 56),
    s.coreIssues k .vrsq w = true → s.endsAs k w (.vrsq k w) (s.lanesDone k w fun i => rsqF32 (s.va k w i))) ∧
  (∀ (s : State) (k : Site) (w : BitVec 56),
    s.coreIssues k .vlog2 w = true → s.endsAs k w (.vlog2 k w) (s.lanesDone k w fun i => log2F32 (s.va k w i))))

/-- VBCST writes one 32-bit value to every active lane of VD: with SRC 1 the immediate of bits [31:0], with SRC 0 the s register
that bits [4:0] name, bits [31:5] then reserved. Bits [35:32] are reserved. -/
def Obligations.Broadcast : Prop :=
  (∀ (s : State) (k : Site) (w : BitVec 56),
    s.coreIssues k .vbcst w = true → s.endsAs k w (.vbcst k w) (s.lanesDone k w fun _ =>
    if flag w 36 then BitVec.ofNat 32 (fld w 31 0) else (s.core k).sreg (fld w 4 0))) ∧
  (∀ w : BitVec 56, legalWord .vbcst w = true → fld w 35 32 = 0 ∧ (flag w 36 = false → fld w 31 5 = 0))

/-- The frame of the register format: the instruction changes VD alone of the vector registers (VCMP: p[PD] alone of the
predicate registers), no scalar or address register, no token but the one it signals, no byte of any store, and nothing
outside its core but the operations sent to its buddy. -/
def Obligations.VectorFrame : Prop :=
  ∀ (s t : State) (k : Site) (w : BitVec 56),
    ∀ x ∈ [(CoreOp.vadd, Instr.vadd k w), (.vsub, .vsub k w), (.vmul, .vmul k w), (.vfma, .vfma k w), (.vmax, .vmax k w),
        (.vmin, .vmin k w), (.vuna, .vuna k w), (.vcmp, .vcmp k w), (.vsel, .vsel k w), (.vbcst, .vbcst k w),
        (.vred, .vred k w), (.vcvt, .vcvt k w), (.vexp2, .vexp2 k w), (.vrcp, .vrcp k w), (.vrsq, .vrsq k w),
        (.vlog2, .vlog2 k w)],
      s.coreIssues k x.1 w = true → exec x.2 s = .next t →
        s.onlyCore t k ∧ (s.core k).sameStores (t.core k) ∧ (s.core k).sameTokens (t.core k) w ∧
        (t.core k).s = (s.core k).s ∧ (t.core k).a = (s.core k).a ∧
        (∀ n, ¬(x.1 ≠ .vcmp ∧ n = fld w 41 37) → (t.core k).vreg n = (s.core k).vreg n) ∧
        (∀ n, ¬(x.1 = .vcmp ∧ n = fld w 39 37) → (t.core k).preg n = (s.core k).preg n)

/-! ### Loads, stores, quantisation and rotation (R168 to R173) -/

/-- VLD and VST with an aligned operand in its window: VLD puts each active lane's bytes, zero-extended, in VD; VST puts
the low bytes of each active lane at the lane's place and leaves the bytes of the others. The frame of VLD and VST:
VLD changes VD alone; VST changes the bytes of its own operand alone. -/
def Obligations.VectorMemory : Prop :=
  (
  (∀ (s : State) (k : Site) (w : BitVec 56), s.coreIssues k .vld w = true → s.vmemOk k .vld w →
    let x := vmemAcc (s.coreEntry k .vld w)
    exec (.vld k w) s = .next (((s.lanesDone k w fun i => BitVec.ofNat 32
      (fieldAt ((s.core k).rd x.1 x.2.1 x.2.2) (packWidth w * i) (packWidth w))).complete k .vector w).withQueueOf s)) ∧
  (∀ (s : State) (k : Site) (w : BitVec 56), s.coreIssues k .vst w = true → s.vmemOk k .vst w →
    let x := vmemAcc (s.coreEntry k .vst w)
    let bytes := (List.range 64).flatMap fun i =>
      if s.active k w i then natLe (packWidth w) (lane ((s.core k).vreg (fld w 41 37)) i).toNat
      else (((s.core k).rd x.1 x.2.1 x.2.2).drop (packWidth w * i)).take (packWidth w)
    exec (.vst k w) s = .next (((if (s.core k).laneMask w = 0#64 then s.coreTook k
      else (s.coreTook k).jwrite k x.1 x.2.1 bytes false).complete k .vector w).withQueueOf s))) ∧
  (
  (∀ (s t : State) (k : Site) (w : BitVec 56), s.coreIssues k .vld w = true → s.vmemOk k .vld w →
    exec (.vld k w) s = .next t → s.onlyCore t k ∧ (s.core k).sameStores (t.core k) ∧ (s.core k).sameTokens (t.core k) w ∧
      (t.core k).s = (s.core k).s ∧ (t.core k).a = (s.core k).a ∧ (t.core k).p = (s.core k).p ∧
      ∀ n, n ≠ fld w 41 37 → (t.core k).vreg n = (s.core k).vreg n) ∧
  (∀ (s t : State) (k : Site) (w : BitVec 56), s.coreIssues k .vst w = true → s.vmemOk k .vst w →
    exec (.vst k w) s = .next t →
      s.wroteOnly t k w (span (vmemAcc (s.coreEntry k .vst w)).1 (vmemAcc (s.coreEntry k .vst w)).2.1 (64 * packWidth w))))

/-- VQNT completes on aligned operands in its window: with DYN it writes the codes and the scale it computes; with a legal
preset scale it writes the codes, and where too many elements clip and no replay is left, it notes the scale to hold,
the clip count and a clipped row. VDEQ with aligned operands and a legal scale puts code times scale in the active
lanes; VSPLT writes the hi and lo codes and scales of its two rows of 32 elements. -/
def Obligations.VectorQuantisation : Prop :=
  (
  ∀ (s : State) (k : Site) (w : BitVec 56), s.coreIssues k .vqnt w = true →
    let e := s.coreEntry k .vqnt w
    let src := vqntSrc e
    let xs := wordsOf ((s.core k).rd src.1 src.2 256) 64
    let dyn := a8Scale (amaxOf xs).1 (amaxOf xs).2
    let h := leNat ((s.core k).rd 0 (qEntry e) 2)
    let preset := quantBlock (ofBF16 (BitVec.ofNat 16 h)) 127 xs
    vqntAligned e = true → (s.core k).inWindow src.1 src.2 256 = true →
      (flag w 24 = true → exec (.vqnt k w) s = .next (((((s.coreTook k).putCodes k e (quantBlock (ofBF16 dyn) 127 xs).1).jwrite
        k 0 (qEntry e) (natLe 2 dyn.toNat) false).complete k .vector w).withQueueOf s)) ∧
      (flag w 24 = false → a8Legal h = true → preset.2.2 ≤ s.satLimit →
        exec (.vqnt k w) s = .next ((((s.coreTook k).putCodes k e preset.1).complete k .vector w).withQueueOf s)) ∧
      (flag w 24 = false → a8Legal h = true → s.satLimit < preset.2.2 →
        (qEntry e ∈ (s.core k).rep.rescaled ∨ s.quantMayReplay k = false) →
        let t := ((s.coreTook k).putCodes k e preset.1).mapCore k fun c => { c with rep := { c.rep with
          heldScales := putK c.rep.heldScales (qEntry e) dyn.toNat } }
        exec (.vqnt k w) s = .next
          ((((t.countCode k.panel 0x020B (t.coreLoc k) 0 1 0).clipSomeRow k).complete k .vector w).withQueueOf s))) ∧
  (
  (∀ (s : State) (k : Site) (w : BitVec 56), s.coreIssues k .vdeq w = true →
    let e := s.coreEntry k .vdeq w
    let h := leNat ((s.core k).rd 0 (qEntry e) 2)
    (e.aReg (fld w 36 33)).toNat % 32 = 0 → (e.aReg (fld w 28 25)).toNat % 2 = 0 → a8Legal h = true →
    exec (.vdeq k w) s = .next (((s.lanesDone k w fun i => toF32 ((Fp.ofInt
      ((((s.core k).rd 0 (qLine0 e) 32 ++ (s.core k).rd 0 (qLine1 e) 32).getD i 0#8).toInt)).mul (ofF32 (a8Word h)))).complete
        k .vector w).withQueueOf s)) ∧
  (∀ (s : State) (k : Site) (w : BitVec 56), s.coreIssues k .vsplt w = true →
    let e := s.coreEntry k .vsplt w
    let ad := actAddr (e.aReg (fld w 31 28))
    let as := actAddr (e.aReg (fld w 27 24))
    let xs := ((s.core k).vreg (fld w 36 32)).toList.map lo16
    let p (r : Nat) := bf16Split ((xs.drop (32 * r)).take 32)
    let bad := (xs.filter fun h => h.toNat / 128 % 256 = 255).length
    (e.aReg (fld w 31 28)).toNat % 128 = 0 →
    let t := ((((((((s.coreTook k).jwrite k 0 ad ((p 0).2.map fun x => codeByte x.1) false).jwrite
      k 0 (ad + 32) ((p 0).2.map fun x => codeByte x.2) false).jwrite
      k 0 as (natLe 2 (splitScale (p 0).1 true).toNat) false).jwrite
      k 0 (as + 2) (natLe 2 (splitScale (p 0).1 false).toNat) false).jwrite
      k 0 (ad + 64) ((p 1).2.map fun x => codeByte x.1) false).jwrite
      k 0 (ad + 64 + 32) ((p 1).2.map fun x => codeByte x.2) false).jwrite
      k 0 (as + 4) (natLe 2 (splitScale (p 1).1 true).toNat) false).jwrite
      k 0 (as + 4 + 2) (natLe 2 (splitScale (p 1).1 false).toNat) false
    exec (.vsplt k w) s = .next (((if bad = 0 then t
      else (t.countCode k.panel 0x020C (t.coreLoc k) 0 bad 0).clipSomeRow k).complete k .vector w).withQueueOf s)))

/-- VROT rotates its block by the s register's angle index when that is at most 65,535; VROPE rotates its heads by the row's
position where its frequency table is aligned and finite. -/
def Obligations.VectorRotate : Prop :=
  (∀ (s : State) (k : Site) (w : BitVec 56), s.coreIssues k .vrot w = true →
    let e := s.coreEntry k .vrot w
    (e.sReg (fld w 23 19)).toNat ≤ 65535 →
    s.endsAs k w (.vrot k w) ((s.coreTook k).mapCore k fun c =>
      c.setVs (fld w 41 37) (rotRegs w e (c.vregs (fld w 36 32) (spanOf (fld w 31 30)))))) ∧
  (∀ (s : State) (k : Site) (w : BitVec 56) (fs : List Word), s.coreIssues k .vrope w = true →
    let e := s.coreEntry k .vrope w
    (s.core k).freqs (actAddr (e.aReg (fld w 31 28))) (headSize (fld w 22 21) / 2) = some fs →
    s.endsAs k w (.vrope k w) ((s.coreTook k).mapCore k fun c => c.setVs (fld w 41 37)
        (ropeRegs w ((s.core k).rowPos s.ltAddr (e.sReg (fld w 27 23)).toNat) fs (c.vregs (fld w 36 32) (spanOf (fld w 22 21))))))

/-! ### Transfers (R176 to R179) -/

/-- XMOV, XFILL and XTW complete on legal operands inside their windows: XMOV copies its units in ascending order, XFILL
writes eight copies of the s register to each unit, XTW splices its 32 elements into a column of the block or tile.
The frame of XMOV, XFILL and XTW: they change their destination's bytes alone. -/
def Obligations.TransfersAndFrame : Prop :=
  (
  (∀ (s : State) (k : Site) (w : BitVec 56), s.coreIssues k .xmov w = true →
    let e := s.coreEntry k .xmov w
    unitCount (xmovCount e) = true → (xmovSrc e).2 % 32 = 0 → (xmovDst e).2 % 32 = 0 →
    (s.core k).inWindow (xmovSrc e).1 (xmovSrc e).2 (32 * xmovCount e) = true →
    (s.core k).inWindow (xmovDst e).1 (xmovDst e).2 (32 * xmovCount e) = true →
    exec (.xmov k w) s = .next (((State.copyUnits k (xmovSrc e).1 (xmovSrc e).2 (xmovDst e).1 (xmovDst e).2 (xmovCount e)
      (s.coreTook k)).complete k .transfer w).withQueueOf s)) ∧
  (∀ (s : State) (k : Site) (w : BitVec 56), s.coreIssues k .xfill w = true →
    let e := s.coreEntry k .xfill w
    unitCount (xfillCount e) = true → (xfillDst e).2 % 32 = 0 →
    (s.core k).inWindow (xfillDst e).1 (xfillDst e).2 (32 * xfillCount e) = true →
    exec (.xfill k w) s = .next (((State.fillUnits k (xfillDst e).1
      (bytesOfWords (List.replicate 8 ((s.core k).sreg (fld w 30 26)))) (xfillCount e) (xfillDst e).2
      (s.coreTook k)).complete k .transfer w).withQueueOf s)) ∧
  (∀ (s : State) (k : Site) (w : BitVec 56), s.coreIssues k .xtw w = true →
    let e := s.coreEntry k .xtw w
    xtwLegal e = true → (xtwBlock e = true ∨ (s.core k).inWindow 1 (xtwDst e) 512 = true) →
    exec (.xtw k w) s = .next ((((List.range 32).foldl (fun t i =>
      let x := xtwWrite (t.core k) e ((s.core k).rd 0 (xtwSrc e) (4 * xtwWidth e)) i
      t.jwrite k x.1 x.2.1 x.2.2 false) (s.coreTook k)).complete k .transfer w).withQueueOf s))) ∧
  (
  (∀ (s t : State) (k : Site) (w : BitVec 56), s.coreIssues k .xmov w = true →
    let e := s.coreEntry k .xmov w
    unitCount (xmovCount e) = true → (xmovSrc e).2 % 32 = 0 → (xmovDst e).2 % 32 = 0 →
    (s.core k).inWindow (xmovSrc e).1 (xmovSrc e).2 (32 * xmovCount e) = true →
    (s.core k).inWindow (xmovDst e).1 (xmovDst e).2 (32 * xmovCount e) = true → exec (.xmov k w) s = .next t →
    s.wroteOnly t k w (span (xmovDst e).1 (xmovDst e).2 (32 * xmovCount e))) ∧
  (∀ (s t : State) (k : Site) (w : BitVec 56), s.coreIssues k .xfill w = true →
    let e := s.coreEntry k .xfill w
    unitCount (xfillCount e) = true → (xfillDst e).2 % 32 = 0 →
    (s.core k).inWindow (xfillDst e).1 (xfillDst e).2 (32 * xfillCount e) = true → exec (.xfill k w) s = .next t →
    s.wroteOnly t k w (span (xfillDst e).1 (xfillDst e).2 (32 * xfillCount e))) ∧
  (∀ (s t : State) (k : Site) (w : BitVec 56), s.coreIssues k .xtw w = true →
    let e := s.coreEntry k .xtw w
    xtwLegal e = true → (xtwBlock e = true ∨ (s.core k).inWindow 1 (xtwDst e) 512 = true) → exec (.xtw k w) s = .next t →
    s.wroteOnly t k w (if xtwBlock e then span 0 (xtwDst e) 1024 else span 1 (xtwDst e) 512)))

/-- XFILL into the activation or partial-sum store: every byte of the filled units reads as the pattern's. -/
def Obligations.FillReadsBack : Prop :=
  ∀ (s t : State) (k : Site) (w : BitVec 56), s.coreIssues k .xfill w = true →
    let e := s.coreEntry k .xfill w
    unitCount (xfillCount e) = true → (xfillDst e).2 % 32 = 0 → (xfillDst e).1 ≠ 1 →
    (s.core k).inWindow (xfillDst e).1 (xfillDst e).2 (32 * xfillCount e) = true → exec (.xfill k w) s = .next t →
    ∀ i < 32 * xfillCount e, (t.core k).rd (xfillDst e).1 ((xfillDst e).2 + i) 1 =
      [BitVec.ofNat 8 (((s.core k).sreg (fld w 30 26)).toNat / 256 ^ (i % 4))]

/-! ### The array (R82 to R94, R143 to R152) -/

/-- ALOAD with a free in-flight position, an aligned source and its window starts a load. TILE_ARRIVAL brings the tile: to
the shadow position if that is free, which completes the ALOAD, else it stays where it is; a source the loader refuses
stops the array queue. ADRAIN with no tile in flight may leave the ballast columns and empty the positions; ARRAY_IDLE
leaves the ballast columns. -/
def Obligations.TilesAndDrain : Prop :=
  (
  (∀ (s : State) (k : Site) (w : BitVec 56), s.coreIssues k .aload w = true → (s.core k).inflight = none →
    let m := tileMode (fld w 21 18)
    let addr := (((s.core k).areg (fld w 41 38)).toNat + 512 * fld w 37 22) % 2 ^ 24
    addr % m.sourceBytes = 0 → (s.core k).inWindow 1 addr m.sourceBytes = true →
    exec (.aload k w) s = .next (((s.coreTook k).mapCore k fun c =>
      { c with inflight := some ⟨s.coreEntry k .aload w, addr, m, none⟩ }).withQueueOf s)) ∧
  (∀ (s : State) (k : Site) (fl : Flight) (t : Tile), k.ok → s.coreRuns k = true → (s.core k).idle →
    (s.core k).inflight = some fl → fl.tile = none →
    ((s.core k).rep.lossMode = true ∨ (s.core k).badIn 1 fl.addr fl.mode.sourceBytes = none) →
    loadTile fl.mode fl.addr ((s.core k).rd 1 fl.addr fl.mode.sourceBytes) = some t →
    ((s.core k).shadow = none → (wSE fl.entry.word = true → (s.core k).tok (wST fl.entry.word) < 255) →
      exec (.tileArrival k) s = .next (((s.mapCore k fun c => { c with shadow := some t, inflight := none }).complete
        k .array fl.entry.word).withQueueOf s)) ∧
    ((s.core k).shadow.isSome = true → exec (.tileArrival k) s =
      .next ((s.mapCore k fun c => { c with inflight := some { fl with tile := some t } }).withQueueOf s))) ∧
  (∀ (s : State) (k : Site) (fl : Flight), k.ok → s.coreRuns k = true → (s.core k).idle →
    (s.core k).inflight = some fl → fl.tile = none →
    ((s.core k).rep.lossMode = true ∨ (s.core k).badIn 1 fl.addr fl.mode.sourceBytes = none) →
    loadTile fl.mode fl.addr ((s.core k).rd 1 fl.addr fl.mode.sourceBytes) = none →
    exec (.tileArrival k) s =
      .next (((s.mapCore k fun c => { c with inflight := none }).illegal k .array fl.entry).withQueueOf s))) ∧
  (
  (∀ (s : State) (k : Site) (w : BitVec 56), s.coreIssues k .adrain w = true → (s.core k).inflight = none →
    exec (.adrain k w) s = .next ((((s.coreTook k).mapCore k fun c => { c with
      cols := if flag w 41 then (s.panel k.panel).ballast else c.cols
      active := if flag w 40 then none else c.active
      shadow := if flag w 40 then none else c.shadow }).complete k .array w).withQueueOf s)) ∧
  (∀ (s : State) (k : Site), k.ok → s.coreRuns k = true →
    exec (.arrayIdle k) s = .next ((s.mapCore k fun c => { c with cols := (s.panel k.panel).ballast }).withQueueOf s)))

/-- ASTRM streams its rows against the shadow tile, which becomes the active one, or against the active tile: with legal
operands and scales and sound checksums every row is accumulated on its line, and the array runs at all 64 columns.
ASTRC multiplies by the pair of tiles in the shadow and in-flight positions: the first becomes active, the second's
ALOAD completes, and every row's real and imaginary parts are accumulated on their lines. -/
def Obligations.ArrayStreams : Prop :=
  (
  ∀ (s : State) (k : Site) (w : BitVec 56) (tile : Tile), s.coreIssues k .astrm w = true →
    let e := s.coreEntry k .astrm w
    let n := (e.sReg (fld w 33 29)).toNat
    let row (t : Nat) := (s.core k).streamRow e t
    streamLegal e = true → fld w 28 18 + n ≤ 2048 → (s.core k).inflight = none →
    ((s.core k).shadow <|> (s.core k).active) = some tile → (fld w 17 16 < 2 → tile.mode.isFloat = false) →
    (∀ t < n, (row t).2.isSome = true) → (∀ t < n, rowFails tile (row t).1 = false) →
    exec (.astrm k w) s = .next ((((List.range n).foldl (fun u t =>
      u.writeRow k (fld w 28 18 + t) (fld w 17 16) tile (row t).1 ((row t).2.getD 0) ((s.core k).vreg (fld w 15 11)))
      ((s.coreTook k).mapCore k fun c => { c with active := some tile, shadow := none, cols := 64 })).complete
        k .array w).withQueueOf s)) ∧
  (
  ∀ (s : State) (k : Site) (w : BitVec 56) (tc td : Tile) (fl : Flight), s.coreIssues k .astrc w = true →
    let e := s.coreEntry k .astrc w
    let n := (e.sReg (fld w 33 29)).toNat
    let row (t : Nat) := (s.core k).streamRow e t
    streamLegal e = true → fld w 28 18 + 2 * n ≤ 2048 → (s.core k).shadow = some tc → (s.core k).inflight = some fl →
    fl.tile = some td → tc.mode = .w2 → td.mode = .w2 →
    (wSE fl.entry.word = true → (s.core k).tok (wST fl.entry.word) < 254) →
    (∀ t < n, (row (3 * t)).2.isSome = true ∧ (row (3 * t + 1)).2.isSome = true ∧ (row (3 * t + 2)).2.isSome = true) →
    (∀ t < n, rowFails tc (row (3 * t)).1 = false ∧ rowFails td (row (3 * t + 1)).1 = false ∧
      pairFails tc td (row (3 * t + 2)).1 = false) →
    exec (.astrc k w) s = .next ((((List.range n).foldl (fun u t =>
      u.writeComplex k (fld w 28 18 + t) (fld w 28 18 + n + t) (fld w 17 16) tc td (row (3 * t)).1 (row (3 * t + 1)).1
        (row (3 * t + 2)).1 ((row (3 * t)).2.getD 0) ((row (3 * t + 1)).2.getD 0) ((row (3 * t + 2)).2.getD 0)
        ((s.core k).vreg (fld w 15 11)))
      (((s.coreTook k).mapCore k fun c => { c with active := some tc, shadow := none, inflight := none, cols := 64 }).complete
        k .array fl.entry.word)).complete k .array w).withQueueOf s))

/-- The frame of ASTRM: it changes the output columns of the lines its rows name alone. -/
def Obligations.StreamFrame : Prop :=
  ∀ (s t : State) (k : Site) (w : BitVec 56) (tile : Tile), s.coreIssues k .astrm w = true →
    let e := s.coreEntry k .astrm w
    let n := (e.sReg (fld w 33 29)).toNat
    let row (t : Nat) := (s.core k).streamRow e t
    streamLegal e = true → fld w 28 18 + n ≤ 2048 → (s.core k).inflight = none →
    ((s.core k).shadow <|> (s.core k).active) = some tile → (fld w 17 16 < 2 → tile.mode.isFloat = false) →
    (∀ t < n, (row t).2.isSome = true) → (∀ t < n, rowFails tile (row t).1 = false) → exec (.astrm k w) s = .next t →
    s.wroteOnly t k w fun st b => ∃ i < n, span 2 (lineAddr (fld w 28 18 + i)) (4 * tile.mode.outs) st b

/-! ### Sends, receives and fused commands (R180 to R200) -/

/-- FSEND, FRED and FMRG on legal operands send their flits: FSEND `nf` data flits to its destination entry or multicast
tree; FRED its lines' flits to the tree's root, a message that is sampled twice; FMRG its list's best `n` candidates,
sorted, to the root. A send of a step that has not sent before injects each of its flits once, in order, into its
router's local port on the channel of its class, and notes how many; it changes nothing else. A step that runs again
injects what is missing. -/
def Obligations.SendsAndFlits : Prop :=
  (
  (∀ (s : State) (k : Site) (w : BitVec 56) (mode : Nat) (dst : Site) (chan : Nat), s.coreIssues k .fsend w = true →
    let e := s.coreEntry k .fsend w
    let src := fsendSrc e
    let wid := scaleBytes (fsendTag e)
    let scales := (s.core k).rd 0 (fsendAsc e) (wid * fsendNf e)
    src.2 % 64 = 0 → (s.core k).inWindow src.1 src.2 (64 * fsendNf e) = true →
    (fsendTag e = 3 → scales.any (fun b => b.getLsbD 7) = false) → s.fsendDst k e = some (mode, dst, chan) →
    exec (.fsend k w) s = .next ((((s.coreTook k).sendFlits k ((List.range (fsendNf e)).map fun f =>
      ⟨blockOfBytes ((s.core k).rd src.1 (src.2 + 64 * f) 64),
        sideTo mode 0 dst chan 0 (f + 1 == fsendNf e) (dataPayload (fsendTag e) ((scales.drop (wid * f)).take wid)), false⟩)).complete k .transfer w).withQueueOf s)) ∧
  (∀ (s : State) (k : Site) (w : BitVec 56) (r : RootEntry), s.coreIssues k .fred w = true →
    let e := s.coreEntry k .fred w
    let fs := (List.range (fredNf e)).map ((s.core k).redFlit (fredLine e) (redOp w) (fredNf e) (fredTree e) r.root)
    let n := (s.coreTook k).redNumber k (fredTree e)
    fredLine e + redLines (redOp w) (fredNf e) ≤ 2048 → (s.core k).tab.root (fredTree e) = some r →
    exec (.fred k w) s = .next (((if (s.core k).sentBefore then (s.coreTook k).sendFlits k fs
      else n.2.sendFlits k (if n.1 then fs ++ fs else fs)).complete k .transfer w).withQueueOf s)) ∧
  (∀ (s : State) (k : Site) (w : BitVec 56) (r : RootEntry), s.coreIssues k .fmrg w = true →
    let e := s.coreEntry k .fmrg w
    let bs := (s.core k).rd 0 (fmrgList e) (8 * fmrgK e)
    ((s.core k).areg (fld w 41 38)).toNat % 64 = 0 → (∀ i < fmrgK e, bs.getD (8 * i + 7) 0#8 = 0#8) →
    (s.core k).tab.root (fld w 30 25) = some r →
    exec (.fmrg k w) s = .next ((((s.coreTook k).sendFlits k (listFlits (siteCanopy r.root) (siteG r.root) (siteH r.root)
      (fld w 30 25) (fmrgK e) ((s.cohortOf k).getD 0)
      (topK (fmrgK e) ((List.range (fmrgK e)).map fun i => candOf (fieldAt bs (8 * i) 8))))).complete
        k .transfer w).withQueueOf s))) ∧
  (
  ∀ (s : State) (k : Site) (fs : List Flit),
    let t := s.sendFlits k fs
    let sent := (s.core k).rep.ledger.getD (s.core k).rep.sendPos 0
    t = { s with cores := t.cores, transit := { s.transit with wires := s.transit.wires ++
      ((fs.drop sent).map fun f => (⟨k, .here, 2 * rClass f, f, []⟩ : Wire)) } } ∧
    (∀ j, j ≠ k → t.core j = s.core j) ∧ (s.core k).sameStores (t.core k) ∧
    (t.core k).rep.sendPos = (s.core k).rep.sendPos + 1 ∧
    ((s.core k).rep.sendPos ≤ (s.core k).rep.ledger.length →
      (t.core k).rep.ledger.getD (s.core k).rep.sendPos 0 = max sent fs.length))

/-- FRECV posts a receive for the next message of its channel, or, where its step runs again, lays the bytes it received
before; at a reduce root it takes a whole message whose flits agree with it and writes them. MESSAGE_LANDED copies a
landed message to the one receive posted for it, and completes that FRECV: with no format fault and no poisoned flit,
outside debug mode. The landing buffer is free before the router's held flits are delivered. -/
def Obligations.ReceivesAndLanding : Prop :=
  (
  (∀ (s : State) (k : Site) (w : BitVec 56), s.coreIssues k .frecv w = true →
    let e := s.coreEntry k .frecv w
    let sdst := if flag w 33 then 1 else 0
    let a := e.aReg (recvAdst w)
    let dst := if sdst = 1 then a.toNat else actAddr a
    let nth := (s.core k).rep.recvPos
    fld w 41 40 < 2 → (sdst = 1 → dst % 64 = 0) → (s.core k).inWindow sdst dst (64 * recvNf w) = true →
    ((s.core k).rep.memo.find? (fun m => m.1 == nth) = none →
      exec (.frecv k w) s = .next (((s.coreTook k).mapCore k fun c => { c with
        posted := [{ kind := fld w 41 40, chan := recvChan w, sdst := sdst, dst := dst, tag := fld w 28 25
                     asc := actAddr (e.aReg (fld w 24 21)), nf := recvNf w, entry := e, nth := nth, got := none }]
        rep := { c.rep with recvPos := nth + 1 } }).withQueueOf s)) ∧
    (∀ m, (s.core k).rep.memo.find? (fun m => m.1 == nth) = some m → m.2.error = none →
      exec (.frecv k w) s = .next (((((s.coreTook k).recvWrite k nth (m.2.writes.map fun j => (j.store, j.addr, j.bytes))
        none).mapCore k fun c => { c with rep := { c.rep with recvPos := nth + 1 } }).complete k .transfer w).withQueueOf s))) ∧
  (∀ (s : State) (k : Site) (w : BitVec 56) (m : List Flit), s.coreIssues k .frecv w = true →
    let tree := recvChan w
    let op := fld w 13 11
    let line := ((s.core k).areg (recvAdst w)).toNat
    let nth := (s.core k).rep.recvPos
    let fs := (s.core k).rootFlits tree
    let n := (s.coreTook k).redNumber k tree
    fld w 41 40 = 2 → line + redLines op (recvNf w) ≤ 2048 → (s.core k).rep.memo.find? (fun m => m.1 == nth) = none →
    n.1 = false → firstMessage fs = some m → m.length = recvNf w → (∀ f ∈ m, rOp f = op) → (∀ f ∈ m, f.poisoned = false) →
    badCount ((((s.core k).tab.root tree).map (·.contributors)).getD 0) m = none → (∀ f ∈ m, pNan f = false ∧ pOvf f = false) →
    exec (.frecv k w) s = .next (((((n.2.mapCore k fun c => { c with
      rootIn := c.rootIn.filter (fun f => !(rMode f == 2 && rChan f == tree)) ++ fs.drop m.length }).recvWrite k nth
        (m.map (redWrite line op)) none).mapCore k fun c => { c with rep := { c.rep with recvPos := nth + 1 } }).complete
          k .transfer w).withQueueOf s))) ∧
  (
  ∀ (s : State) (k : Site) (m : Landing) (p : Posted) (i : Nat), k.ok → s.coreRuns k = true → (s.core k).idle →
    s.debug = false → QueueId.transfer ∉ (s.core k).stopped → (s.core k).posted = [p] →
    (s.core k).nextLanding = some (i, 0) → (s.core k).landing[i]? = some m → p.fault m.flits = none →
    m.flits.any (·.poisoned) = false → (wSE p.entry.word = true → (s.core k).tok (wST p.entry.word) < 255) →
    exec (.messageLanded k) s = .next (((((((s.mapCore k fun c => { c with landing := c.landing.eraseIdx i }).recvWrite
      k p.nth (p.writes m.flits) none).mapCore k fun c => { c with posted := [{ p with got := some none }] }).drainHeld
        k).mapCore k fun c => { c with posted := [] }).complete k .transfer p.entry.word).withQueueOf s))

/-- ATTEND, GATE and SAMPLE-FEED with an aligned, legal descriptor complete: ATTEND (with no tile in flight) appends and
attends head by head and leaves no tile and its scratch lines open; GATE writes each row's K records; SAMPLE-FEED sends
each row's list to the tree's root. -/
def Obligations.FusedCommands : Prop :=
  (∀ (s : State) (k : Site) (w : BitVec 56) (fs : List Word), s.coreIssues k .attend w = true →
    let e := s.coreEntry k .attend w
    let p := attendDesc ((s.core k).rd 0 (fusedAddr e) 128)
    let d := p.1
    (s.core k).inflight = none → fusedAligned e = true → p.2 = true →
    (s.core k).freqs (d.faddr % 2 ^ 21) (d.hd / 2) = some fs → d.psb + 128 ≤ 2048 →
    (∀ f ∈ (s.core k).attendFrames d, (s.core k).inWindow 1 ((s.core k).tab.frameAddr f) frameBytes = true) →
    exec (.attend k w) s = .next ((((((List.range d.nh).foldl (fun t h =>
      let t := (List.range d.nr).foldl (fun t r => t.attendAppend k d fs h r) t
      (List.range d.nr).foldl (fun t r =>
        ((t.core k).attendOut t.kv4 d fs h r).foldl (fun t x => t.jwrite k 0 x.1 x.2 false) t) t) (s.coreTook k)).scratch
          k d.psb 128).fusedOps k).mapCore k fun c => { c with active := none, shadow := none, inflight := none, cols := 64 }).complete
            k .array w |>.withQueueOf s)) ∧
  (∀ (s : State) (k : Site) (w : BitVec 56), s.coreIssues k .gate w = true →
    let e := s.coreEntry k .gate w
    let p := gateDesc ((s.core k).rd 0 (fusedAddr e) 64)
    let d := p.1
    let lines := ceilDiv d.e 64
    let bias := if d.baddr = 0xFFFFFFFF then [] else (s.core k).words d.baddr d.e
    fusedAligned e = true → p.2 = true → d.psl + d.nr * lines ≤ 2048 →
    exec (.gate k w) s = .next (((((List.range d.nr).foldl (fun t r =>
      let xs := (List.range d.e).map fun i => ((t.core k).line (d.psl + r * lines + i / 64)).getD (i % 64) 0#32
      let u := t.jwrite k 0 (d.oaddr + 4 * d.k * r) (gateRecords d t.free xs bias) false
      { u with free := t.free + d.k }) (s.coreTook k)).fusedOps k).complete k .array w).withQueueOf s)) ∧
  (∀ (s : State) (k : Site) (w : BitVec 56), s.coreIssues k .sampleFeed w = true →
    let e := s.coreEntry k .sampleFeed w
    let p := feedDesc ((s.core k).rd 0 (fusedAddr e) 64)
    let d := p.1
    fusedAligned e = true → p.2 = true → d.psl + d.nr * ceilDiv d.nv 64 ≤ 2048 →
    (d.nr = 0 → exec (.sampleFeed k w) s = .next ((((s.coreTook k).sendFlits k []).complete k .array w).withQueueOf s)) ∧
    (∀ r, d.nr ≠ 0 → (s.core k).tab.root d.tree = some r →
      exec (.sampleFeed k w) s = .next ((((s.coreTook k).sendFlits k ((List.range d.nr).flatMap fun i =>
        (s.core k).feedRow d r.root ((s.cohortOf k).getD 0) i)).complete k .array w).withQueueOf s)))

/-! ### Control and debug instructions (R201 to R211) -/

/-- SETI and SOP write one register and run on: SETI its immediate, SOP the result of its FN on the registers A and B name
or B's immediate. FN from 13 on is reserved. -/
def Obligations.ScalarInstructions : Prop :=
  (∀ (s : State) (k : Site) (w : BitVec 56), s.coreFront k .seti w = true →
    exec (.seti k w) s = .next (((s.coreTookFront k).mapCore k fun c =>
      { c.setReg (flag w 55) (fld w 54 50) (BitVec.ofNat 32 (fld w 31 0)) with idx := c.idx + 1 }).withQueueOf s)) ∧
  (∀ (s : State) (k : Site) (w : BitVec 56) (v : Word), s.coreFront k .sop w = true →
    let a := (s.core k).reg (flag w 43) (fld w 42 38)
    let b := if flag w 44 then BitVec.ofNat 32 (fld w 31 0) else (s.core k).reg (flag w 37) (fld w 36 32)
    let sh := b.toNat % 32
    [a + b, a - b, a * b, a &&& b, a ||| b, a ^^^ b, a <<< sh, a >>> sh, a.sshiftRight sh,
      if a.toInt ≤ b.toInt then a else b, if b.toInt ≤ a.toInt then a else b,
      if a.toNat ≤ b.toNat then a else b, if b.toNat ≤ a.toNat then a else b][fld w 49 45]? = some v →
    exec (.sop k w) s = .next (((s.coreTookFront k).mapCore k fun c =>
      { c.setReg (flag w 55) (fld w 54 50) v with idx := c.idx + 1 }).withQueueOf s)) ∧
  (∀ w : BitVec 56, 13 ≤ fld w 49 45 → legalWord .sop w = false)

/-- TPARM reads the tick parameter that SEL names while a tick runs. Before tick 0 the value is free (the model's choice,
notes/assumptions/2). -/
def Obligations.TickParameters : Prop :=
  ∀ (s : State) (k : Site) (w : BitVec 56), s.coreFront k .tparm w = true →
    let rows := s.cohortRows k
    let stage := ((s.core k).tab.assign.map (·.stage)).getD 0
    (∀ v : Nat, s.tick.running = true →
      [rows.length, (rows.filter fun r => r.kind == .prefill).length, (rows.filter fun r => r.kind == .verify).length,
        s.tick.n + 2 ^ 32 - stage, s.tick.n, s.tick.start, s.ltAddr][fld w 49 46]? = some v →
      exec (.tparm k w) s = .next (((s.coreTookFront k).mapCore k fun c =>
        { c.setReg false (fld w 54 50) (BitVec.ofNat 32 v) with idx := c.idx + 1 }).withQueueOf s)) ∧
    (s.tick.running = false → exec (.tparm k w) s = .next (({ (s.coreTookFront k).mapCore k fun c =>
      { c.setReg false (fld w 54 50) (Config.freeWord s.free) with idx := c.idx + 1 } with free := s.free + 1 } : State).withQueueOf s))

/-- LOOP with a count of 0 skips its body; otherwise it begins the first of its iterations. A loop's body is fetched once
for its first iteration and once for each that is left, in order, and fetch then goes on behind it, the enclosing
loops as they were. -/
def Obligations.Loops : Prop :=
  (
  ∀ (s : State) (k : Site) (w : BitVec 56), s.coreFront k .loop w = true →
    let count := if flag w 55 then fld w 49 34 else ((s.core k).sreg (fld w 54 50)).toNat
    let i := (s.core k).idx
    let last := i + fld w 33 20
    last ≤ 16383 →
    (count = 0 → exec (.loop k w) s = .next (((s.coreTookFront k).mapCore k fun c =>
      { c with idx := last + 1 }).withQueueOf s)) ∧
    (0 < count → exec (.loop k w) s = .next (((s.coreTookFront k).mapCore k fun c =>
      { c with idx := i + 1, loops := [{ first := i + 1, last := last, left := count - 1 }] }).withQueueOf s))) ∧
  (
  ∀ (c : Core) (f : LoopFrame) (r : List LoopFrame), c.loops = f :: r → c.idx = f.first → f.first ≤ f.last →
    (∀ g ∈ r.head?, g.last ≠ f.last) →
    let n := f.last + 1 - f.first
    (∀ j < n * (f.left + 1), ((fun c : Core => c.advance c.idx)^[j] c).idx = f.first + j % n) ∧
    (fun c : Core => c.advance c.idx)^[n * (f.left + 1)] c = { c with loops := r, idx := f.last + 1 })

/-- BARR and STEP with every instruction before them complete: BARR signals stage-done and waits at its barrier; STEP
takes the checkpoint that a replay restores, with nothing journaled, sent or received since. TOK: a wait whose tokens
are all above 0 takes one from each, one with a token at 0 holds dispatch; a signal whose tokens are all below 255
adds one to each. -/
def Obligations.TokensAndBarriers : Prop :=
  (
  ∀ (s : State) (k : Site) (w : BitVec 56), (s.core k).inflight = none →
    (s.coreFront k .barr w = true →
      exec (.barr k w) s = .next (((s.coreTookFront k).coreDone k).withQueueOf s) ∧
        (((s.coreTookFront k).coreDone k).core k).atBarrier = true) ∧
    (s.coreFront k .step w = true →
      exec (.step k w) s = .next (((s.coreTookFront k).mapCore k fun c => { c with idx := c.idx + 1, rep := { c.rep with
        ckpt := some { v := c.v, s := c.s, a := c.a, p := c.p, t := c.t, loops := [], idx := (s.core k).idx + 1
                       stepIdx := some (s.core k).idx, active := c.active.map fun t => (t.addr, t.mode)
                       shadow := c.shadow.map fun t => (t.addr, t.mode) }
        journal := [], unreplayable := false, lossMode := false, ledger := [], sendPos := 0, memo := [], recvPos := 0
        replays := 0, lastError := none } }).withQueueOf s))) ∧
  (
  ∀ (s : State) (k : Site) (w : BitVec 56), s.coreFront k .tok w = true →
    let named := fun i : Nat => i < 16 ∧ bitOf (fld w 54 39) i = true
    (flag w 55 = true → (∀ i, named i → 0 < (s.core k).tok i) →
      ∃ ts : Vector Byte 16, exec (.tok k w) s = .next (((s.coreTookFront k).mapCore k fun c =>
          { c with t := ts, idx := c.idx + 1 }).withQueueOf s) ∧
        ∀ i < 16, (named i → ({ s.core k with t := ts } : Core).tok i = (s.core k).tok i - 1) ∧
          (¬named i → ({ s.core k with t := ts } : Core).tok i = (s.core k).tok i)) ∧
    (flag w 55 = true → (∃ i, named i ∧ (s.core k).tok i = 0) →
      exec (.tok k w) s = .next ((s.mapCore k fun c => { c with stream := [s.coreEntry k .tok w] }).withQueueOf s)) ∧
    (flag w 55 = false → (∀ i, named i → (s.core k).tok i < 255) →
      ∃ ts : Vector Byte 16, exec (.tok k w) s = .next (((s.coreTookFront k).mapCore k fun c =>
          { c with t := ts, idx := c.idx + 1 }).withQueueOf s) ∧
        ∀ i < 16, (named i → ({ s.core k with t := ts } : Core).tok i = (s.core k).tok i + 1) ∧
          (¬named i → ({ s.core k with t := ts } : Core).tok i = (s.core k).tok i)))

/-- The debug instructions have no effect outside debug mode. In debug mode DTAG sets the tags of its slots, DTRACE enters
index, register and time into the ring of 64, and DBRK, if its condition holds, reports and asks for a freeze. -/
def Obligations.DebugInstructions : Prop :=
  ∀ (s : State) (k : Site) (w : BitVec 56),
    let on := (s.coreTookFront k).mapCore k fun c => { c with idx := c.idx + 1 }
    let v := (s.core k).sreg (fld w 54 50)
    let brk := (s.coreTookFront k).raise { code := 0x020E, cls := .note, kind := 0, loc := s.coreLoc k
                                           iidx := some (s.core k).idx, arg0 := v.toNat }
    (s.debug = false →
      (s.coreFront k .dtag w = true → exec (.dtag k w) s = .next (on.withQueueOf s)) ∧
      (s.coreFront k .dtrace w = true → exec (.dtrace k w) s = .next (on.withQueueOf s)) ∧
      (s.coreFront k .dbrk w = true → exec (.dbrk k w) s = .next (on.withQueueOf s))) ∧
    (s.debug = true →
      (s.coreFront k .dtag w = true → exec (.dtag k w) s = .next ((on.mapCore k fun c =>
        (List.range (fld w 46 37)).foldl (fun c i => match dtagSlot (fld w 36 35) (fld w 34 33) (c.tagOf (fld w 55 47 + i)) with
          | some t => c.setTag (fld w 55 47 + i) t
          | none => { c with tags := delK c.tags (fld w 55 47 + i) }) c).withQueueOf s)) ∧
      (s.coreFront k .dtrace w = true → exec (.dtrace k w) s = .next ((on.mapCore k fun c => { c with
        trace := putK c.trace c.traceNext ⟨(s.core k).idx, v, s.time⟩
        traceNext := (c.traceNext + 1) % 64 }).withQueueOf s)) ∧
      (s.coreFront k .dbrk w = true → flag w 55 = true ∧ v = 0#32 → exec (.dbrk k w) s = .next (on.withQueueOf s)) ∧
      (s.coreFront k .dbrk w = true → ¬(flag w 55 = true ∧ v = 0#32) →
        exec (.dbrk k w) s = .next (((brk.requestFreeze .breakpoint brk.freeze.immediate).mapCore k fun c =>
          { c with idx := c.idx + 1 }).withQueueOf s)))

/-- A word that is an illegal encoding is not executed: dispatch stops and ILLEGAL_ENCODING is reported, class CONTAINED,
with the core's location and the instruction's index. -/
def Obligations.IllegalWordStops : Prop :=
  ∀ (s : State) (k : Site) (op : CoreOp) (w : BitVec 56), s.coreRuns k = true → (s.core k).rest = true →
    (s.kindWords k = [] ∨ (s.core k).idx < (s.kindWords k).length) → legalWord op w = false →
    s.fetched k op w = (s.mapCore k fun c => { c with stopped := [QueueId.front] }).raise
      { code := 0x0205, cls := .contained, kind := 0, loc := s.coreLoc k, iidx := some (s.core k).idx
        arg0 := (wordOfOp op w).toNat, arg1 := QueueId.front.num }

/-! ### Routers (R36 to R66) -/

/-- A flit that a running router's input has room for, checked and with a legal route word: a unicast flit is delivered at
its destination and otherwise goes one hop on, along the rest of its path; a multicast flit leaves by every port of
its tree's entry; a tree flit waits at its input, or passes where its entry expects one input. A flit with no room
that no unit's credit covers is a violation; one with a bad route word is discarded and reported. A tree's router
whose expected inputs all hold their flits combines them and sends the result on: flits of one INDEX and OP are
reduced, lists of one K and cohort merged and cut to the best K. -/
def Obligations.RouterWork : Prop :=
  (
  ∀ (s : State) (k : Site) (p : Port) (f : Flit) (sb : Sideband), k.ok → s.routerRuns k = true →
    let vc := 2 * sb.cls.toNat + (if sb.detour then 1 else 0)
    let held := ((s.router k).inq.filter fun h => h.port = p ∧ h.vc = vc).length
    let u := (s.takeWire k p f).1
    let path := (s.takeWire k p f).2
    (inputDepth k p (rMode f) ≤ held → path = none → exec (.routerFlitArrival k p f sb) s = .next ((u.raise
      { code := 0x0101, cls := .fatal, kind := 1, loc := physLoc k, arg0 := portNum p + vc * 8 }).withQueueOf s)) ∧
    (held < inputDepth k p (rMode f) → checkBits f = sb.check →
      (routeOk f sb = false → exec (.routerFlitArrival k p f sb) s = .next ((u.fabricFormat k p f).withQueueOf s)) ∧
      (routeOk f sb = true →
        let here := siteCanopy k = rCan f ∧ siteG k = rCol f ∧ siteH k = rRow f
        (rMode f = 0 → here → exec (.routerFlitArrival k p f sb) s = .next ((u.deliverLocal k p vc f).withQueueOf s)) ∧
        (rMode f = 0 → ¬here → ∀ h r, path = some (h :: r) →
          exec (.routerFlitArrival k p f sb) s = .next ((u.sendHop k f (h :: r)).withQueueOf s)) ∧
        (rMode f = 0 → ¬here → path = none →
          exec (.routerFlitArrival k p f sb) s = .next ((u.sendHop k f (u.path k (rCan f) (rCol f) (rRow f))).withQueueOf s)) ∧
        (∀ m, rMode f = 1 → (u.router k).mcast.find? (fun m => m.1 = rChan f) = some m → m.2 ≠ 0 →
          exec (.routerFlitArrival k p f sb) s = .next ((s.rootWake
            ((allPorts.filter fun q => m.2.getLsbD (portNum q)).foldl (fun s q => s.outPort k p vc q f) u) k).withQueueOf s)) ∧
        (∀ e, 2 ≤ rMode f → (u.router k).entry (rChan f) = some e → rChan f ∉ (u.router k).broken →
          e.mask.getLsbD (portNum p) = true →
          exec (.routerFlitArrival k p f sb) s = .next ((s.rootWake (if e.ports.length = 1 then u.outPort k p vc e.out f
            else u.mapRouter k fun r => { r with inq := r.inq ++ [{ port := p, vc := vc, flit := f }] }) k).withQueueOf s))))) ∧
  (
  ∀ (s : State) (k : Site) (tree : Nat) (e : RedEntry), k.ok → s.routerRuns k = true → (s.router k).entry tree = some e →
    e.ports ≠ [] →
    (∀ (fs : List Flit) (i op : Nat), (e.ports.map fun p => (s.router k).headOf p tree) = fs.map some →
      (∀ f ∈ fs, rMode f = 2 ∧ pIndex f = i ∧ rOp f = op) →
      exec (.reduceCombine k tree) s = .next ((s.rootWake (((s.mapRouter k fun r =>
        (e.ports.zip fs).foldl (fun r x => r.takeOut x.1 [x.2]) r)).outPort k .here 2 e.out (combineFlits fs)) k).withQueueOf s)) ∧
    (∀ (ls : List (List Flit)) (f : Flit), (e.ports.map fun p => (s.router k).listOf p tree) = ls.map some →
      (ls.filterMap (·.head?)).head? = some f → (∀ g ∈ ls.filterMap (·.head?), pK g = pK f ∧ pCohort g = pCohort f) →
      exec (.mergeCombine k tree) s = .next (((listFlits (rCan f) (rCol f) (rRow f) tree (pK f) (pCohort f)
          (topK (pK f) (ls.flatMap fun l => (l.flatMap flitCands).take (pK f)))).foldl (fun s o =>
        s.outPort k .here 2 e.out { o with
          poisoned := ls.any fun l => l.any (·.poisoned)
          side := if ls.any fun l => l.any pNan then o.side ||| 0x200#64 else o.side })
        (s.mapRouter k fun r => (e.ports.zip ls).foldl (fun r x => r.takeOut x.1 x.2) r)).withQueueOf s)))

/-- A router found dead is declared dead, its inputs emptied, and routes change round it; a router that neither runs nor
is dying is left alone. Inside a canopy with no dead router and no fenced panel a unicast flit goes along its row to
its destination's column and then along that column, one router at a time. -/
def Obligations.RoutesAroundDeath : Prop :=
  (
  ∀ (s : State) (k : Site), k.ok →
    (s.routerRuns k = true ∨ k ∈ s.errors.dying → exec (.routerDeathDetect k) s = .next ((s.routerDies k).withQueueOf s)) ∧
    (s.killRouter k).router k = { s.router k with dead := true, inq := [] } ∧ (s.killRouter k).deadAt k = true ∧
    (s.routerRuns k = false → k ∉ s.errors.dying → exec (.routerDeathDetect k) s = .next s)) ∧
  (
  ∀ (s : State) (k : Site) (dg dh : Nat), (∀ x, s.deadAt x = false) → siteG k ≤ 155 → siteH k ≤ 95 → dg ≤ 155 → dh ≤ 95 →
    let can := siteCanopy k
    s.path k can dg dh =
      ((List.range ((dg - siteG k) + (siteG k - dg))).map fun i => (⟨siteAt can ((toward · dg)^[i + 1] (siteG k)) (siteH k), false⟩ : Hop)) ++
      ((List.range ((dh - siteH k) + (siteH k - dh))).map fun i => (⟨siteAt can dg ((toward · dh)^[i + 1] (siteH k)), false⟩ : Hop)))

/-- A buddy that runs, its vector queue free, recomputes the oldest sampled operation and keeps silent if it agrees. A guard
update is XORed into its parity frame, and a close marker notes its tick for every frame that guards its source. -/
def Obligations.DuplicationAndGuards : Prop :=
  (∀ (s : State) (k : Site) (m : DupMsg) (r : List DupMsg), k.ok → s.coreRuns k = true → (s.core k).vq = [] →
    (s.core k).dupIn = m :: r →
    let u := s.mapCore k fun c => { c with dupIn := r }
    (m.recompute = (m.results, m.resultP) → exec (.dupCheck k) s = .next (u.withQueueOf s)) ∧
    (m.recompute ≠ (m.results, m.resultP) → exec (.dupCheck k) s = .next ((u.dupMismatch k m).withQueueOf s))) ∧
  (∀ (s : State) (k src : Site) (frame off : Nat) (delta : List Byte) (tick : Nat), k.ok → src.ok →
    frame < (s.core k).tab.frames → off + delta.length ≤ frameBytes →
    let a := (s.core k).tab.frameAddr frame + off
    ∃ u : State, exec (.guardUpdate k src frame off delta tick) s = .next (u.withQueueOf s) ∧
      (∀ j, j ≠ k → u.core j = s.core j) ∧ (s.core k).sameBut (u.core k) (span 1 a delta.length) ∧
      (a + delta.length ≤ 2 ^ 24 → ∀ i < delta.length,
        (u.core k).rd 1 (a + i) 1 = xorBytes ((s.core k).rd 1 (a + i) 1) [delta.getD i 0#8])) ∧
  (∀ (s : State) (k src : Site) (tick : Nat), k.ok → src.ok →
    ∃ u : State, exec (.guardCloseMarker k src tick) s = .next (u.withQueueOf s) ∧ (∀ j, j ≠ k → u.core j = s.core j) ∧
      (∀ f r, ((k, f) :: r) ∈ s.guardMap → (∃ x ∈ r, x.1 = src) → (f, src, tick) ∈ (u.core k).guardTicks))

/-! ### Ticks, cohorts and Lanterns (R212 to R231, R294, R309 to R314) -/

/-- The barrier is released only when R216 allows it: clocks running, no hold, every stage's signal and every partner's
marker in for 240 ns, and a tick that runs has lasted its T. -/
def Obligations.ReleaseWaits : Prop :=
  ∀ (s : State) (l : Loaded), s.loaded = some l → s.mayRelease = true →
    s.clocksStopped = false ∧ s.holds = [] ∧ s.tick.stalledStages = [] ∧
    (∀ g < l.plan.stages.length, ∃ d ∈ s.tick.stageDone, d.1 = g ∧ (d.2.1 ≠ 0 → d.2.1 + 240 ≤ s.time)) ∧
    (l.pkg.chained = true → ∀ i ∈ s.groupLinks, ∃ m ∈ s.tick.markers, m.1 = i ∧ (m.2 ≠ 0 → m.2 + 240 ≤ s.time)) ∧
    (s.tick.running = true → s.tick.start + l.t ≤ s.time) ∧
    (∀ t r, s.tick.lastLift = some (t, r) → t ≠ 0 → t + 240 ≤ s.time)

/-- TICK_RELEASE: it changes nothing while the barrier may not be released; the first release of a package begins tick 0, or
after ticks stood still the tick behind the last; a release in service ends tick n with its work and begins tick n + 1, unless
work then due holds the barrier. What a tick begins with: its number, its start now, no stage done, no hold lifted in it. -/
def Obligations.TickReleases : Prop :=
  ∀ (s : State) (l : Loaded), s.loaded = some l →
    (s.mayRelease = false → s.tickStuck = false → exec .tickRelease s = .next s) ∧
    (s.mayRelease = true → s.unloading = none →
      (s.tick.running = false → exec .tickRelease s =
        .next ((s.beginTick l (match s.tick.stoppedAt with | some n => n + 1 | none => 0) none).withQueueOf s)) ∧
      (s.tick.running = true → s.power.state ≠ .stopping → s.tickStuck = false →
        (s.dueWork.mayRelease = false → exec .tickRelease s = .next (s.dueWork.withQueueOf s)) ∧
        (∀ l', s.dueWork.mayRelease = true → s.dueWork.loaded = some l' → s.dueWork.tick.running = true →
          let t := s.dueWork.endTick
          exec .tickRelease s = .next ((if t.stopsHere then t.stopTicks
            else t.beginTick l' (s.dueWork.tick.n + 1) (some s.dueWork.tick.n)).withQueueOf s)))) ∧
    (∀ m served, let t := s.turnTick m served
      t.tick.running = true ∧ t.tick.n = m ∧ t.tick.start = s.time ∧ t.tick.stageDone = [] ∧ t.tick.lastLift = none ∧
        t.tick.limits = s.regs.rations ∧ t.tick.stalledStages = [] ∧ t.cores = s.cores ∧ t.serve = s.serve)

/-- COHORT_BUILD: once in a tick, a module with its host link up that is not going to bivouac builds the next tick's cohort;
without its link or on the way to bivouac it builds an empty one; at any other time nothing happens. -/
def Obligations.CohortBuilds : Prop :=
  ∀ s : State,
    (s.tick.running = true → s.serve.built = none → s.clocksStopped = false →
      exec .cohortBuild s = .next (s.buildCohort.withQueueOf s) ∧
      (∀ l, s.loaded = some l → (s.latency.linkUp = false ∨ s.latency.power.state ≠ .running) →
        s.buildCohort.serve.built = some ⟨s.latency.tick.n + 1, 0, [], false⟩) ∧
      (∀ l, s.loaded = some l → s.latency.linkUp = true → s.latency.power.state = .running →
        ∃ c, s.buildCohort.serve.built = some c ∧ c.n = s.latency.tick.n + 1 ∧ c.lost = false)) ∧
    (s.tick.running = false ∨ s.serve.built ≠ none ∨ s.clocksStopped = true → exec .cohortBuild s = .next s)

/-- A Lantern keeps a list of a cohort it accepts, by the cohort's low eight bits, and counts any other as discarded. It
draws a token for its row: the best candidate at temperature 0, the FORCE token where none is left and the automaton's state
has one of its own edges; a drawn row, or one that does not draw, is not drawn again. -/
def Obligations.LanternWork : Prop :=
  (∀ (s : State) (i : Nat) (f : Flit) (r : List Flit) (sv : Serving), lanternOk i → s.serving = some sv →
    let u : State := { s with transit := { s.transit with lists := (f :: r).foldl (fun l x => l.erase (sv.scan * 4 + i, x)) s.transit.lists } }
    (∀ j, (s.lantern i).accepting.findIdx? (fun c => c.cohort % 256 == pCohort f) = some j →
      exec (.lanternListArrival i (f :: r)) s = .next ((u.setLantern i { s.lantern i with
        accepting := (s.lantern i).accepting.modify j fun c => { c with lists := c.lists ++ [listOf (f :: r)] } }).withQueueOf s)) ∧
    ((∀ c ∈ (s.lantern i).accepting, c.cohort % 256 ≠ pCohort f) →
      exec (.lanternListArrival i (f :: r)) s = .next ((u.setLantern i { s.lantern i with
        discarded := (s.lantern i).discarded + 1 }).withQueueOf s))) ∧
  (∀ (s : State) (i n row : Nat) (sv : Serving) (c : Cohort) (r : Row) (x : Seq) (a : LanternCohort) (l : List Cand × Bool),
    lanternOk i → s.serving = some sv → s.cohortNum n = some c → c.lost = false → c.rows[row]? = some r →
    row % sv.lanterns = i → r.draws = true → r.discard = false → r.starved = false → r.drawn = false →
    (∀ d ∈ s.serve.drawn, ¬(d.cohort = n ∧ d.row = row)) → s.seqAt r.slot = some x → x.state.terminal = false →
    (s.lantern i).accepting.find? (fun y => y.cohort == n) = some a → a.lists[row / sv.lanterns]? = some l →
    let d := drawRow (s.drawIn c x row r) (Config.freeWord s.free).toNat l.1
    exec (.lanternDraw i n row) s = .next (({ s with free := s.free + 1, serve := { s.serve with drawn := s.serve.drawn ++
      [⟨r.slot, n, row, d.token, d.prob, d.forced, l.2 || l.1.any fun c => isNan32 c.val, d.dead⟩] } } : State).withQueueOf s)) ∧
  (∀ (s : State) (i n row : Nat), lanternOk i → (∃ d ∈ s.serve.drawn, d.cohort = n ∧ d.row = row) →
    exec (.lanternDraw i n row) s = .next s) ∧
  (∀ (d : DrawIn) (free : Nat) (l : List Cand) (c : Cand) (r : List Cand), drawable d l = c :: r →
    (ofF32 d.samp.temp).cmp (Fp.ofInt 0) = 0 → drawRow d free l = ⟨c.idx, one32, false, false⟩) ∧
  (∀ (d : DrawIn) (free : Nat) (l : List Cand), drawable d l = [] →
    drawRow d free l = (match forceOf d with | some t => ⟨t, one32, true, false⟩ | none => ⟨0, 0#32, false, true⟩))

/-- A probe past the barrier deadline: every probed core that does not answer is dead; where all answer, a core whose
issue count has not moved since the last probe stalls its stage. Before the deadline, or with every region signalled,
a probe does nothing. DARNING_COMPLETE does nothing without the hold of reason 2 or while class 3 messages are on
their way. Otherwise rows shift, and once nothing more is to be fetched the hold lifts and DARNED is reported with the
time the hold took. -/
def Obligations.DeadlineAndDarning : Prop :=
  (
  ∀ (s : State) (l : Loaded) (silent : List Site), s.loaded = some l →
    (s.tick.running = false ∨ s.clocksStopped = true ∨ s.time < s.probeAt l.t ∨ s.probed = [] →
      exec (.deadlineProbe silent) s = .next s) ∧
    (s.tick.running = true → s.clocksStopped = false → s.probeAt l.t ≤ s.time → s.probed ≠ [] →
      let dead := s.probed.filter fun x => silent.contains x.1
      let live := s.probed.filter fun x => !silent.contains x.1 && !(s.core x.1).atBarrier
      let stuck := live.filter fun x => (s.core x.1).lastProbe == some (s.core x.1).issued && !s.tick.stalledStages.contains x.2.stage
      let u := live.foldl (fun s x => s.mapCore x.1 fun c => { c with lastProbe := some c.issued })
        ({ s with tick := { s.tick with probes := s.tick.probes + 1 } } : State)
      exec (.deadlineProbe silent) s = .next ((if dead ≠ [] then dead.foldl (fun s x => s.coreDies x.1) u
        else stuck.foldl (fun s x => s.stall x.1 x.2) u).withQueueOf s))) ∧
  (
  ∀ s : State,
    (s.held 2 = false ∨ s.transit.guards ≠ [] ∨ s.transit.closes ≠ [] ∨ s.clocksStopped = true →
      exec .darningComplete s = .next s) ∧
    (s.held 2 = true → s.transit.guards = [] → s.transit.closes = [] → s.clocksStopped = false → s.errors.stuck = false →
      (∀ k ∈ s.errors.deadCores, (s.panel k.panel).wentDark = false) →
      let t := s.darnRows.foldl (fun s r => s.shiftRow r.1 r.2) s
      let u := (t.errors.badFrames.foldl (fun (s : State) x => s.retireFrame x.1 x.2)
        { t with errors := { t.errors with badFrames := [] } }).settleSources State.loadFails
      (u.errors.stuck = true ∨ u.fetching .darn = true → exec .darningComplete s = .next (u.withQueueOf s)) ∧
      (∀ (h : Hold) loc what, u.errors.stuck = false → u.fetching .darn = false → u.holds.find? (fun h => h.reason == 2) = some h →
        ((u.liftHold 2).endCode 0x0A0A).errors.darned = some (loc, what) →
        let v := (u.liftHold 2).endCode 0x0A0A
        exec .darningComplete s = .next ((({ v with errors := { v.errors with darned := none } } : State).raise
          { code := 0x0A0B, cls := .corrected, kind := 0, loc := loc, arg0 := (v.time - h.since) / 1000
            arg1 := what }).withQueueOf s))))

/-! ### The control ring: zips, cancels, evictions, automata (R234 to R236, R282, R283, R304, R313, R345, R346) -/

/-- Where no descriptor of its kind stands at the ring's head, a control command takes nothing: only descriptors of reserved
kinds there are refused. -/
def Obligations.ControlHeads : Prop :=
  ∀ (s : State) (f : Nat), fnOk f →
    let t := State.refuseKinds f ((s.fn f).ring 4).waiting s
    (∀ x ∈ [(3, Instr.zipOpen f), (4, .zipStage f), (5, .zipClose f), (6, .cancel f), (7, .evict f), (8, .restore f),
        (9, .automaton f), (1, .load f), (0x20, .source f), (0x21, .serve f), (0x22, .replace f), (0x23, .copyBuild f),
        (0x24, .copyDiscard f)], s.ctrlHead f x.1 = none → exec x.2 s = .next (t.withQueueOf s)) ∧
    (s.loadPending = none ∨ f ≠ 0 → s.ctrlHead f 2 = none → exec (.unload f) s = .next (t.withQueueOf s))

/-- A legal ZIP_OPEN gives the function a new zip, unless it has one open or 64 are open; ZIP_STAGE appends host memory's
entries to the open zip it names, and past the 4,096th marks it failed; ZIP_CLOSE closes it for validation. Closed
zips validate in the order of their closes, one at a time; an open zip left alone for 1 s expires, with ZIP_EXPIRED
reported, and one not left so long does not. -/
def Obligations.Zips : Prop :=
  (
  ∀ (s : State) (f : Nat) (c : Ctrl) (u : State), fnOk f →
    let t := u.ctrlNext f
    (s.ctrlHead f 3 = some (c, u) → descClear c.bs [] = true →
      (t.openZip f = none → t.hostZips < 64 → exec (.zipOpen f) s = .next ((({ t with
        zips := t.zips ++ [{ id := t.nextZip, owner := .host f, entries := [], phase := .open_, touched := t.time, full := false
                             failed := none, validEnd := 0, close := none }]
        nextZip := (t.nextZip + 1) % 65536
        fns := t.fns.map fun e => (e.1, { e.2 with zipsGone := e.2.zipsGone.filter fun x => x.1 ≠ t.nextZip }) } : State).control
          f c 0 t.nextZip 0).withQueueOf s)) ∧
      (t.openZip f ≠ none ∨ 64 ≤ t.hostZips → exec (.zipOpen f) s = .next ((t.control f c 6 0 0).withQueueOf s))) ∧
    (s.ctrlHead f 4 = some (c, u) →
      let addr := fieldAt c.bs 8 8
      let n := bitsOf (fieldAt c.bs 0x10 4) 12 0
      descClear c.bs [(4, 16), (8, 64), (0x10, 13)] = true → 0 < n → n ≤ 4096 → addr % 16 = 0 →
      ∀ z, t.namedZip f (fieldAt c.bs 4 2) = .ok z →
      let all := z.entries ++ (List.range n).map fun i => zipEntryOf (((t.hostRead addr (16 * n)).drop (16 * i)).take 16)
      exec (.zipStage f) s = .next (((t.mapZip z.id fun z => { z with
        entries := all.take 4096, full := z.full || decide (4096 < all.length), touched := t.time }).control
          f c 0 (min all.length 4096) 0).withQueueOf s)) ∧
    (s.ctrlHead f 5 = some (c, u) → descClear c.bs [(4, 16)] = true → ∀ z, t.namedZip f (fieldAt c.bs 4 2) = .ok z →
      exec (.zipClose f) s = .next (({ t with zips := t.zips.filter (fun x => x.id ≠ z.id) ++ [{ z with
        phase := .closed, validEnd := t.validAt z.entries.length, close := some (c.idx, c.utag) }] } : State).withQueueOf s))) ∧
  (
  ∀ (s : State) (z : Zip),
    ((s.zips.filter fun z => z.phase == .closed).head? = some z →
      exec (.zipValidated z.id) s = .next ((s.validate z.id).withQueueOf s) ∧
      ∀ id, id ≠ z.id → exec (.zipValidated id) s = .next s) ∧
    (∀ f, s.zips.find? (fun x => x.id == z.id && x.phase == .open_ && decide (x.touched + 1000000000 ≤ s.time)) = some z →
      z.owner = .host f →
      exec (.zipExpiry z.id) s = .next (((({ s with zips := s.zips.filter fun x => x.id ≠ z.id } : State).mapFn f fun x =>
        { x with zipsGone := putK x.zipsGone z.id 8 }).raise
          { code := 0x0305, cls := .note, func := some f, count := z.entries.length, arg0 := z.id }).withQueueOf s)) ∧
    (∀ id, (∀ x ∈ s.zips, x.id = id → x.phase = .open_ → s.time < x.touched + 1000000000) →
      exec (.zipExpiry id) s = .next s))

/-- CANCEL of a fetched descriptor marks its queued request or its live sequence cancelled; one already ended answers 0x46,
an unknown one 0x45. AUTOMATON replaces its slot's image with one that is legal and fits. -/
def Obligations.CancelAndAutomaton : Prop :=
  ∀ (s : State) (f : Nat) (c : Ctrl) (u : State), fnOk f →
    (s.ctrlHead f 6 = some (c, u) →
      let ring := bitsOf (fieldAt c.bs 4 4) 2 0
      let idx := fieldAt c.bs 8 4
      let t := State.fetchUpTo f ring idx 65536 u
      let v := t.ctrlNext f
      let r := (t.fn f).ring ring
      descClear c.bs [(4, 3), (8, 32)] = true → ring ≤ 3 → u.begun = true → r.waiting ≤ (2 ^ 32 - r.own + idx) % 2 ^ 32 →
      let live := (v.serve.seqs.any fun x => x.req.is f ring idx && !x.state.terminal && x.state != .kept) ||
        v.serve.queued.any fun r => r.is f ring idx
      (live = true → exec (.cancel f) s = .next ((({ v with serve := { v.serve with
        queued := v.serve.queued.map fun r => if r.is f ring idx then { r with cancelled := true } else r
        seqs := v.serve.seqs.map fun x =>
          if x.req.is f ring idx && x.state != .kept then { x with req := { x.req with cancelled := true } } else x } } : State).control
            f c 0 0 0).withQueueOf s)) ∧
      (live = false → exec (.cancel f) s = .next ((v.control f c
        (if v.serve.ended.contains (f, ring, idx) then 0x46 else 0x45) 0 0).withQueueOf s))) ∧
    (s.ctrlHead f 9 = some (c, u) →
      let t := u.ctrlNext f
      let slot := bitsOf (fieldAt c.bs 4 1) 5 0
      let addr := fieldAt c.bs 8 8
      let size := fieldAt c.bs 0x10 8
      let others := t.serve.autos.filter fun a => a.1 ≠ slot
      descClear c.bs [(4, 6), (8, 64), (0x10, 64)] = true → addr % 8 = 0 → (t.fn f).autos.getLsbD slot = true →
      ∀ sv a, t.serving = some sv →
      (∀ x ∈ t.serve.seqs, ¬(x.req.samp.autoEn = true ∧ x.req.samp.auto = slot ∧ x.state.terminal = false ∧ x.state ≠ .kept)) →
      size ≤ 16 + 8 * 4194304 → readAutomaton (t.hostRead addr size) sv.vocab = some a →
      (others.map fun a => a.2.records).sum + a.records ≤ 4194304 →
      exec (.automaton f) s = .next ((({ t with serve := { t.serve with autos := others ++ [(slot, a)] } } : State).control
        f c 0 0 0).withQueueOf s))

/-- EVICT and RESTORE of a paused sequence move page images while the rations allow: the descriptor stays at the head, with how
far it came, until the last one has moved; EVICT then frees the sequence's pages. -/
def Obligations.PageImages : Prop :=
  ∀ (s : State) (f : Nat) (c : Ctrl) (u : State) (x : Seq), fnOk f → u.pausedSeq f c = .ok x →
    let addr := fieldAt c.bs 8 8
    let size := fieldAt c.bs 0x10 8
    let m := (u.fn f).moved
    (s.ctrlHead f 7 = some (c, u) →
      let fs := u.imageFrames x.slot
      let r := State.evictFrom f addr m (fs.drop m) u
      imageBytes * fs.length ≤ size →
      (r.1 < fs.length → exec (.evict f) s = .next ((r.2.setMoved f r.1).withQueueOf s)) ∧
      (fs.length ≤ r.1 → exec (.evict f) s = .next ((((((r.2.freePages x.slot fun _ => true).setMoved f 0).ctrlNext f).control
        f c 0 fs.length (imageBytes * fs.length))).withQueueOf s))) ∧
    (s.ctrlHead f 8 = some (c, u) → ∀ is t, u.readImages x addr size = .ok is →
      (if m = 0 then u.mapAll x ((is.map (·.lpage)).eraseDups.length) else some u) = some t →
      let r := State.restoreFrom f x m (is.drop m) t
      (r.1 = is.length → exec (.restore f) s = .next ((((r.2.setMoved f 0).ctrlNext f).control f c 0 is.length 0).withQueueOf s)) ∧
      (r.1 ≠ is.length → 0 < r.1 → exec (.restore f) s = .next ((r.2.setMoved f r.1).withQueueOf s)))

/-! ### LOAD, UNLOAD and the weight operations (R244 to R247, R345, R355 to R373) -/

/-- LOAD checks its package and answers what the check finds wrong; a package of its own is placed, a chained one first tells
its group. UNLOAD by the physical
function takes effect at the next release while ticks run, and at once otherwise. -/
def Obligations.LoadAndUnload : Prop :=
  ∀ (s : State) (f : Nat) (c : Ctrl) (u : State), fnOk f →
    let t := u.ctrlNext f
    (s.ctrlHead f 1 = some (c, u) → descClear c.bs [(8, 64), (0x10, 64), (0x18, 32), (0x1C, 14)] = true →
      fieldAt c.bs 8 8 % 4096 = 0 →
      exec (.load f) s = .next ((match t.checkLoad f c with
        | .error e => t.control f c e 0 0
        | .ok l =>
          if l.pkg.chained = false then t.startLoad l
          else if t.regs.groupLinks = 0 ∨ t.regs.gid = 0 then t.control f c 0x0010 0 0
          else (({ t with
            loadPending := some l
            regs := { t.regs with groupIn := some (t.regs.groupLinks, t.regs.gid.toNat, t.regs.groupDig) } } : State).sendGroup
              l).settleChain).withQueueOf s)) ∧
    (s.loadPending = none → s.ctrlHead 0 2 = some (c, u) → descClear c.bs [] = true →
      let t := u.ctrlNext 0
      let v : State := { t with unloading := some (some (0, c.idx, c.utag)) }
      t.loaded ≠ none →
      (t.tick.running = true → t.errors.fatal = false → exec (.unload 0) s = .next (v.withQueueOf s)) ∧
      (t.tick.running = false ∨ t.errors.fatal = true → exec (.unload 0) s = .next ((v.unloadNow none).withQueueOf s)))

/-- SOURCE sets a source and tries failed fetches again; SERVE sets which links it serves; REPLACE, with a manifest of the
held one's shape, becomes the operation in progress; COPY_BUILD fetches a copy into the free areas of its stages;
COPY_DISCARD waits for the next release. REPLACE_DRAIN_LIMIT ends a drain whose limit has passed. SHARD_ARRIVAL from a
partner lays a shard whose digest is right and that expands into its core's weight store, and holds it as verified; a
wrong one is a failed attempt. A scrubbed shard is clean as of now, or, its digest wrong, reported and put down for
repair. -/
def Obligations.WeightOperations : Prop :=
  (
  ∀ (s : State) (c : Ctrl) (u : State),
    let t := u.ctrlNext 0
    (s.ctrlHead 0 0x20 = some (c, u) → descClear c.bs [(4, 6), (8, 64), (0x10, 64)] = true →
      let w := fieldAt c.bs 4 4
      let kind := bitsOf w 2 1
      let addr := fieldAt c.bs 8 8
      kind ≠ 3 → (kind = 1 → addr % 4096 = 0) →
      let src : Source := if kind = 0 then .empty else if kind = 1 then .host addr (fieldAt c.bs 0x10 8) else .guy (bitsOf w 5 3)
      exec (.source 0) s = .next (((({ t with weights := { t.weights with
        src := if bitOf w 0 then t.weights.src.set 1 src else t.weights.src.set 0 src } } : State).retryFetches).control
          0 c 0 0 0).withQueueOf s)) ∧
    (s.ctrlHead 0 0x21 = some (c, u) → descClear c.bs [(4, 8)] = true →
      exec (.serve 0) s = .next ((({ t with weights := { t.weights with serve := BitVec.ofNat 8 (fieldAt c.bs 4 1) } } : State).control
        0 c 0 0 0).withQueueOf s)) ∧
    (s.ctrlHead 0 0x22 = some (c, u) → descClear c.bs [(8, 64), (0x10, 32), (0x14, 32)] = true → t.loaded ≠ none →
      t.weights.op = .none → ∀ m old, t.newManifest c = .ok m → t.weights.held = some old →
      t.weights.epoch + (changedLayers old m).length ≤ 0xFFFFFFFE →
      let ms := fieldAt c.bs 0x14 4
      exec (.replace 0) s = .next (({ t with weights := { t.weights with
        op := .replace m (if ms = 0xFFFFFFFF then none else some (t.time + ms * msNs)) (changedLayers old m) false 0
        opDesc := (c.idx, c.utag) } } : State).withQueueOf s)) ∧
    (s.ctrlHead 0 0x23 = some (c, u) → descClear c.bs [(4, 8), (8, 64), (0x10, 32)] = true → t.loaded ≠ none →
      t.weights.op = .none → ∀ m, t.newManifest c = .ok m →
      let gs := t.namedStages c
      let target := fun g => (t.currentArea g).map fun a => 1 - a
      gs ≠ [] → (∀ g ∈ gs, ∀ x ∈ t.setsOf g, ((m.sets[x]?).map (·.copy)).getD false = true) →
      (∀ g ∈ gs, ∃ a, target g = some a ∧ (∀ x ∈ t.weights.areas, ¬(x.stage = g ∧ x.area = a)) ∧ (g, a) ∉ t.weights.copies) →
      let jobs := (t.placements m).filterMap fun x => ((t.core x.2).tab.assign).bind fun a =>
        if a.stage ∈ gs then (target a.stage).map fun r => (x.1, x.2, r, ((m.shards[x.1]?).map (·.digest)).getD 0) else none
      exec (.copyBuild 0) s = .next (((jobs.foldl (fun (s : State) j => s.addFetch j.1 j.2.1 j.2.2.1 j.2.2.2 .copy) ({ t with
        weights := { t.weights with op := .copy m gs jobs.length, opDesc := (c.idx, c.utag) } } : State)).settleSources id).withQueueOf s)) ∧
    (s.ctrlHead 0 0x24 = some (c, u) → descClear c.bs [(4, 8)] = true → t.loaded ≠ none → t.weights.op = .none →
      t.namedStages c ≠ [] → exec (.copyDiscard 0) s = .next (({ t with weights := { t.weights with
        discard := t.weights.discard ++ [(c.idx, c.utag, fieldAt c.bs 4 1)] } } : State).withQueueOf s))) ∧
  (
  (∀ (s : State) (m : Manifest) (t : Nat) (left : List Nat) (done : Nat), s.weights.op = .replace m (some t) left false done →
    exec .replaceDrainLimit s = .next ((if t ≤ s.time then s.endDrain else s).withQueueOf s)) ∧
  (∀ (s : State) (rec l : Nat) (k : Site) (bs : List Byte) (f : Fetch) (second : Bool) (r : ShardRec), k.ok →
    s.fetchOf rec k = some f → s.sourceNow f.tries0 f.tries1 = some (second, .guy l) → s.fetchRec f = some r →
    let t := s.mapGuy l fun g => { g with requests := g.requests.filter fun x => x.digest ≠ r.digest }
    (∀ stored, bs.length = r.size → digestOf bs = r.digest → expandShard (r.packed / 410) bs = .ok stored →
      let u := t.mapCore f.core fun c => c.wrRaw 1 (f.area * c.tab.span + r.dest) stored
      exec (.shardArrival rec k bs) s = .next (((({ u with weights := { u.weights with
        fetches := u.weights.fetches.filter (· ≠ f)
        shards := u.weights.shards ++ [⟨f.shard, f.core, f.area, r.digest, u.time⟩] } } : State).fetchEnd f.why f.core).pumpFetches).withQueueOf s)) ∧
    (bs.length ≠ r.size ∨ digestOf bs ≠ r.digest →
      exec (.shardArrival rec k bs) s = .next ((t.attemptFails f second State.loadFails).withQueueOf s))) ∧
  (∀ (s : State) (rec : Nat) (k : Site) (h : HeldShard) (r : ShardRec), k.ok → s.tick.running = true →
    s.rationOk k.panel ratScrub = true →
    s.weights.shards.find? (fun h => h.shard == rec && h.core == k && s.scrubbed h) = some h → s.recOfHeld h = some r →
    let words := ceilDiv r.stored 128
    let t := (s.charge k.panel ratScrub (min words ((s.rationLeft k.panel ratScrub).getD words))).mapPanel k.panel fun x =>
      { x with scrubDone := x.scrubDone ++ [(rec, k)] }
    (digestOf ((s.core k).carried r h.area) = h.digest →
      exec (.scrubShardHashed rec k) s = .next ((({ t with weights := { t.weights with shards := t.weights.shards.map fun y =>
        if y = h then { y with clean := t.time } else y } } : State).scrubPass k.panel).withQueueOf s)) ∧
    (digestOf ((s.core k).carried r h.area) ≠ h.digest →
      exec (.scrubShardHashed rec k) s = .next ((((({ t with weights := { t.weights with
        repairs := if (rec, k) ∈ t.weights.repairs then t.weights.repairs else t.weights.repairs ++ [(rec, k)] } } : State).raise
          { code := 0x0602, cls := .corrected, kind := 0, loc := s.coreLoc k, arg0 := rec, arg1 := h.clean }).observe k false 3).scrubPass
            k.panel).withQueueOf s))))

/-! ### The host port (R322, R326, R331, R333, R334, R336, R337, R348, R549) -/

/-- REQUEST and CONTINUE fetch the descriptor at a submission ring's head, if it is theirs and may be fetched: a good one is
queued, a refused one gets its DONE record. -/
def Obligations.Submissions : Prop :=
  ∀ (s : State) (f ring : Nat), fnOk f → subRingOk ring →
    let r := (s.fn f).ring ring
    let d := s.ringEntry r r.own
    let t := s.mapRing f ring fun r => { r with own := (r.own + 1) % 2 ^ 32 }
    (∀ i, (i = .request f ring ∧ s.headKind f ring ≠ 2) ∨ (i = .continue_ f ring ∧ s.headKind f ring = 2) →
      (s.mayFetch f ring = true →
        (∀ e, t.readRequest f ring r.own d = .error e → exec i s = .next ((({ t with serve := { t.serve with
          ended := t.serve.ended ++ [(f, ring, r.own)] } } : State).addRec f
            ⟨4, 0x300 + e, ring, r.own, none, fieldAt d 0x38 8, none, 0, 0⟩).withQueueOf s)) ∧
        (∀ q, t.readRequest f ring r.own d = .ok q →
          let u := t.dmaCharge (servePanel t.leadCanopy) f (4 * q.prompt.length + 64 + 8 * q.samp.bias.length)
          exec i s = .next (({ u with serve := { u.serve with queued := u.serve.queued ++ [q] } } : State).withQueueOf s))) ∧
      (s.mayFetch f ring = false → exec i s = .next s)) ∧
    (s.headKind f ring = 2 → exec (.request f ring) s = .next s) ∧ (s.headKind f ring ≠ 2 → exec (.continue_ f ring) s = .next s)

/-- A snoop leaves a held doorbell line invalid and has it read again; one that comes while it is being read has it read
once more after. A completed read holds the line, and the engine compares its words with what it saw last; a poll does
so for each function with an enabled ring whose interval has passed. A message waiting for its moderation interval
goes when it may. What a doorbell line's index does: a wrong one stops its ring, with the function's flag set and
RING_INDEX reported; a right one is taken as seen; a disabled or stopped ring ignores it. -/
def Obligations.Doorbells : Prop :=
  (
  ∀ (s : State) (f : Nat), fnOk f →
    (exec (.doorbellSnoop f) s = .next ((s.mapFn f fun x => { x with
      readAgain := x.readAgain || x.readOut, lineHeld := x.lineHeld && x.readOut, readOut := x.readOut || x.lineHeld }).withQueueOf s)) ∧
    (s.linkUp = true → (s.fn f).readOut = true → exec (.doorbellRead f) s = .next (((s.mapFn f fun x => { x with
      lineHeld := true, readOut := x.readAgain, readAgain := false }).readLine f).withQueueOf s)) ∧
    (s.linkUp = false ∨ (s.fn f).readOut = false → exec (.doorbellRead f) s = .next s) ∧
    (s.linkUp = true → s.cacheUsed = false → exec .doorbellPoll s = .next (((s.fns.map (·.1)).foldl (fun (s : State) g =>
      let p := servePanel s.leadCanopy
      if (s.fn g).anyRing = true ∧ (s.fn g).polled + s.regs.poll * 1000 ≤ s.time ∧ s.dmaOk p g = true then ((s.dmaCharge p g 64).mapFn g fun x => { x with polled := s.time }).readLine g else s) s).withQueueOf s)) ∧
    (s.linkUp = false ∨ s.cacheUsed = true → exec .doorbellPoll s = .next s) ∧
    (∀ vec, let v := getK (s.fn f).vectors vec {}
      exec (.msixModeration f vec) s = .next ((if v.waiting then s.sendMsi f vec false else s).withQueueOf s) ∧
      (v.waiting = true → v.masked = false → vectorFree s f v = true → s.linkUp = true →
        (s.sendMsi f vec false).msiOut = s.msiOut ++ [(f, vec)] ∧
        getK ((s.sendMsi f vec false).fn f).vectors vec {} = { v with last := some s.time, waiting := false, sentTick := s.tickNow }))) ∧
  (
  ∀ (s : State) (f i idx : Nat), i < 7 →
    let r := (s.fn f).ring i
    let ahead := (2 ^ 32 - r.own + idx) % 2 ^ 32
    let wrong := if i < 5 then r.size < ahead ∨ ahead < r.waiting else r.size < (2 ^ 32 - idx + r.own) % 2 ^ 32
    (r.en = false ∨ r.stopped = true ∨ idx = r.seen → s.seeIndex f i idx = s) ∧
    (r.en = true → r.stopped = false → idx ≠ r.seen → wrong →
      let t := (s.mapRing f i fun r => { r with stopped := true }).fnSticky f 0b001#3 s.errors.nextSeq
      s.seeIndex f i idx = t.raise { code := 0x0502, cls := .contained, kind := 6, loc := hostLoc, func := some f, arg0 := i, arg1 := idx } ∧
      (t.fn f).ring i = { r with stopped := true }) ∧
    (r.en = true → r.stopped = false → idx ≠ r.seen → ¬wrong →
      let t := s.mapRing f i fun r => { r with seen := idx }
      s.seeIndex f i idx = t.gainRoom f i ∧ (t.fn f).ring i = { r with seen := idx } ∧
      (∀ j < 7, j ≠ i → (t.fn f).ring j = (s.fn f).ring j) ∧ ∀ g, g ≠ f → t.fn g = s.fn g))

/-- When the link leaves L0 every doorbell line is given up and HOST_LINK_DOWN reported; when it comes back the held
writes go out in their order and the lines are watched again. HOST_PERST_N held for 1 µs does as the link's loss and a
reset of the physical function; a shorter pulse does nothing. A function-level reset of a virtual function takes its
rings, quotas and ceilings to their reset values, drops its requests, its zips and its records that wait, and has its
sequences end without a record; other functions are as before. That of the physical function resets every function and
abandons a pending load; a package, if one is loaded, is unloaded. -/
def Obligations.HostResets : Prop :=
  (
  ∀ (s : State),
    (s.linkUp = true → exec .hostLinkDown s = .next ((((s.fns.map (·.1)).foldl (fun (s : State) f => s.mapFn f fun x =>
      { x with lineHeld := false, readOut := false, readAgain := false }) { s with linkUp := false }).raise
        { code := 0x0501, cls := .degraded, kind := 6, loc := hostLoc, arg0 := if s.power.state = .bivouac then 1 else s.linkWidth }).withQueueOf s)) ∧
    (s.linkUp = false → exec .hostLinkDown s = .next s) ∧
    (s.linkUp = false → s.perstLow = false →
      let t : State := { s with
        linkUp := true, heldWrites := [], linkWidth := if Config.linkWide s.free then 16 else 8
        regs := { s.regs with cacheNeg := Config.cacheNegotiated s.free }, free := s.free + 1 }
      let u := s.heldWrites.foldl (fun (s : State) w => match w.vec with
        | some v => { s with msiOut := s.msiOut ++ [(w.func, v)] }
        | none => { s with hostMem := Mem.write s.hostMem w.addr w.bytes }) t
      exec .hostLinkUp s = .next (((u.fns.map (·.1)).foldl (fun (s : State) f => s.watchLine f) u).withQueueOf s)) ∧
    (s.linkUp = true ∨ s.perstLow = true → exec .hostLinkUp s = .next s) ∧
    (∀ ns, exec (.hostPerstN false ns) s = .next { s with perstLow := false }) ∧
    (∀ ns, ns < 1000 → exec (.hostPerstN true ns) s = .next s) ∧
    (∀ ns, 1000 ≤ ns → exec (.hostPerstN true ns) s = .next (((({ s with perstLow := true } : State).hostDown).resetPf).withQueueOf s))) ∧
  (
  ∀ (s : State) (f : Nat), fnOk f →
    (f ≠ 0 → exec (.functionLevelReset f) s = .next ((s.resetFn f).withQueueOf s)) ∧
    (let t := s.resetFn f;
      (t.fn f).rings = (fnReset f).rings ∧ (t.fn f).seqQuota = (fnReset f).seqQuota ∧ (t.fn f).kvQuota = (fnReset f).kvQuota ∧
      (t.fn f).ceil = (fnReset f).ceil ∧ (t.fn f).autos = (fnReset f).autos ∧ (t.fn f).lineHeld = false ∧
      t.serve.queued = s.serve.queued.filter (fun r => r.func ≠ f) ∧ t.serve.recs = s.serve.recs.filter (fun r => r.1 ≠ f) ∧
      t.zips = s.zips.filter (fun z => z.owner.fn ≠ some f) ∧
      (∀ x ∈ t.serve.seqs, x.req.func = f → x.silent = true) ∧ (∀ g, g ≠ f → t.fn g = s.fn g) ∧ t.hostMem = s.hostMem) ∧
    (let u := (0 :: s.fns.map (·.1)).eraseDups.foldl (fun (s : State) g => s.resetFn g) s
      let v : State := { u with loadPending := none, regs := { u.regs with
        halves := [], groupIn := if u.loaded.isSome then u.regs.groupIn else none } }
      let w : State := { v with unloading := some none };
      (s.loaded = none → exec (.functionLevelReset 0) s = .next (v.withQueueOf s)) ∧
      (s.loaded ≠ none → s.tick.running = true → s.errors.fatal = false → exec (.functionLevelReset 0) s = .next (w.withQueueOf s)) ∧
      (s.loaded ≠ none → (s.tick.running = false ∨ s.errors.fatal = true) →
        exec (.functionLevelReset 0) s = .next ((w.unloadNow none).withQueueOf s))))

/-! ### Guy links (R230 to R232, R377 to R401, R469) -/

/-- What a guy link takes: while it is down nothing; a frame that fails its CRC is counted and, if not a LINK frame, answered
with one NAK; a LINK frame's header counts at once; a sequenced frame is taken in order and within the credits granted, one
out of order brings a NAK or an ACK, one beyond its credits a full training. -/
def Obligations.FrameAcceptance : Prop :=
  ∀ (s : State) (l : Nat) (f : Frame), linkOk l →
    let g := s.guy l
    let t := s.rxHeader l f
    let i := fType f - 1
    let n := fNb f + payBlocks (fType f) (fTag f) (fNb f)
    let ahead := (fSeq f + 4096 - g.expect) % 4096
    (g.up = false → s.rxFrame l f = (s, false)) ∧
    (g.up = true → crcOk f = false →
      let u := s.mapGuy l fun g => g.count 2 1
      s.rxFrame l f = (if fType f = 4 then u else u.mapGuy l fun g => g.nakOnce s.time, false)) ∧
    (g.up = true → crcOk f = true → headerOk f = false → s.rxFrame l f = (s, false)) ∧
    (g.up = true → crcOk f = true → headerOk f = true →
      (fType f = 4 → s.rxFrame l f = (t, true)) ∧
      (fType f ≠ 4 → ahead = 0 → n ≤ (t.guy l).granted.toList.getD i 0 → s.rxFrame l f = (t.mapGuy l fun h => { h with
        expect := (h.expect + 1) % 4096, owesAck := true, nakSent := false
        granted := h.granted.setIfInBounds i (h.granted.toList.getD i 0 - n)
        freed := h.freed.setIfInBounds i (h.freed.toList.getD i 0 + n) }, true)) ∧
      (fType f ≠ 4 → ahead = 0 → (t.guy l).granted.toList.getD i 0 < n →
        s.rxFrame l f = (((t.mapGuy l fun g => g.count 9 1).raise
          { code := 0x0701, cls := .degraded, kind := 5, loc := guyLoc l, arg0 := l + i * 2 ^ 8, arg1 := (t.guy l).partner }).fullTraining l, false)) ∧
      (fType f ≠ 4 → ahead ≠ 0 → ahead < 2048 → s.rxFrame l f = (t.mapGuy l fun g => g.nakOnce t.time, false)) ∧
      (fType f ≠ 4 → 2048 ≤ ahead → s.rxFrame l f = (t.mapGuy l fun g => { g with owesAck := true }, false))) ∧
    (crcOk f = false ∨ (fType f ≠ 4 ∧ fSeq f ≠ g.expect) → exec (.frameCrcError l f) s = .next ((s.rxFrame l f).1.withQueueOf s)) ∧
    (crcOk f = true → (fType f = 4 ∨ fSeq f = g.expect) → exec (.frameCrcError l f) s = .next s) ∧
    (∀ why, exec (.uncorrectableCodeword l why) s = .next ((if why = .uncorrectable then s.mapGuy l fun g => g.count 1 1 else s).withQueueOf s))

/-- A frame of another type or kind than a command's does nothing there, one not taken does only what the link does with
it, and one taken does what its type says: a STAGE frame's flits enter at the router at index 6 of the gateway on the
tree CHAN names, a request joins the link's answers, NOT_HELD is a failed attempt, GROUP, BIVOUAC, WAKE and LOSS go to
the group. A tick or held marker of a group link: its tick counts as seen, one from beyond the next tick places hold
6, TICK_MARKER_ORDER reported; of the tick in progress or the next it is kept once. Timers: the unacknowledged marker
again after 2 µs; a HELD marker each 1 ms while a hold is in force; hold 6 when neither marker came within 5 ms of the
barrier deadline. -/
def Obligations.GuyLinkFrames : Prop :=
  (
  ∀ (s : State) (l : Nat) (f : Frame), linkOk l →
    let b := (f.blocks.head?.getD 0).toNat
    let kinds : List (Instr × Nat × Bool) := [(.stageFrame l f, 1, true), (.guyAckFrame l f, 4, fNb f == 0),
      (.shardRequest l f, 3, b % 256 == 1), (.notHeld l f, 3, b % 256 == 3), (.tickMarker l f, 4, fNb f == 1 && b % 256 == 1),
      (.heldMarker l f, 4, fNb f == 1 && b % 256 == 2), (.group l f, 2, b % 256 == 1), (.bivouac l f, 2, b % 256 == 2),
      (.wake l f, 2, b % 256 == 3), (.loss l f, 2, b % 256 == 4)]
    (∀ x ∈ kinds, (fType f ≠ x.2.1 ∨ x.2.2 = false) → exec x.1 s = .next s) ∧
    (∀ x ∈ kinds, fType f = x.2.1 → x.2.2 = true → (s.rxFrame l f).2 = false → exec x.1 s = .next ((s.rxFrame l f).1.withQueueOf s)) ∧
    (∀ frs, exec (.shardData l frs) s = .next ((frs.foldl (fun (s : State) f => if fType f = 3 then
      (if (s.rxFrame l f).2 = true then (s.rxFrame l f).1.takeData l f else (s.rxFrame l f).1) else s) s).withQueueOf s)) ∧
    (∀ t, s.rxFrame l f = (t, true) →
      let k := gateRouter l 6
      let pay := fun i => if fTag f = 0 then 0 else bitsOf ((f.blocks.getD (fNb f + i / 16) 0).toNat / 2 ^ (32 * (i % 16))) 31 0
      (fType f = 1 → exec (.stageFrame l f) s = .next (((List.range (fNb f)).foldl (fun (s : State) i => s.inject k
        { data := f.blocks.getD i 0, poisoned := false
          side := sideBits 1 0 (siteCanopy k) (siteG k) (siteH k) (fChan f) 0 (i + 1 == fNb f) (pay i) }) t).withQueueOf s)) ∧
      (fType f = 4 → fNb f = 0 → exec (.guyAckFrame l f) s = .next (t.withQueueOf s)) ∧
      (fType f = 3 → b % 256 = 1 → exec (.shardRequest l f) s = .next ((t.takeRequest l (fChan f) (BitVec.ofNat 256 (bitsOf b 319 64))).withQueueOf s)) ∧
      (fType f = 3 → b % 256 = 3 → ∀ q, (t.guy l).requests.find? (fun r => r.chan == fChan f) = some q → exec (.notHeld l f) s =
        .next ((((t.mapGuy l fun g => { g with requests := g.requests.filter fun r => r.chan ≠ fChan f }).failDigest l q.digest).settleRelays).withQueueOf s)) ∧
      (fType f = 2 → b % 256 = 1 → exec (.group l f) s = .next (((t.mapGuy l fun g => { g with
        groupSeen := some (bitsOf b 63 32, bitsOf b 95 64, bitsOf b 159 96, BitVec.ofNat 256 (bitsOf b 415 160)) }).settleChain).withQueueOf s)) ∧
      (fType f = 2 → b % 256 = 2 → t.chained = true → bitsOf b 191 160 = t.gid → (t.power.state = .running ∨ t.power.state = .entering) →
        (∀ u, t.power.groupStop = some u → u < bitsOf b 95 32) → exec (.bivouac l f) s = .next ((({ t with power := { t.power with
          state := .entering, groupStop := some (bitsOf b 95 32) } } : State).sendPower 2 0 (bitsOf b 95 32) fun i => i != l).withQueueOf s)) ∧
      (fType f = 2 → b % 256 = 3 → t.chained = true → bitsOf b 191 160 = t.gid → t.mayWake = true →
        exec (.wake l f) s = .next (((t.sendPower 3 (bitsOf b 8 8) (bitsOf b 95 32) fun i => i != l).wakeNow (bitOf b 8)).withQueueOf s)) ∧
      (fType f = 2 → b % 256 = 4 → t.chained = true → (∀ x ∈ t.errors.cohortsLost, x.1 ≠ bitsOf b 127 64) →
        exec (.loss l f) s = .next (({ t with errors := { t.errors with
          cohortsLost := t.errors.cohortsLost ++ [(bitsOf b 127 64, 0xFFFFFFFF, 0, guyLoc l, 1)] } } : State).withQueueOf s)))) ∧
  (
  (∀ (s : State) (l : Nat) (f : Frame) (t : State), linkOk l → s.rxFrame l f = (t, true) → fType f = 4 → fNb f = 1 →
    let b := (f.blocks.head?.getD 0).toNat
    let at_ := signed64 (bitsOf b 95 32)
    let u := t.mapGuy l fun g => { g with
      highest := if signed64 g.highest < at_ then bitsOf b 95 32 else g.highest
      partnerAck := if signed64 g.partnerAck < signed64 (bitsOf b 159 96) then bitsOf b 159 96 else g.partnerAck }
    let cur := u.markerTick
    let v := u.markerBack l
    ∀ i held, (i = .tickMarker l f ∧ b % 256 = 1 ∧ held = false) ∨ (i = .heldMarker l f ∧ b % 256 = 2 ∧ held = true) →
    (u.chained = false ∨ u.groupLinks.contains l = false → exec i s = .next (u.withQueueOf s)) ∧
    (u.chained = true → u.groupLinks.contains l = true →
      (cur + 1 < at_ → exec i s = .next ((({ u.placeHold 6 with tick := { (u.placeHold 6).tick with badMarker := true } } : State).raise
          { code := 0x0304, cls := .contained, kind := 5, loc := guyLoc l, arg0 := l, arg1 := bitsOf b 95 32, arg2 := (u.guy l).partner }).withQueueOf s)) ∧
      (at_ ≤ cur + 1 → held = true →
        exec i s = .next (({ v with tick := { v.tick with heldSeen := putK v.tick.heldSeen l v.time } } : State).withQueueOf s)) ∧
      (at_ = cur → held = false → (∀ m ∈ v.tick.markers, m.1 ≠ l) →
        exec i s = .next (({ v with tick := { v.tick with markers := v.tick.markers ++ [(l, v.time)] } } : State).withQueueOf s)) ∧
      (at_ = cur + 1 → held = false → l ∉ v.tick.early →
        exec i s = .next (({ v with tick := { v.tick with early := v.tick.early ++ [l] } } : State).withQueueOf s)) ∧
      (at_ < cur → held = false → exec i s = .next (v.withQueueOf s)))) ∧
  (∀ (s : State) (l : Nat), linkOk l → ∀ m h t, (s.guy l).marker = some (m, h, t) →
    ((s.guy l).up = true → (s.guy l).markerAt + 2000 ≤ s.time → signed64 (s.guy l).partnerAck < signed64 t →
      exec (.markerRepeat l) s = .next (((s.sendMarker l m h t).mapGuy l fun g => g.count 10 1).withQueueOf s)) ∧
    ((s.guy l).up = false ∨ s.time < (s.guy l).markerAt + 2000 ∨ signed64 t ≤ signed64 (s.guy l).partnerAck →
      exec (.markerRepeat l) s = .next s)) ∧
  (∀ (s : State), (s.chained = false ∨ s.tick.running = false → exec .heldMarkerTimer s = .next s) ∧
    (s.chained = true → s.tick.running = true → exec .heldMarkerTimer s = .next ((s.groupLinks.foldl (fun (u : State) l =>
      let held := ((u.guy l).marker.any fun x => x.1 == 2) = true
      match u.holds with
      | h :: _ => if held ∧ u.time < (u.guy l).markerAt + 1000000 then u else u.sendMarker l 2 h.reason u.tick.n
      | [] => if held ∧ u.allDone = true then u.sendMarker l 1 0 u.tick.n else u) s).withQueueOf s))) ∧
  (∀ (s : State) (l : Nat), linkOk l →
    (s.chained = true → s.tick.running = true → s.groupLinks.contains l = true → (∀ m ∈ s.tick.markers, m.1 ≠ l) →
      (∀ m ∈ s.tick.heldSeen, m.1 ≠ l) → (s.guy l).lostMarker = false → s.deadlineAt + 5000000 ≤ s.time →
      exec (.tickMarkerTimeout l) s = .next ((((s.mapGuy l fun g => { g with lostMarker := true }).placeHold 6).raise
          { code := 0x0303, cls := .contained, kind := 5, loc := guyLoc l, arg0 := l, arg1 := (s.guy l).partner }).withQueueOf s)) ∧
    (s.chained = false ∨ s.tick.running = false ∨ (∃ m ∈ s.tick.markers, m.1 = l) ∨ (∃ m ∈ s.tick.heldSeen, m.1 = l) ∨
      (s.guy l).lostMarker = true ∨ s.time < s.deadlineAt + 5000000 → exec (.tickMarkerTimeout l) s = .next s)))

/-- Frames outstanding for 4 µs without an ACK are sent again from the first; an ACK owed for 1 µs goes alone. A HELLO is taken
by a link in training. An unsound lane among the lower four takes the link down, one among the upper four to four lanes. -/
def Obligations.GuyTraining : Prop :=
  ∀ (s : State) (l : Nat), linkOk l →
    let g := s.guy l
    (g.up = true → g.retry ≠ [] → g.lastAckAt + 4000 ≤ s.time → exec (.guyAckTimeout l) s =
      .next (((s.mapGuy l fun g => { g with rewind := some 0, lastAckAt := s.time }).resend l).withQueueOf s)) ∧
    (g.up = false ∨ g.retry = [] ∨ s.time < g.lastAckAt + 4000 → exec (.guyAckTimeout l) s = .next s) ∧
    (g.owesAck = true → g.lastTxAt + 1000 ≤ s.time → exec (.ackIdleTimer l) s =
      .next ((s.mapGuy l fun g => g.sendLink s.time false none).withQueueOf s)) ∧
    (g.owesAck = false ∨ s.time < g.lastTxAt + 1000 → exec (.ackIdleTimer l) s = .next s) ∧
    (∀ f, let b := (f.blocks.head?.getD 0).toNat
      (s.power.state ≠ .standby → g.training ≠ .none → fType f = 4 → fNb f = 1 → b % 256 = 3 → crcOk f = true → headerOk f = true →
        exec (.hello l f) s = .next ((s.takeHello l b).withQueueOf s)) ∧
      (s.power.state = .standby ∨ g.training = .none ∨ fType f ≠ 4 ∨ fNb f ≠ 1 ∨ b % 256 ≠ 3 ∨ crcOk f = false ∨ headerOk f = false →
        exec (.hello l f) s = .next s)) ∧
    (∀ mask : Byte, let ev : Nat → Ev := fun code =>
      { code := code, cls := .degraded, kind := 5, loc := guyLoc l, arg0 := l + mask.toNat * 2 ^ 8, arg1 := g.partner }
      ((g.width ≠ 0 ∨ g.training ≠ .none) → mask.toNat % 16 ≠ 0 → exec (.laneErrorRate l mask) s =
        .next ((((s.mapGuy l fun g => { g with width := 0, training := .none }).failRequests l).raise (ev 0x0703)).withQueueOf s)) ∧
      ((g.width ≠ 0 ∨ g.training ≠ .none) → mask ≠ 0 → mask.toNat % 16 = 0 → g.width ≠ 4 → exec (.laneErrorRate l mask) s =
        .next (((s.mapGuy l fun g => { (g.count 8 1).fast with width := 4 }).raise (ev 0x0702)).withQueueOf s)) ∧
      ((g.width = 0 ∧ g.training = .none) ∨ mask = 0 ∨ (g.width = 4 ∧ mask.toNat % 16 = 0) → exec (.laneErrorRate l mask) s = .next s)) ∧
    (g.up = true → exec (.laneAlignmentLoss l) s = .next ((s.mapGuy l Guy.fast).withQueueOf s)) ∧
    (g.up = false → exec (.laneAlignmentLoss l) s = .next s)

/-! ### Power (R406 to R437, R517, R523, R543, R553, R554) -/

/-- A droop on a running panel takes the clocks to three quarters, no lower than 475 MHz, counts the trip and sets STRETCH;
after 1 µs they rise a step each 100 ns up to the cap. A sense sample keeps the lowest reading and trims a mean error that has
lasted 100 µs; a bond point over 15 mV for 10 ms is reported once. -/
def Obligations.PanelSensors : Prop :=
  ∀ (s : State) (p : Nat), panelOk p →
    let x := s.panel p
    (∀ point depth, ((x.dom.get VLOG).on = true → 300 ≤ depth → point < 8 → exec (.droopTrip p point depth) s = .next (((s.setPanel p { x with
        clock := min x.clock (max 19 (x.clock * 3 / 4)), droopTrips := x.droopTrips + 1, riseAt := some (s.time + 1000) }).cause p 0).withQueueOf s)) ∧
      ((x.dom.get VLOG).on = false ∨ depth < 300 ∨ 8 ≤ point → exec (.droopTrip p point depth) s = .next s)) ∧
    (∀ t, x.riseAt = some t → t ≤ s.time → let c := min x.cap (x.clock + 1)
      exec (.droopRecovery p) s = .next (((s.setPanel p { x with
        clock := c, riseAt := if c < x.cap then some (s.time + 100) else none }).markStretch p).withQueueOf s)) ∧
    ((∀ t, x.riseAt = some t → s.time < t) → exec (.droopRecovery p) s = .next s) ∧
    (∀ d err vmin point, domOk d →
      let dm := x.dom.toList.getD d {}
      let low := match dm.vmin with
        | none => true
        | some (v, _, _) => decide (vmin < v)
      let kept := if low then { dm with vmin := some (vmin, s.time, point), vminSeq := nextSeqOf dm.vminSeq } else dm
      let put := fun since => s.setPanel p { x with dom := x.dom.setIfInBounds d { kept with errSince := since } }
      (dm.on = false → exec (.senseSample p d err vmin point) s = .next s) ∧
      (dm.on = true → -40 ≤ err → err ≤ 40 → exec (.senseSample p d err vmin point) s = .next ((put none).withQueueOf s)) ∧
      (dm.on = true → (err < -40 ∨ 40 < err) → ∀ h, h = decide (40 < err) →
        ((∀ t, dm.errSince ≠ some (h, t)) → exec (.senseSample p d err vmin point) s = .next ((put (some (h, s.time))).withQueueOf s)) ∧
        (∀ t, dm.errSince = some (h, t) → s.time < t + 100000 →
          exec (.senseSample p d err vmin point) s = .next ((put (some (h, t))).withQueueOf s)) ∧
        (∀ t, dm.errSince = some (h, t) → t + 100000 ≤ s.time → exec (.senseSample p d err vmin point) s =
          .next ((((put (some (h, s.time))).trim p d (if 40 < err then dm.setpoint - 1 else dm.setpoint + 1)).1).withQueueOf s)))) ∧
    (∀ d point excess us, domOk d → let dm := x.dom.toList.getD d {}
      (dm.on = true → x.riseAt = none → 150 < excess → 10000 ≤ us → point ∉ dm.bond →
        exec (.bondCheck p d point excess us) s = .next (((s.setPanel p { x with
          dom := x.dom.setIfInBounds d { dm with bond := dm.bond ++ [point] } }).raise { code := 0x0805, cls := .degraded, kind := 7
                                                                                         loc := panelIndexLoc p point
                                                                                         arg0 := d + point * 2 ^ 8, arg1 := excess }).withQueueOf s)) ∧
      (dm.on = false ∨ x.riseAt ≠ none ∨ (150 ≤ excess ∧ (excess = 150 ∨ us < 10000 ∨ point ∈ dm.bond)) →
        exec (.bondCheck p d point excess us) s = .next s))

/-- The supply ladder: a regulator cell that isolates itself stays off and its panel takes the step that its domain's failed
cells call for, once a soft start has ended; a failed converter is reported, CORRECTED up to two; a lug pair out of balance once
an hour. A sector over 800 A for 100 µs caps its panels. A switched-on panel is ready and its clocks follow their cap. -/
def Obligations.SupplyLadder : Prop :=
  ∀ (s : State),
    (∀ p d cell, panelOk p → domOk d → let x := s.panel p
      let dm := x.dom.toList.getD d {}
      let soft := s.power.pending.any fun y => y.1 == p
      let t := s.setPanel p { x with dom := x.dom.setIfInBounds d { dm with failed := dm.failed ++ [cell] } }
      (cell < (if d = 0 then 32 else 8) → cell ∉ dm.failed →
        (soft = true → exec (.regCellIsolation p d cell) s = .next ((t.mapPanel p fun x => { x with
          softCells := x.softCells ++ [(d, cell)] }).withQueueOf s)) ∧
        (soft = false → dm.on = true → exec (.regCellIsolation p d cell) s = .next ((t.ladder p d cell).withQueueOf s))) ∧
      ((if d = 0 then 32 else 8) ≤ cell ∨ cell ∈ dm.failed ∨ (dm.on = false ∧ soft = false) →
        exec (.regCellIsolation p d cell) s = .next s)) ∧
    (∀ p d cell, let n := (s.panel p).failedIn d
      ((s.panel p).wentDark = false → 0 < n →
        ((d = 0 ∧ 8 < n) ∨ (d ≠ 0 ∧ 3 ≤ n) → s.ladder p d cell = s.goDark p d) ∧
        (d = 0 → 5 ≤ n → n ≤ 8 → let cap := min 75 (max 19 (Config.regCap p n))
          s.ladder p d cell = ((s.mapPanel p fun x => { x with capReg := cap, pstate := .capped, ballast := 0 }).applyClock p).raise
            { code := 0x0802, cls := .degraded, kind := 7, loc := panelLoc p, count := n, arg0 := cap }) ∧
        ((d = 0 ∧ n < 5) ∨ (d ≠ 0 ∧ n < 3) → s.ladder p d cell = s.raise
          { code := 0x0801, cls := .corrected, kind := 7, loc := panelIndexLoc p cell, count := n, arg0 := d + cell * 2 ^ 8 }))) ∧
    (∀ conv, convOk conv → let t : State := { s with power := { s.power with convFailed := s.power.convFailed ++ [conv] } }
      let n := s.power.convFailed.length + 1
      (conv ∉ s.power.convFailed → s.power.state ≠ .standby → exec (.converterFailure conv) s = .next ((t.raise
        { code := 0x0804, cls := if n ≤ 2 then .corrected else .degraded, kind := 8, loc := moduleLoc, count := n, arg0 := conv }).withQueueOf s)) ∧
      (conv ∈ s.power.convFailed ∨ s.power.state = .standby → exec (.converterFailure conv) s = .next s)) ∧
    (∀ pair share amps ms, lugOk pair →
      (60 < share → 100 < amps → 1000 ≤ ms → exec (.lugImbalanceCheck pair share amps ms) s = .next ((s.raiseEvery (3600 * 1000000000) (0x080C, 0)
        { code := 0x080C, cls := .degraded, loc := moduleLoc, arg0 := pair, arg1 := share }).withQueueOf s)) ∧
      (share ≤ 60 ∨ amps ≤ 100 ∨ ms < 1000 → exec (.lugImbalanceCheck pair share amps ms) s = .next s)) ∧
    (∀ sector amps us, sectorOk sector →
      (800 < amps → 100 ≤ us → exec (.sectorLimitCheck sector amps us) s = .next ((({ s with power := { s.power with
        sectorCap := if sector ∈ s.power.sectorCap then s.power.sectorCap else s.power.sectorCap ++ [sector] } } : State).raiseEvery
          1000000000 (0x0807, sector) { code := 0x0807, cls := .note, loc := moduleLoc, arg0 := sector, arg1 := amps }).withQueueOf s)) ∧
      (amps ≤ 800 ∨ us < 100 → exec (.sectorLimitCheck sector amps us) s = .next s)) ∧
    (∀ p, panelOk p →
      (s.power.pending.find? (fun x => x.1 == p) = none → exec (.panelReady p) s = .next s) ∧
      (∀ q set, s.power.pending.find? (fun x => x.1 == p) = some (q, set) →
        let t := ({ s with power := { s.power with pending := s.power.pending.filter fun x => x ≠ (p, set) } } : State).mapPanel p fun x => x.switchOn p set
        let u := if s.tick.running then t.seamAlign p else t
        let v := (u.panel p).softCells.foldl (fun (s : State) c => s.ladder p c.1 c.2) (u.mapPanel p fun x => { x with softCells := [] })
        exec (.panelReady p) s = .next (((v.applyClock p).settleSwitch).withQueueOf s)))

/-- The governor: E follows the demand within the up and down rates, between floor and cap; the cap binds at once. With input
current or power out of bounds every clock falls to three quarters; otherwise clocks shed what exceeds E, ballast makes up what
falls short, and what waits to switch on or off goes as far as it may. -/
def Obligations.Governor : Prop :=
  ∀ (s : State) (g : GovSample),
    let cap := s.powerCap g.vin
    let t : State := { s with power := { s.power with pin := g.pin, vin := g.vin, iin := g.iin, sectors := g.sectors, cap := cap } }
    let e := s.power.e
    let r := t.nextE cap g.demand g.vin
    (r.1 ≤ cap * 1000 ∧ r.1 ≤ e + s.power.up ∧ (r.1 + s.power.dn < e → r.1 = cap * 1000) ∧
      (e ≤ g.demand * 1000 + s.power.dn → g.demand * 1000 ≤ e + s.power.up → g.demand ≤ cap →
        t.powerFloor ≤ g.demand → r.1 = g.demand * 1000 ∧ r.2 = 0)) ∧
    (s.powered = false → exec (.governorSample g) s = .next s) ∧
    (s.powered = true → s.power.state = .standby → exec (.governorSample g) s = .next (t.withQueueOf s)) ∧
    (s.powered = true → s.power.state ≠ .standby → (s.freeze.state = .frozen ∨ s.freeze.state = .dead) →
      exec (.governorSample g) s = .next (({ t with power := { t.power with e := min (cap * 1000) (g.pin * 1000), ballast := 0 } } : State).withQueueOf s)) ∧
    (s.powered = true → s.power.state ≠ .standby → s.freeze.state ≠ .frozen → s.freeze.state ≠ .dead →
      (31000 < g.pin ∨ 960 < g.iin → exec (.governorSample g) s =
        .next ((t.setGovCaps (s.panels.map fun e => (e.1, max 19 (e.2.cap * 3 / 4)))).withQueueOf s)) ∧
      (g.pin ≤ 31000 → g.iin ≤ 960 →
        let u : State := { t with power := { t.power with e := r.1, bind := r.2 } }
        let excess := max (g.demand - r.1 / 1000) (g.mean10ms - cap)
        let watts := if s.thermal.trip then 0 else r.1 / 1000 - g.demand
        let v := u.setGovCaps (if 0 < excess then shed excess (shedOrder g) else [])
        let w : State := { v with power := { v.power with ballast := watts } }
        let y := if w.calib.running.isSome then w else w.setBallast g watts
        exec (.governorSample g) s = .next (((((((y.checkFloor g watts r.2).sectorCaps g).startWake).admitSwitch g cap).switchOff
          g.demand).settleSwitch).withQueueOf s)))

/-- PWR_EN starts the wait for the start slot; in the slot pitching begins. PWR_EN released stops the module at the next
release; RESET_N resets it while low and pitches after. An input under 30 V for 1 ms or over 42 V for 100 µs is reported to
flash and takes everything else; POWER_ON ends the internal reset. BIVOUAC and WAKE commands act as PWR_CMD does. -/
def Obligations.StartAndReset : Prop :=
  ∀ (s : State),
    (s.power.pwrEn = false → exec .pwrEnAssert s = .next (({ s with power := { s.power with
      pwrEn := true, cycle := false, startAt := if s.mgmt.started then some (s.time + s.power.slot * 250 * 1000000) else none } } : State).withQueueOf s)) ∧
    (s.power.pwrEn = true → exec .pwrEnAssert s = .next s) ∧
    (∀ p t, s.power.startAt = some t → s.powered = true → s.power.pwrEn = true → s.power.state = .standby → s.resetLow = false →
      t ≤ s.time → exec (.startSlotOpen p) s = .next ((s.beginPitch p).withQueueOf s)) ∧
    (∀ p, (∀ t, s.power.startAt = some t → s.powered = false ∨ s.power.pwrEn = false ∨ s.power.state ≠ .standby ∨ s.resetLow = true ∨
      s.time < t) → exec (.startSlotOpen p) s = .next s) ∧
    (let t : State := { s with power := { s.power with pwrEn := false, startAt := none } }
      let u : State := { t with power := { t.power with state := .stopping, queue := [], pending := [], waited := 0, pitch := none, resetPitch := none } };
      (s.power.state = .standby → exec .pwrEnDeassert s = .next (t.withQueueOf s)) ∧
      (s.power.state ≠ .standby → (u.tick.running = false ∨ u.tickStuck = false) → exec .pwrEnDeassert s = .next (u.withQueueOf s)) ∧
      (s.power.state ≠ .standby → u.tick.running = true → u.tickStuck = true → exec .pwrEnDeassert s =
        .next (({ u with tick := { u.tick with running := false, stoppedAt := some u.tick.n } } : State).withQueueOf s))) ∧
    (∀ p, let low : State := { s with resetLow := true }
      let t := ({ s with resetLow := false, errors := { s.errors with nextSeq := 1 } } : State).zeroTime
      (s.power.pwrEn = true → exec (.resetN true p) s = .next ((low.startReset none).withQueueOf s)) ∧
      (s.power.pwrEn = false → exec (.resetN true p) s = .next (low.withQueueOf s)) ∧
      (s.resetLow = false → exec (.resetN false p) s = .next s) ∧
      (s.resetLow = true → t.time = 0 ∧ t.errors.nextSeq = 1 ∧
        ((s.power.pwrEn = false ∨ s.power.cycle = true) → exec (.resetN false p) s = .next (t.withQueueOf s)) ∧
        (s.power.pwrEn = true → s.power.cycle = false → s.power.state = .standby → exec (.resetN false p) s = .next ((t.beginPitch p).withQueueOf s)) ∧
        (s.power.pwrEn = true → s.power.cycle = false → s.power.state ≠ .standby →
          exec (.resetN false p) s = .next (({ t with power := { t.power with resetPitch := some (p, false) } } : State).withQueueOf s)))) ∧
    (∀ vin us, (s.powered = true → vin < 3000 → 1000 ≤ us → exec (.inputUndervoltage vin us) s =
        .next ((((s.raise { code := 0x080A, cls := .fatal, loc := moduleLoc, arg0 := vin }).loseAll)).withQueueOf s)) ∧
      (s.powered = false ∨ 3000 ≤ vin ∨ us < 1000 → exec (.inputUndervoltage vin us) s = .next s) ∧
      (s.powered = true → 4200 < vin → 100 ≤ us → exec (.inputOvervoltage vin us) s =
        .next ((((s.raise { code := 0x080B, cls := .fatal, loc := moduleLoc, arg0 := vin }).loseAll)).withQueueOf s)) ∧
      (s.powered = false ∨ vin ≤ 4200 ∨ us < 100 → exec (.inputOvervoltage vin us) s = .next s)) ∧
    exec .powerOn s = .next (({ s.loseAll with powered := true, linkUp := true, errors := {}, resetLow := s.resetLow } : State).withQueueOf s) ∧
    (s.loseAll.flash = s.flash ∧ s.loseAll.cores = [] ∧ s.loseAll.loaded = none ∧ s.loseAll.time = 0) ∧
    exec (.bivouacEntry .register) s = .next ((s.powerCmd 1).2.withQueueOf s) ∧
    exec (.wakeImmediate .register) s = .next ((s.powerCmd 2).2.withQueueOf s) ∧
    exec (.wakeStaggered .register) s = .next ((s.powerCmd 3).2.withQueueOf s) ∧
    (s.power.state = .running → s.powerCmd 1 = (true, s.enterBivouac)) ∧
    (s.mayWake = true → s.powerCmd 2 = (true, s.wakeGroup false) ∧ s.powerCmd 3 = (true, s.wakeGroup true))

/-! ### Cooling, calibration and tests (R439 to R455, R484, R485, R493, R509, R514 to R516) -/

/-- A thermal sample keeps the readings; a sensor over 115 °C for 100 µs is reported to flash and takes the rest; otherwise the
three steps act on the forecasts, and one over 105 °C for 1 ms trips the clocks, until every reading has been below 90 °C for
100 ms. Step 1 and step 2 as their limits say. -/
def Obligations.ThermalLadder : Prop :=
  ∀ (s : State) (t : ThermSample),
    let a := t.sensors.foldl (fun (s : State) r => s.mapPanel r.1 fun x => { x with temps := putK x.temps r.2.1 r.2.2 }) s
    let b : State := { a with
      thermal := { a.thermal with hot := min (t.forecasts.foldl (fun m f => max m (f.2 / 4).toNat) 0) 255 }
      panels := a.panels.map fun e => (e.1, { e.2 with
        overSince := aboveSince a.time e.2.overSince ((e.2.live.filter fun r => 460 < r.2).map (·.1))
        tripSince := aboveSince a.time e.2.tripSince ((e.2.live.filter fun r => 420 < r.2).map (·.1)) }) }
    let burn := b.panels.flatMap fun e => (e.2.overSince.filter fun r => decide (r.2 + 100000 ≤ b.time)).map fun r => (e.1, r.1)
    let c := ((t.forecasts.foldl (fun (s : State) f => s.step2 f.1 f.2) (b.step1 t.forecasts t.power)).step3 t.forecasts).step3Idle
    let long := c.panels.flatMap fun e => (e.2.tripSince.filter fun r => decide (r.2 + 1000000 ≤ c.time)).map fun r => (e.1, r.1)
    let cold := ∀ e ∈ c.panels, ∀ r ∈ e.2.live, r.2 < 360
    (s.powered = false ∨ s.power.state = .standby → exec (.thermalSample t) s = .next s) ∧
    (s.powered = true → s.power.state ≠ .standby →
      (∀ p i r, burn = (p, i) :: r → exec (.thermalSample t) s = .next (((b.raise { code := 0x0908, cls := .fatal, kind := 9
                                                                                    loc := panelIndexLoc p i
                                                                                    arg0 := (getK (b.panel p).temps i 0).toNat }).loseAll).withQueueOf s)) ∧
      (burn = [] → c.thermal.trip = false → long = [] → exec (.thermalSample t) s = .next (c.withQueueOf s)) ∧
      (∀ p i r, burn = [] → c.thermal.trip = false → long = (p, i) :: r →
        exec (.thermalSample t) s = .next ((c.thermalTrip p i (getK (c.panel p).temps i 0) t.power).withQueueOf s)) ∧
      (burn = [] → c.thermal.trip = true → ¬cold →
        exec (.thermalSample t) s = .next (({ c with thermal := { c.thermal with tripClear := none } } : State).withQueueOf s)) ∧
      (burn = [] → c.thermal.trip = true → cold → let since := c.thermal.tripClear.getD c.time
        (since + 100000000 ≤ c.time → exec (.thermalSample t) s = .next (c.endTrip.withQueueOf s)) ∧
        (c.time < since + 100000000 → exec (.thermalSample t) s =
          .next (({ c with thermal := { c.thermal with tripClear := some since } } : State).withQueueOf s)))) ∧
    (∀ fs watts, (∃ f ∈ fs, 380 < f.2) → let k := min s.power.thermCeil watts - 250
      s.step1 fs watts = ({ s with power := { s.power with thermCeil := k }
                                   thermal := { s.thermal with step1 := true, step1Rise := s.time } } : State).raiseEvery
        60000000000 (0x0904, 0) { code := 0x0904, cls := .note, loc := moduleLoc, arg0 := k }) ∧
    (∀ p f, 400 < f → let k := max 19 ((s.panel p).capTherm - 1)
      let u := (s.setPanel p { s.panel p with capTherm := k }).applyClock p
      s.step2 p f = ({ u with thermal := { u.thermal with cool := delK u.thermal.cool p } } : State).raiseEvery
        60000000000 (0x0905, p) { code := 0x0905, cls := .note, kind := 2, loc := panelLoc p, arg0 := k, arg1 := f.toNat })

/-- A coolant report is answered by a status message, and a valid one taken; without one for 1 s COOLANT_DATA_LOST; a heat
balance off for ten samples is reported. The operator key is set once. -/
def Obligations.TrayMessages : Prop :=
  ∀ (s : State),
    (∀ (msg : BitVec 72) (pec : Bool), let m := msg.toNat
      let ok := s.reportOk m pec
      let t : State := { s with thermal := { s.thermal with coolSeq := if pec then some (bitsOf m 15 8) else s.thermal.coolSeq } }
      let u := if ok then t.takeCoolant (bitsOf m 31 16) (bitsOf m 47 32) (bitsOf m 63 48) else t
      (bitsOf m 7 0 ≠ 1 → exec (.coolantReport msg pec) s = .next s) ∧
      (bitsOf m 7 0 = 1 → exec (.coolantReport msg pec) s = .next (({ u with mgmt := { u.mgmt with
        tray := u.mgmt.tray ++ [u.trayStatus (bitsOf m 15 8) ok] } } : State).withQueueOf s)) ∧
      (ok = true ↔ pec = true ∧ bitsOf m 7 0 = 1 ∧ s.thermal.coolSeq ≠ some (bitsOf m 15 8) ∧ bitsOf m 66 64 = 7 ∧
        bitsOf m 31 16 < 1024 ∧ bitsOf m 47 32 < 1024 ∧ bitsOf m 63 48 < 1024 ∧ bitsOf m 71 67 = 0)) ∧
    (s.thermal.coolLost = false → s.thermal.coolAt + 1000000000 ≤ s.time → exec .coolantDataTimeout s =
      .next ((({ s with thermal := { s.thermal with coolLost := true, lowFlowSince := none } } : State).raise
        { code := 0x0901, cls := .degraded, loc := moduleLoc }).withQueueOf s)) ∧
    (s.thermal.coolLost = true ∨ s.time < s.thermal.coolAt + 1000000000 → exec .coolantDataTimeout s = .next s) ∧
    (∀ watts, (s.thermal.coolant = none ∨ s.thermal.coolLost = true → exec (.coolantBalanceCheck watts) s = .next s) ∧
      (∀ i o f, s.thermal.coolant = some (i, o, f) → s.thermal.coolLost = false →
        let heat := f * (o - i) * 4120 / 6000
        let n := if watts < 4 * (heat - watts) ∨ watts < 4 * (watts - heat) then s.thermal.balanceBad + 1 else 0
        let t : State := { s with thermal := { s.thermal with balanceBad := n } }
        exec (.coolantBalanceCheck watts) s = .next ((if 10 ≤ n then t.raiseEvery 3600000000000 (0x0903, 0)
          { code := 0x0903, cls := .note, loc := moduleLoc, arg0 := heat, arg1 := watts } else t).withQueueOf s))) ∧
    (∀ (msg : BitVec 272) (ok : Bool), let m := msg.toNat
      let tell := fun (t : State) (status : Nat) => ({ t with mgmt := { t.mgmt with tray := t.mgmt.tray ++ [BitVec.ofNat 64 (0x82 + status * 2 ^ 8)] } } : State)
      (bitsOf m 7 0 ≠ 2 → exec (.operatorKeySet msg ok) s = .next s) ∧
      (bitsOf m 7 0 = 2 → s.flash.opKey ≠ none → exec (.operatorKeySet msg ok) s = .next ((tell s 1).withQueueOf s)) ∧
      (bitsOf m 7 0 = 2 → s.flash.opKey = none → ok = true → s.mgmt.running = true → exec (.operatorKeySet msg ok) s =
        .next ((tell { s with flash := { s.flash with opKey := some (BitVec.ofNat 256 (bitsOf m 263 8)) } } 0).withQueueOf s)) ∧
      (bitsOf m 7 0 = 2 → s.flash.opKey = none → (ok = false ∨ s.mgmt.running = false) →
        exec (.operatorKeySet msg ok) s = .next ((tell s 2).withQueueOf s)))

/-- Drift of a canopy past the threshold makes a calibration due, CAL_DUE reported; 12 °C forces one. NOW schedules it; it starts
with the tick's work done, holding the module; its end applies its constants, or, REFV out of agreement, waits 60 s. -/
def Obligations.Calibration : Prop :=
  ∀ (s : State),
    (∀ temps, let t : State := { s with calib := { s.calib with temps := temps } }
      let d := t.calDrift
      let mask := (List.range 4).foldl (fun m c => m + if s.calib.thresh * 4 ≤ d.getD c 0 then 2 ^ c else 0) 0
      let u : State := { t with calib := { t.calib with dueMask := mask } }
      (s.calMay = false → exec (.calTriggerEval temps) s = .next (t.withQueueOf s)) ∧
      (s.calMay = true → s.calib.due = none → mask = 0 → exec (.calTriggerEval temps) s = .next (u.withQueueOf s)) ∧
      (s.calMay = true → s.calib.due = none → mask ≠ 0 →
        let w := ({ u with calib := { u.calib with due := some u.time, dueSeq := u.errors.nextSeq } } : State).raise
          { code := 0x090A, cls := .note, loc := moduleLoc, arg0 := mask }
        exec (.calTriggerEval temps) s = .next ((if s.calib.scheduled = true ∨ s.calib.running ≠ none ∨ s.time < s.calib.notBefore then w
          else if ∃ x ∈ d, 48 ≤ x then { w with calib := { w.calib with
            scheduled := true, forced := true, sticky := w.calib.sticky ||| 0b01#2, seq := w.calib.dueSeq } }
          else if s.loaded = none ∨ s.tick.stoppedAt ≠ none ∨ s.calib.defer = 0 then { w with calib := { w.calib with scheduled := true } }
          else w).withQueueOf s)) ∧
      (s.calMay = true → ∀ at_, s.calib.due = some at_ →
        ((s.calib.scheduled = true ∨ s.calib.running ≠ none ∨ s.time < s.calib.notBefore) →
          exec (.calTriggerEval temps) s = .next (u.withQueueOf s)) ∧
        (s.calib.scheduled = false → s.calib.running = none → s.calib.notBefore ≤ s.time →
          ((∃ x ∈ d, 48 ≤ x) → exec (.calTriggerEval temps) s = .next (({ u with calib := { u.calib with
            scheduled := true, forced := true, sticky := u.calib.sticky ||| 0b01#2, seq := u.calib.dueSeq } } : State).withQueueOf s)) ∧
          ((∀ x ∈ d, x < 48) → (s.loaded = none ∨ s.tick.stoppedAt ≠ none ∨ at_ + s.calib.defer * 1000000 ≤ s.time) →
            exec (.calTriggerEval temps) s = .next (({ u with calib := { u.calib with scheduled := true } } : State).withQueueOf s)) ∧
          ((∀ x ∈ d, x < 48) → s.loaded ≠ none → s.tick.stoppedAt = none → s.time < at_ + s.calib.defer * 1000000 →
            exec (.calTriggerEval temps) s = .next (u.withQueueOf s))))) ∧
    exec .calNow s = .next (({ s with calib := { s.calib with due := some (s.calib.due.getD s.time), scheduled := true } } : State).withQueueOf s) ∧
    (s.calReady = true → let t : State := { s with calib := { s.calib with running := some s.time, scheduled := false } }
      exec .calibrationStart s = .next ((if s.loaded.isSome then t.placeHold 1 else t).withQueueOf s)) ∧
    (s.calReady = false → exec .calibrationStart s = .next s) ∧
    (s.calReady = true ↔ s.calib.scheduled = true ∧ s.calib.running = none ∧ s.calMay = true ∧ s.calib.notBefore ≤ s.time ∧
      ∀ l, s.loaded = some l → s.tick.running = true → s.tick.start + l.t - 240 ≤ s.time ∧ s.allDone = true) ∧
    (∀ c, let t : State := { s with calib := { s.calib with running := none } }
      (s.calib.running = none → exec (.calDone c) s = .next s) ∧
      (s.calib.running ≠ none → refvOk c.refv = true → exec (.calDone c) s = .next ((((t.applyCal c).liftHold 1).retryTrims).withQueueOf s)) ∧
      (s.calib.running ≠ none → refvOk c.refv = false →
        let u : State := { t with calib := { t.calib with
          notBefore := t.time + 60000000000, forced := false, sticky := t.calib.sticky ||| 0b10#2, seq := t.errors.nextSeq } }
        let r := fun i => c.refv.getD i 0 % 65536
        exec (.calDone c) s = .next ((((u.raise { code := 0x090C, cls := .degraded, loc := moduleLoc
                                                  arg0 := r 0 + r 1 * 2 ^ 16 + r 2 * 2 ^ 32 + r 3 * 2 ^ 48 }).liftHold 1).retryTrims).withQueueOf s)))

/-- A neighbour test without testers waits and is reported after 60 s; one whose testers find the unit bad puts it under
observation; 24 hours without a trigger end an observation. DARN_OVR is kept for the release, or faults as a guarded write. -/
def Obligations.UnitTests : Prop :=
  ∀ (s : State) (k : Site) (router : Bool), k.ok →
    let ev : Nat → Ev := fun code => { code := code, cls := .note, kind := if router then 1 else 0, loc := if router then physLoc k else s.coreLoc k }
    (∀ testers votes, let bad := (testers.eraseDups.filter fun t => votes.any fun v => v.tester == t && v.unit == k && v.loopback == router).length
      (s.deadAt k = true → exec (.neighbourTest k router testers votes) s = .next s) ∧
      (s.deadAt k = false → testers = [] →
        (s.errors.testWaits.find? (fun w => w.1 = (k, router)) = none → exec (.neighbourTest k router testers votes) s =
          .next (({ s with errors := { s.errors with testWaits := s.errors.testWaits ++ [((k, router), s.time)] } } : State).withQueueOf s)) ∧
        (∀ w t, s.errors.testWaits.find? (fun w => w.1 = (k, router)) = some (w, t) →
          (s.time < t + 60000000000 → exec (.neighbourTest k router testers votes) s = .next s) ∧
          (t + 60000000000 ≤ s.time → exec (.neighbourTest k router testers votes) s = .next ((({ s with errors := { s.errors with
            testWaits := putK s.errors.testWaits (k, router) s.time } } : State).raise (ev 0x0A08)).withQueueOf s)))) ∧
      (s.deadAt k = false → testers ≠ [] →
        let t : State := { s with errors := { s.errors with testWaits := delK s.errors.testWaits (k, router) } }
        ((2 ≤ bad ∨ (testers.eraseDups.length < 2 ∧ 0 < bad)) →
          exec (.neighbourTest k router testers votes) s = .next (((t.observe k router 4).settleDying).withQueueOf s)) ∧
        (bad < 2 → (2 ≤ testers.eraseDups.length ∨ bad = 0) → exec (.neighbourTest k router testers votes) s = .next (t.withQueueOf s)))) ∧
    (∀ o, s.errors.observed.find? (fun o => o.unit = k ∧ o.isRouter = router) = some o →
      (o.since + 24 * 3600000000000 ≤ s.time → exec (.observationEnd k router) s = .next ((({ s with errors := { s.errors with
        observed := s.errors.observed.filter (· ≠ o) } } : State).raise (ev 0x0A06)).withQueueOf s)) ∧
      (s.time < o.since + 24 * 3600000000000 → exec (.observationEnd k router) s = .next s)) ∧
    (s.errors.observed.find? (fun o => o.unit = k ∧ o.isRouter = router) = none → exec (.observationEnd k router) s = .next s) ∧
    (∀ v : Word, (bitsOf v.toNat 6 3 ≤ 11 → bitsOf v.toNat 17 14 ≤ 11 → exec (.darnOvr v) s = .next
        (({ s with errors := { s.errors with darnOvr := v &&& 0x3FFFF#32 } } : State).withQueueOf s)) ∧
      (11 < bitsOf v.toNat 6 3 ∨ 11 < bitsOf v.toNat 17 14 → exec (.darnOvr v) s = .next ((s.guardFault (some 0) 0x4068).withQueueOf s)))

/-! ### Management and trust (R219, R228, R397, R494 to R524, R552) -/

/-- What Viumond takes as a request: a datagram of no open session, or whose tag fails, is dropped and counted; a repeat of the
last number gets its cached answer, and a lower one STALE. -/
def Obligations.ViumondRequests : Prop :=
  ∀ (s : State) (d : Datagram),
    let bit := (d.body.getD 0 0#8).getLsbD 0
    let cs : List (Instr × Nat × Bool) := [(.readReg d, 2, true), (.writeReg d, 3, true), (.readMem d, 4, true), (.events d, 5, true),
      (.holdPlace d, 8, !bit), (.holdLift d, 8, bit), (.freezeTickAligned d, 9, !bit), (.freezeImmediate d, 9, bit), (.resume d, 10, true),
      (.fwStage d, 13, true), (.fwActivate d, 14, true), (.quote d, 15, true), (.keyRotateGenerate d, 16, !bit),
      (.keyRotateConfirm d, 16, bit), (.collectors d, 17, true), (.trace d, 18, true), (.scan d, 19, true), (.opkey d, 20, true)]
    ∀ c ∈ cs,
    (c.2.2 = false ∨ s.powered = false ∨ s.mgmt.running = false ∨ datagramOk d = false ∨
      (typeKnown d.typ.toNat = true ∧ d.typ.toNat ≠ c.2.1) → exec c.1 s = .next s) ∧
    (c.2.2 = true → s.powered = true → s.mgmt.running = true → datagramOk d = true → d.typ.toNat = c.2.1 →
      let drop : State := { s with mgmt := { s.mgmt with tagFails := s.mgmt.tagFails + 1 } }
      (s.mgmt.sessions.find? (fun y => y.id == d.session) = none → exec c.1 s = .next (drop.withQueueOf s)) ∧
      (∀ x, s.mgmt.sessions.find? (fun y => y.id == d.session) = some x →
        let t := s.mapSession x.id fun y => { y with lastReq := s.mclock }
        (d.tag ≠ tagOf x.key d → exec c.1 s = .next (drop.withQueueOf s)) ∧
        (d.tag = tagOf x.key d → ∀ m, x.lastReqId = some m →
          (m = d.reqid.toNat → exec c.1 s = .next ((match x.cached with
            | some r => t.send r
            | none => t).withQueueOf s)) ∧
          (d.reqid.toNat < m → exec c.1 s = .next ((t.send (t.response d x.key 2 [])).withQueueOf s)))))

/-- The requests that read: registers, a core's stores under the management ration, the log, a trace ring and, frozen,
scan bits; WRITE_REG writes a register, a guarded one only with its complement. The requests that act on the run: the
operator's hold, freezes and their end, a reset, and power commands. -/
def Obligations.ViumondCommands : Prop :=
  (
  ∀ (s : State) (d : Datagram) (x : Session),
    let t := s.entered d x
    let v := leNat d.body
    (s.requestOf 2 d x → bodyOk d 10 [(0, 9), (32, 32), (64, 9)] = true →
      let f := bitsOf v 8 0
      let off := bitsOf v 63 32
      let n := bitsOf v 72 64
      let bad := off % 4 ≠ 0 ∨ n = 0 ∨ 256 < n ∨ (if f = 0 then 2 ^ 16 else 2 ^ 12) < off + 4 * n
      (bad → s.answers (.readReg d) d x t 4 []) ∧
      (¬bad → s.answers (.readReg d) d x (readWords f n off t).2 0 (readWords f n off t).1)) ∧
    (s.requestOf 3 d x → bodyOk d 16 [(0, 9), (32, 32), (64, 32), (96, 32)] = true →
      let f := bitsOf v 8 0
      let off := bitsOf v 63 32
      let w := BitVec.ofNat 32 (bitsOf v 95 64)
      let comp := BitVec.ofNat 32 (bitsOf v 127 96)
      (∀ a, f = 0 → gpOf off = some (a, false) → s.answers (.writeReg d) d x (t.viuPair a w comp).2 (if (t.viuPair a w comp).1 then 0 else 6) []) ∧
      (∀ a, f = 0 → gpOf off = some (a, true) → s.answers (.writeReg d) d x t 4 []) ∧
      ((f ≠ 0 ∨ gpOf off = none) → (comp ≠ 0 ∨ (if f = 0 then 2 ^ 16 else 2 ^ 12) ≤ off) → s.answers (.writeReg d) d x t 4 []) ∧
      ((f ≠ 0 ∨ gpOf off = none) → comp = 0 → off < (if f = 0 then 2 ^ 16 else 2 ^ 12) → s.answers (.writeReg d) d x (t.writeReg f off w) 0 [])) ∧
    (s.requestOf 4 d x → bodyOk d 18 [(0, 64), (64, 2), (96, 32), (128, 16)] = true →
      let loc := fieldAt d.body 0 8
      let n := fieldAt d.body 16 2
      let a := fieldAt d.body 12 4
      let bad := n = 0 ∨ 4000 < n ∨ storeSize (bitsOf (fieldAt d.body 8 1) 1 0) < a + n ∨ bitsOf loc 20 18 ≠ 3
      (t.siteOfLoc loc = none → s.answers (.readMem d) d x t 4 []) ∧
      (∀ k, t.siteOfLoc loc = some k → (bad → s.answers (.readMem d) d x t 4 []) ∧
        (¬bad → ((t.panel k.panel).dom.get VMEM).on = false → s.answers (.readMem d) d x t 5 []) ∧
        (¬bad → ((t.panel k.panel).dom.get VMEM).on = true → exec (.readMem d) s = .next ((({ t with mgmt := { t.mgmt with
          reads := t.mgmt.reads ++ [⟨x.id, d, k, ceilDiv n 64⟩] } } : State).serveReads).withQueueOf s)))) ∧
    (s.requestOf 5 d x → bodyOk d 3 [(0, 16), (16, 8)] = true →
      let n := bitsOf v 23 16
      let first := bitsOf v 15 0
      let es := (logFrom t.errors.log first).take n
      (n = 0 ∨ 60 < n → s.answers (.events d) d x t 4 []) ∧
      (0 < n → n ≤ 60 → s.answers (.events d) d x t 0 (eventsBody es (match es.getLast? with
        | some e => nextSeqOf e.seq
        | none => first)))) ∧
    (s.requestOf 18 d x → bodyOk d 8 [(0, 64)] = true →
      (∀ k, t.siteOfLoc (bitsOf v 63 0) = some k → bitsOf v 20 18 = 3 → s.answers (.trace d) d x t 0 (traceBody (t.core k))) ∧
      (t.siteOfLoc (bitsOf v 63 0) = none ∨ bitsOf v 20 18 ≠ 3 → s.answers (.trace d) d x t 4 [])) ∧
    (s.requestOf 19 d x → bodyOk d 18 [(0, 64), (64, 16), (96, 32), (128, 16)] = true →
      let n := bitsOf v 143 128
      let bit := fun i => Config.scanBit t.freeze.since (BitVec.ofNat 64 (bitsOf v 63 0)) (bitsOf v 79 64) (bitsOf v 127 96 + i)
      (n = 0 ∨ 32000 < n → s.answers (.scan d) d x t 4 []) ∧
      (0 < n → n ≤ 32000 → t.freeze.state ≠ .frozen → t.freeze.state ≠ .dead → s.answers (.scan d) d x t 5 []) ∧
      (0 < n → n ≤ 32000 → (t.freeze.state = .frozen ∨ t.freeze.state = .dead) → s.answers (.scan d) d x t 0
        (natLe 2 n ++ List.replicate 6 0#8 ++ natLe (ceilDiv n 8) (bitsNat ((List.range n).map bit)))))) ∧
  (
  ∀ (s : State) (d : Datagram) (x : Session),
    let t := s.entered d x
    let bit := (d.body.getD 0 0#8).getLsbD 0
    (s.requestOf 8 d x → bodyOk d 1 [(0, 1)] = true →
      (bit = false → t.loaded = none → s.answers (.holdPlace d) d x t 5 []) ∧
      (bit = false → t.loaded ≠ none → s.answers (.holdPlace d) d x
        (if t.held 7 then t else { t with mgmt := { t.mgmt with opHold := true } }) 0 []) ∧
      (bit = true → s.answers (.holdLift d) d x ((({ t with mgmt := { t.mgmt with opHold := false } } : State).liftHold 7).freezeSettle) 0 [])) ∧
    (s.requestOf 9 d x → bodyOk d 1 [(0, 1)] = true →
      ∀ c, (c = .freezeTickAligned d ∧ bit = false) ∨ (c = .freezeImmediate d ∧ bit = true) →
      ((t.power.state = .standby ∨ t.power.state = .pitching) → s.answers c d x
        { t with freeze := { t.freeze with waitPitch := some (bit || t.freeze.waitPitch == some true) } } 0 []) ∧
      (t.power.state ≠ .standby → t.power.state ≠ .pitching → s.answers c d x (t.requestFreeze .viumond bit) 0 [])) ∧
    (s.requestOf 10 d x → bodyOk d 0 [] = true →
      let u : State := { t with freeze := { t.freeze with sviu := false, sbrk := false, waitPitch := none } }
      (t.freeze.state = .dead ∨ (t.freeze.state = .frozen ∧ t.freeze.since + 100000000 < t.time) ∨
        (t.freeze.state = .running ∧ t.freeze.waitPitch = none) → s.answers (.resume d) d x t 5 []) ∧
      ((t.freeze.state = .frozen ∧ t.time ≤ t.freeze.since + 100000000) ∨ t.freeze.state = .pending →
        s.answers (.resume d) d x u.tryResume 0 []) ∧
      (t.freeze.state = .running → t.freeze.waitPitch ≠ none → s.answers (.resume d) d x u 0 [])) ∧
    (s.requestOf 11 d x → bodyOk d 0 [] = true → ∀ p, s.answers (.reset d p) d x (t.startReset (some (p, true))) 0 []) ∧
    (s.requestOf 12 d x → bodyOk d 1 [(0, 2)] = true → ∀ c n,
      (c = .bivouacEntry (.viumond d) ∧ n = 1) ∨ (c = .wakeImmediate (.viumond d) ∧ n = 2) ∨ (c = .wakeStaggered (.viumond d) ∧ n = 3) →
      ((d.body.getD 0 0#8).toNat % 4 = n → s.answers c d x (t.powerCmd n).2 (if (t.powerCmd n).1 then 0 else 5) []) ∧
      ((d.body.getD 0 0#8).toNat % 4 ≠ n → exec c s = .next s)))

/-- The requests of trust: a quote signed with the next index, a successor key, the operator key, the collectors, and a
firmware image staged to the slot that does not run and activated on trial. -/
def Obligations.ViumondTrust : Prop :=
  ∀ (s : State) (d : Datagram) (x : Session),
    let t := s.entered d x
    let v := leNat d.body
    let bit := (d.body.getD 0 0#8).getLsbD 0
    (s.requestOf 15 d x → bodyOk d 32 [(0, 256)] = true →
      (t.signNext false = none → s.answers (.quote d) d x t 5 []) ∧
      (∀ q u, t.signNext false = some (q, u) → let ev := d.body.take 32 ++ u.attest q ++ List.replicate 64 0#8
        s.answers (.quote d) d x u 0 (ev ++ u.sign q ev))) ∧
    (s.requestOf 16 d x → bodyOk d 1 [(0, 1)] = true →
      (bit = false → t.signNext true = none → s.answers (.keyRotateGenerate d) d x t 5 []) ∧
      (bit = false → ∀ q u, t.signNext true = some (q, u) →
        let pub := natLe 56 (Config.lmsPublic u.free).toNat
        s.answers (.keyRotateGenerate d) d x { u with mgmt := { u.mgmt with successor := some (u.free + 1, Config.lmsPublic u.free) }
                                                      free := u.free + 1 } 0 (pub ++ u.sign q pub)) ∧
      (bit = true → t.mgmt.successor = none → s.answers (.keyRotateConfirm d) d x t 5 []) ∧
      (bit = true → ∀ k p, t.mgmt.successor = some (k, p) → s.answers (.keyRotateConfirm d) d x { t with
        flash := { t.flash with keyId := k, keyIndex := 0, reservation := 0 }, mgmt := { t.mgmt with successor := none } } 0 [])) ∧
    (s.requestOf 20 d x → bodyOk d 32 [(0, 256)] = true →
      s.answers (.opkey d) d x { t with flash := { t.flash with opKey := some (BitVec.ofNat 256 v) } } 0 []) ∧
    (s.requestOf 17 d x → bodyOk d (collectorsLeast v) (collectorsLayout v) = true →
      (4 < v % 8 → s.answers (.collectors d) d x t 4 []) ∧
      (v % 8 ≤ 4 → s.answers (.collectors d) d x (({ t with flash := { t.flash with
        collectors := (List.range (v % 8)).map (collectorAt d.body), classMask := BitVec.ofNat 8 (bitsOf v 15 8) } } : State).openCollectors) 0 [])) ∧
    (s.requestOf 13 d x → bodyOk d (fwStageLeast v) (fwStageLayout v) = true →
      let off := bitsOf v 31 0
      let total := bitsOf v 63 32
      let chunk := bytesAt d.body 16 (bitsOf v 79 64)
      let bad := chunk.length = 0 ∨ 4000 < chunk.length ∨ total = 0 ∨ 48 * 2 ^ 20 < total ∨ total < off + chunk.length
      let old := t.slotOf !t.mgmt.runningB
      let base := if old.factory || old.complete || old.total != total then ({ total := total } : FwSlot) else old
      let f := { base with bytes := Mem.write base.bytes off chunk, got := base.got ++ [(off, chunk.length)] }
      let u := t.setSlot (!t.mgmt.runningB) f
      (bad → s.answers (.fwStage d) d x t 4 []) ∧
      (¬bad → s.answers (.fwStage d) d x u (if f.complete && !u.slotOk f then 5 else 0) [])) ∧
    (s.requestOf 14 d x → bodyOk d 0 [] = true →
      let b := !t.mgmt.runningB
      (t.slotOk (t.slotOf b) = true → s.answers (.fwActivate d) d x
        (({ t with flash := { t.flash with preferB := b, trial := true } } : State).stopController) 0 []) ∧
      (t.slotOk (t.slotOf b) = false → s.answers (.fwActivate d) d x t 5 []))

/-- Sessions opened under the operator key and closed after 600 s; event pushes acknowledged and repeated; the controller
challenged, started from the preferred image and tried; the freeze pin and the end of a resumable freeze. -/
def Obligations.ControllerEvents : Prop :=
  ∀ (s : State),
    (∀ d, let drop : State := { s with mgmt := { s.mgmt with tagFails := s.mgmt.tagFails + 1 } }
      (s.powered = true → s.mgmt.running = true → datagramOk d = true → d.typ = 1 →
        (s.flash.opKey = none → exec (.sessionOpen d) s = .next (drop.withQueueOf s)) ∧
        (∀ k, s.flash.opKey = some k → (d.tag ≠ tagOf k d → exec (.sessionOpen d) s = .next (drop.withQueueOf s)) ∧
          (d.tag = tagOf k d → exec (.sessionOpen d) s = .next ((s.openSession d k).withQueueOf s)))) ∧
      (s.powered = false ∨ s.mgmt.running = false ∨ datagramOk d = false ∨ d.typ ≠ 1 → exec (.sessionOpen d) s = .next s) ∧
      (s.powered = true → s.mgmt.running = true → datagramOk d = true → d.typ = 7 →
        (s.mgmt.collectors.find? (fun c => c.session == d.session) = none → exec (.eventAck d) s = .next (drop.withQueueOf s)) ∧
        (∀ c, s.mgmt.collectors.find? (fun c => c.session == d.session) = some c → d.tag = tagOf c.key d → bodyOk d 2 [(0, 16)] = true →
          exec (.eventAck d) s = .next ((({ s with mgmt := { s.mgmt with collectors := s.mgmt.collectors.map fun x =>
            if x.session = c.session then { x with unacked := ackTo x.unacked (fieldAt d.body 0 2) } else x } } : State).send
              (s.response d c.key 0 [])).withQueueOf s)))) ∧
    (∀ id, let open_ := s.mgmt.sessions.filter fun x => x.id ≠ id || decide (s.mclock < x.lastReq + 600000000000)
      exec (.sessionTimeout id) s = .next (({ s with mgmt := { s.mgmt with sessions := open_ } } : State).withQueueOf s)) ∧
    (s.powered = true → s.mgmt.running = true → let rs := s.mgmt.collectors.map (repush s.mclock s.flash.modId)
      exec .eventPushRepeat s = .next (({ s with mgmt := { s.mgmt with
        collectors := rs.map (·.2)
        pushes := s.mgmt.pushes ++ ((List.range rs.length).zip rs).flatMap fun x => x.2.1.map fun d => (x.1, d) } } : State).withQueueOf s)) ∧
    (∀ a, let t : State := { s with mgmt := { s.mgmt with challenge := Config.freeWord s.free }, free := s.free + 1 }
      (s.powered = false → exec (.supervisorChallenge a) s = .next s) ∧
      (s.powered = true → s.mgmt.running = true → a = some (mix s.mgmt.challenge) → exec (.supervisorChallenge a) s =
        .next (({ t with mgmt := { t.mgmt with lastGood := t.mclock } } : State).withQueueOf s)) ∧
      (s.powered = true → s.mgmt.running = true → a ≠ some (mix s.mgmt.challenge) →
        (s.mgmt.lastGood + 1000000000 ≤ s.mclock → exec (.supervisorChallenge a) s = .next (t.supervise.withQueueOf s)) ∧
        (s.mclock < s.mgmt.lastGood + 1000000000 → exec (.supervisorChallenge a) s = .next (t.withQueueOf s))) ∧
      (s.powered = true → s.mgmt.running = false → exec (.supervisorChallenge a) s = .next (t.withQueueOf s))) ∧
    (s.powered = true → s.mgmt.running = false → s.mgmt.heldInReset = false →
      (s.slotOk (s.slotOf s.flash.preferB) = true → exec .controllerStart s = .next ((s.bootController s.flash.preferB).withQueueOf s)) ∧
      (s.slotOk (s.slotOf s.flash.preferB) = false → s.slotOk (s.slotOf !s.flash.preferB) = true →
        exec .controllerStart s = .next ((s.bootController !s.flash.preferB).withQueueOf s)) ∧
      (s.slotOk (s.slotOf s.flash.preferB) = false → s.slotOk (s.slotOf !s.flash.preferB) = false →
        exec .controllerStart s = .next ((s.raise { code := 0x0B02, cls := .fatal, kind := 12, loc := mgmtLoc }).withQueueOf s))) ∧
    (s.powered = false ∨ s.mgmt.running = true ∨ s.mgmt.heldInReset = true → exec .controllerStart s = .next s) ∧
    (∀ good, (s.mgmt.trialSince = none → exec (.firmwareTrial good) s = .next s) ∧
      (∀ t, s.mgmt.trialSince = some t → exec (.firmwareTrial good) s = .next ((if good = false then s.supervise
        else if s.mclock < t + 60000000000 then s
        else { s with flash := { s.flash with trial := false }, mgmt := { s.mgmt with trialSince := none } }).withQueueOf s))) ∧
    (∀ ns, (s.powered = false ∨ ns < 1000 → exec (.freezeNAssert ns) s = .next s) ∧
      (s.powered = true → 1000 ≤ ns →
        ((s.power.state = .standby ∨ s.power.state = .pitching ∨ s.resetLow = true) →
          exec (.freezeNAssert ns) s = .next (({ s with freeze := { s.freeze with spin := true } } : State).withQueueOf s)) ∧
        (s.power.state ≠ .standby → s.power.state ≠ .pitching → s.resetLow = false →
          exec (.freezeNAssert ns) s = .next ((s.requestFreeze .pin s.freeze.immediate).withQueueOf s)))) ∧
    exec .freezeNDeassert s = .next ((({ s with freeze := { s.freeze with spin := false } } : State).tryResume).withQueueOf s) ∧
    (s.freeze.state = .frozen → s.freeze.since + 100000000 ≤ s.time → exec .freezeExpiry s = .next ((({ s with freeze := { s.freeze with
      state := .dead, expired := true, seq := s.errors.nextSeq } } : State).raise { code := 0x0B0B, cls := .note, loc := moduleLoc }).withQueueOf s)) ∧
    (s.freeze.state ≠ .frozen ∨ s.time < s.freeze.since + 100000000 → exec .freezeExpiry s = .next s)

/-! ### Registers (R19, R328, R332, R334, R433, R525 to R538) -/

/-- A first half of a guarded register waits; its complement within 256 register-clock cycles puts it in force if the two
agree, the value is in range and, for a tenant register, the selector stands as it stood; anything else is a guard
fault. A half that waits longer is discarded as one. The other registers: a sequence number written back clears its
sticky bits and any other value nothing; ring control, the doorbell address, HOST_CTRL, page-table access, EXT_SEL and
the zip-staged goals as their rules say; a register write goes to the register its offset names, and a misaligned or
reserved one does nothing. -/
def Obligations.Registers : Prop :=
  (
  ∀ (s : State) (off : Nat) (v : Word),
    (gpOf off = none → exec (.guardedPair off v) s = .next s ∧ exec (.guardPairTimeout off) s = .next s) ∧
    (∀ a isC, gpOf off = some (a, isC) →
      let t := s.expireHalves
      let half : GpHalf := { off := a, isComplement := isC, value := v, at_ := t.time, sel := t.regs.tenSel }
      let rest : State := { t with regs := { t.regs with halves := t.regs.halves.filter fun x => x.off ≠ a } }
      (t.regs.halves.find? (fun h => h.off == a) = none → exec (.guardedPair off v) s = .next ((t.addHalf half).withQueueOf s)) ∧
      (∀ h, t.regs.halves.find? (fun h => h.off == a) = some h →
        let w := if isC then h.value else v
        let good := h.value = ~~~v ∧ (0x1104 ≤ a → a ≤ 0x1114 → h.sel = rest.regs.tenSel) ∧ rest.gpOk a w.toNat = true
        (h.isComplement = isC → exec (.guardedPair off v) s = .next (((rest.guardFault (some 0) a).addHalf half).withQueueOf s)) ∧
        (h.isComplement ≠ isC → good → exec (.guardedPair off v) s = .next ((rest.gpApply a h.sel.toNat w.toNat).withQueueOf s)) ∧
        (h.isComplement ≠ isC → ¬good → exec (.guardedPair off v) s = .next ((rest.guardFault (some 0) a).withQueueOf s))) ∧
      (s.regs.halves.find? (fun h => h.off == a) = none → exec (.guardPairTimeout off) s = .next s) ∧
      (∀ h, s.regs.halves.find? (fun h => h.off == a) = some h →
        (s.time < h.at_ + 1280 → exec (.guardPairTimeout off) s = .next s) ∧
        (h.at_ + 1280 ≤ s.time → exec (.guardPairTimeout off) s = .next ((({ s with regs := { s.regs with
          halves := s.regs.halves.filter fun x => x.off ≠ a } } : State).guardFault (some 0) a).withQueueOf s)))) ∧
    (s.regs.halves.length < 16 → ∀ h, s.addHalf h = { s with regs := { s.regs with halves := s.regs.halves ++ [h] } })) ∧
  (
  ∀ (s : State) (f : Nat), fnOk f →
    (∀ v : Word, (v.toNat / 2 ^ 16 = (s.fn f).seq → exec (.sequenceClear f 0x04 v) s =
        .next ((s.mapFn f fun x => { x with sticky := 0 }).withQueueOf s)) ∧
      (v.toNat / 2 ^ 16 ≠ (s.fn f).seq → exec (.sequenceClear f 0x04 v) s = .next s) ∧
      (v.toNat / 2 ^ 16 = s.errors.seq → exec (.sequenceClear 0 0x4064 v) s =
        .next (({ s with errors := { s.errors with sticky := 0 } } : State).withQueueOf s)) ∧
      (v.toNat / 2 ^ 16 ≠ s.errors.seq → exec (.sequenceClear 0 0x4064 v) s = .next s)) ∧
    (∀ off v, (f = 0 → 0x3000 ≤ off → off < 0x3020 → off % 4 = 0 → exec (.zpWrite f off v) s = .next ((s.zpWrite f off v).withQueueOf s)) ∧
      (f ≠ 0 ∨ off < 0x3000 ∨ 0x3020 ≤ off ∨ off % 4 ≠ 0 → exec (.zpWrite f off v) s = .next s)) ∧
    (∀ i v, ringOk i → let r := (s.fn f).ring i
      let n := bitsOf v.toNat 4 1
      let legal := 6 ≤ n ∧ n ≤ 16
      let sized := if legal then s.mapRing f i fun r => { r with lsize := n } else s
      (v.getLsbD 0 = true → (r.en = true → exec (.ringEnable f i v) s = .next (sized.withQueueOf s)) ∧
        (r.en = false → legal → exec (.ringEnable f i v) s = .next ((s.enableRing f i n).withQueueOf s)) ∧
        (r.en = false → ¬legal → exec (.ringEnable f i v) s = .next s) ∧ exec (.ringDisable f i v) s = .next s) ∧
      (v.getLsbD 0 = false → (r.en = true → exec (.ringDisable f i v) s = .next ((sized.disableRing f i).withQueueOf s)) ∧
        (r.en = false → exec (.ringDisable f i v) s = .next (sized.withQueueOf s)) ∧ exec (.ringEnable f i v) s = .next s)) ∧
    (∀ hi : Word, exec (.doorbellAddressWrite f hi) s = .next ((((s.mapFn f fun x => { x with
      lineHeld := false, readOut := false, readAgain := false }).mapFn f fun x => { x with
        dbAddr := hi.toNat * 2 ^ 32 + (s.fn f).dbHeldLo.toNat / 64 * 64 }).watchLine f).withQueueOf s)) ∧
    (∀ v : Word, let t : State := { s with regs := { s.regs with cacheEn := v.getLsbD 0, poll := max 1 (min 1000 (bitsOf v.toNat 11 2)) } }
      (s.regs.cacheEn = v.getLsbD 0 → exec (.cacheEnWrite v) s = .next (t.withQueueOf s)) ∧
      (s.regs.cacheEn = true → v.getLsbD 0 = false →
        exec (.cacheEnWrite v) s = .next (((s.fns.map (·.1)).foldl (fun (s : State) g => s.dropLine g) t).withQueueOf s)) ∧
      (s.regs.cacheEn = false → v.getLsbD 0 = true →
        exec (.cacheEnWrite v) s = .next (((s.fns.map (·.1)).foldl (fun (s : State) g => s.watchLine g) t).withQueueOf s))) ∧
    (∀ v : Word, let t : State := { s with regs := { s.regs with ptLoc := v &&& 0x1FFFF#32 } }
      let u : State := { s with regs := { s.regs with ptFrame := v &&& 0x3FF#32 } }
      let raw := fun (w : State) => match w.ptSite with
        | some (k, fr) => (w.core k).frameRaw fr
        | none => 0
      exec (.ptFetch 0x3040 v) s = .next (({ t with regs := { t.regs with ptData := BitVec.ofNat 64 (raw t) } } : State).withQueueOf s) ∧
      exec (.ptFetch 0x3044 v) s = .next (({ u with regs := { u.regs with ptData := BitVec.ofNat 64 (raw u) } } : State).withQueueOf s)) ∧
    (∀ hi : Word, let d : DWord := hi.zeroExtend 64 <<< 32 ||| (s.regs.ptData &&& 0xFFFFFFFF#64)
      let t : State := { s with regs := { s.regs with ptData := d } }
      let refused := fun c => ({ t with regs := { t.regs with ptCode := c, modSticky := t.regs.modSticky ||| 0b010#3 } } : State)
      (t.ptSite = none → exec (.ptWrite hi) s = .next ((refused 3).withQueueOf s)) ∧
      (∀ k fr, t.ptSite = some (k, fr) → let st := ((t.core k).frameRec fr).st
        (st = 1 → exec (.ptWrite hi) s = .next ((refused 1).withQueueOf s)) ∧
        (st = 2 ∨ (st ≠ 1 ∧ d.toNat ≠ 0 ∧ d.toNat ≠ 3) → exec (.ptWrite hi) s = .next ((refused 2).withQueueOf s)) ∧
        (st ≠ 1 → st ≠ 2 → (d.toNat = 0 ∨ d.toNat = 3) → exec (.ptWrite hi) s = .next ((({ t with regs := { t.regs with
          ptCode := 0 } } : State).putFrameRec k fr (frameRecOf d.toNat)).withQueueOf s)))) ∧
    (∀ v : Word, let i := bitsOf v.toNat 9 0
      exec (.extSel v) s = .next (({ s with regs := { s.regs with
        extSel := BitVec.ofNat 32 i
        extLatched := match s.extAt i with
          | some x => wordsOf x.bytes 8
          | none => List.replicate 8 0#32 } } : State).withQueueOf s)) ∧
    (∀ off v, (off % 4 ≠ 0 ∨ 0x10000 ≤ off ∨ (f ≠ 0 ∧ 0x1000 ≤ off) → exec (.registerWrite f off v) s = .next s) ∧
      (off % 4 = 0 → off < 0x1000 → exec (.registerWrite f off v) s = .next ((s.fnWrite f off v).withQueueOf s)) ∧
      (off % 4 = 0 → 0x1000 ≤ off → off < 0x10000 →
        (gpOf off ≠ none → exec (.registerWrite 0 off v) s = .next ((s.gpWrite off v).withQueueOf s)) ∧
        (gpOf off = none → 0x3000 ≤ off → off < 0x3020 → exec (.registerWrite 0 off v) s = .next ((s.zpWrite 0 off v).withQueueOf s)) ∧
        (gpOf off = none → (off < 0x3000 ∨ 0x3020 ≤ off) → exec (.registerWrite 0 off v) s = .next ((s.pageWrite off v).withQueueOf s)))))
end

