-- ==== Sys2Proof/Laws/Keyed.lean ====
section
/-! SUPPORT. Keyed lists: what a lookup gives after a change. -/

namespace Sys2Proof.Machine

variable {α β : Type} [DecidableEq α]

@[simp] theorem getK_putK_same (l : List (α × β)) (k : α) (v d : β) : getK (putK l k v) k d = v := by
  induction l with
  | nil => simp [putK, getK]
  | cons x r ih =>
    obtain ⟨k', v'⟩ := x
    by_cases h : k' = k <;> simp [putK, getK, h, ih]

theorem getK_putK_other (l : List (α × β)) (k j : α) (v d : β) (h : j ≠ k) :
    getK (putK l k v) j d = getK l j d := by
  induction l with
  | nil => simp [putK, getK, Ne.symm h]
  | cons x r ih =>
    obtain ⟨k', v'⟩ := x
    by_cases h' : k' = k
    · subst h'; simp [putK, getK, Ne.symm h]
    · by_cases h2 : k' = j
      · subst h2; simp [putK, getK, h]
      · simp [putK, getK, h', h2, ih]

@[simp] theorem putK_putK (l : List (α × β)) (k : α) (u v : β) : putK (putK l k u) k v = putK l k v := by
  induction l with
  | nil => simp [putK]
  | cons x r ih =>
    obtain ⟨k', v'⟩ := x
    by_cases h : k' = k <;> simp [putK, h, ih]

end Sys2Proof.Machine
end

