-- ==== Sys2Proof/Laws/State.lean ====
section
/-! SUPPORT. What each named update of State leaves and what it sets, one lemma per field. -/

namespace Sys2Proof.Machine

/-! ### setCore -/

@[simp] theorem State.setCore_pending (s : State) (k : Site) (c : Core) : (s.setCore k c).pending = s.pending := rfl
@[simp] theorem State.setCore_time (s : State) (k : Site) (c : Core) : (s.setCore k c).time = s.time := rfl
@[simp] theorem State.setCore_powered (s : State) (k : Site) (c : Core) : (s.setCore k c).powered = s.powered := rfl
@[simp] theorem State.setCore_resetLow (s : State) (k : Site) (c : Core) : (s.setCore k c).resetLow = s.resetLow := rfl
@[simp] theorem State.setCore_routers (s : State) (k : Site) (c : Core) : (s.setCore k c).routers = s.routers := rfl
@[simp] theorem State.setCore_panels (s : State) (k : Site) (c : Core) : (s.setCore k c).panels = s.panels := rfl
@[simp] theorem State.setCore_hostMem (s : State) (k : Site) (c : Core) : (s.setCore k c).hostMem = s.hostMem := rfl
@[simp] theorem State.setCore_linkUp (s : State) (k : Site) (c : Core) : (s.setCore k c).linkUp = s.linkUp := rfl
@[simp] theorem State.setCore_linkWidth (s : State) (k : Site) (c : Core) : (s.setCore k c).linkWidth = s.linkWidth := rfl
@[simp] theorem State.setCore_perstLow (s : State) (k : Site) (c : Core) : (s.setCore k c).perstLow = s.perstLow := rfl
@[simp] theorem State.setCore_heldWrites (s : State) (k : Site) (c : Core) : (s.setCore k c).heldWrites = s.heldWrites := rfl
@[simp] theorem State.setCore_fns (s : State) (k : Site) (c : Core) : (s.setCore k c).fns = s.fns := rfl
@[simp] theorem State.setCore_msiOut (s : State) (k : Site) (c : Core) : (s.setCore k c).msiOut = s.msiOut := rfl
@[simp] theorem State.setCore_tick (s : State) (k : Site) (c : Core) : (s.setCore k c).tick = s.tick := rfl
@[simp] theorem State.setCore_holds (s : State) (k : Site) (c : Core) : (s.setCore k c).holds = s.holds := rfl
@[simp] theorem State.setCore_zips (s : State) (k : Site) (c : Core) : (s.setCore k c).zips = s.zips := rfl
@[simp] theorem State.setCore_nextZip (s : State) (k : Site) (c : Core) : (s.setCore k c).nextZip = s.nextZip := rfl
@[simp] theorem State.setCore_loaded (s : State) (k : Site) (c : Core) : (s.setCore k c).loaded = s.loaded := rfl
@[simp] theorem State.setCore_loadPending (s : State) (k : Site) (c : Core) : (s.setCore k c).loadPending = s.loadPending := rfl
@[simp] theorem State.setCore_unloading (s : State) (k : Site) (c : Core) : (s.setCore k c).unloading = s.unloading := rfl
@[simp] theorem State.setCore_serve (s : State) (k : Site) (c : Core) : (s.setCore k c).serve = s.serve := rfl
@[simp] theorem State.setCore_weights (s : State) (k : Site) (c : Core) : (s.setCore k c).weights = s.weights := rfl
@[simp] theorem State.setCore_guys (s : State) (k : Site) (c : Core) : (s.setCore k c).guys = s.guys := rfl
@[simp] theorem State.setCore_transit (s : State) (k : Site) (c : Core) : (s.setCore k c).transit = s.transit := rfl
@[simp] theorem State.setCore_power (s : State) (k : Site) (c : Core) : (s.setCore k c).power = s.power := rfl
@[simp] theorem State.setCore_thermal (s : State) (k : Site) (c : Core) : (s.setCore k c).thermal = s.thermal := rfl
@[simp] theorem State.setCore_calib (s : State) (k : Site) (c : Core) : (s.setCore k c).calib = s.calib := rfl
@[simp] theorem State.setCore_errors (s : State) (k : Site) (c : Core) : (s.setCore k c).errors = s.errors := rfl
@[simp] theorem State.setCore_mgmt (s : State) (k : Site) (c : Core) : (s.setCore k c).mgmt = s.mgmt := rfl
@[simp] theorem State.setCore_flash (s : State) (k : Site) (c : Core) : (s.setCore k c).flash = s.flash := rfl
@[simp] theorem State.setCore_freeze (s : State) (k : Site) (c : Core) : (s.setCore k c).freeze = s.freeze := rfl
@[simp] theorem State.setCore_regs (s : State) (k : Site) (c : Core) : (s.setCore k c).regs = s.regs := rfl
@[simp] theorem State.setCore_guardMap (s : State) (k : Site) (c : Core) : (s.setCore k c).guardMap = s.guardMap := rfl
@[simp] theorem State.setCore_free (s : State) (k : Site) (c : Core) : (s.setCore k c).free = s.free := rfl
@[simp] theorem State.setCore_router (s : State) (k : Site) (c : Core) (j : Site) : (s.setCore k c).router j = s.router j := rfl
@[simp] theorem State.setCore_panel (s : State) (k : Site) (c : Core) (j : Nat) : (s.setCore k c).panel j = s.panel j := rfl
@[simp] theorem State.setCore_fn (s : State) (k : Site) (c : Core) (j : Nat) : (s.setCore k c).fn j = s.fn j := rfl
@[simp] theorem State.setCore_guy (s : State) (k : Site) (c : Core) (j : Nat) : (s.setCore k c).guy j = s.guy j := rfl
@[simp] theorem State.setCore_lantern (s : State) (k : Site) (c : Core) (j : Nat) : (s.setCore k c).lantern j = s.lantern j := rfl

/-! ### setRouter -/

@[simp] theorem State.setRouter_pending (s : State) (k : Site) (r : Router) : (s.setRouter k r).pending = s.pending := rfl
@[simp] theorem State.setRouter_time (s : State) (k : Site) (r : Router) : (s.setRouter k r).time = s.time := rfl
@[simp] theorem State.setRouter_powered (s : State) (k : Site) (r : Router) : (s.setRouter k r).powered = s.powered := rfl
@[simp] theorem State.setRouter_resetLow (s : State) (k : Site) (r : Router) : (s.setRouter k r).resetLow = s.resetLow := rfl
@[simp] theorem State.setRouter_cores (s : State) (k : Site) (r : Router) : (s.setRouter k r).cores = s.cores := rfl
@[simp] theorem State.setRouter_panels (s : State) (k : Site) (r : Router) : (s.setRouter k r).panels = s.panels := rfl
@[simp] theorem State.setRouter_hostMem (s : State) (k : Site) (r : Router) : (s.setRouter k r).hostMem = s.hostMem := rfl
@[simp] theorem State.setRouter_linkUp (s : State) (k : Site) (r : Router) : (s.setRouter k r).linkUp = s.linkUp := rfl
@[simp] theorem State.setRouter_linkWidth (s : State) (k : Site) (r : Router) : (s.setRouter k r).linkWidth = s.linkWidth := rfl
@[simp] theorem State.setRouter_perstLow (s : State) (k : Site) (r : Router) : (s.setRouter k r).perstLow = s.perstLow := rfl
@[simp] theorem State.setRouter_heldWrites (s : State) (k : Site) (r : Router) : (s.setRouter k r).heldWrites = s.heldWrites := rfl
@[simp] theorem State.setRouter_fns (s : State) (k : Site) (r : Router) : (s.setRouter k r).fns = s.fns := rfl
@[simp] theorem State.setRouter_msiOut (s : State) (k : Site) (r : Router) : (s.setRouter k r).msiOut = s.msiOut := rfl
@[simp] theorem State.setRouter_tick (s : State) (k : Site) (r : Router) : (s.setRouter k r).tick = s.tick := rfl
@[simp] theorem State.setRouter_holds (s : State) (k : Site) (r : Router) : (s.setRouter k r).holds = s.holds := rfl
@[simp] theorem State.setRouter_zips (s : State) (k : Site) (r : Router) : (s.setRouter k r).zips = s.zips := rfl
@[simp] theorem State.setRouter_nextZip (s : State) (k : Site) (r : Router) : (s.setRouter k r).nextZip = s.nextZip := rfl
@[simp] theorem State.setRouter_loaded (s : State) (k : Site) (r : Router) : (s.setRouter k r).loaded = s.loaded := rfl
@[simp] theorem State.setRouter_loadPending (s : State) (k : Site) (r : Router) : (s.setRouter k r).loadPending = s.loadPending := rfl
@[simp] theorem State.setRouter_unloading (s : State) (k : Site) (r : Router) : (s.setRouter k r).unloading = s.unloading := rfl
@[simp] theorem State.setRouter_serve (s : State) (k : Site) (r : Router) : (s.setRouter k r).serve = s.serve := rfl
@[simp] theorem State.setRouter_weights (s : State) (k : Site) (r : Router) : (s.setRouter k r).weights = s.weights := rfl
@[simp] theorem State.setRouter_guys (s : State) (k : Site) (r : Router) : (s.setRouter k r).guys = s.guys := rfl
@[simp] theorem State.setRouter_transit (s : State) (k : Site) (r : Router) : (s.setRouter k r).transit = s.transit := rfl
@[simp] theorem State.setRouter_power (s : State) (k : Site) (r : Router) : (s.setRouter k r).power = s.power := rfl
@[simp] theorem State.setRouter_thermal (s : State) (k : Site) (r : Router) : (s.setRouter k r).thermal = s.thermal := rfl
@[simp] theorem State.setRouter_calib (s : State) (k : Site) (r : Router) : (s.setRouter k r).calib = s.calib := rfl
@[simp] theorem State.setRouter_errors (s : State) (k : Site) (r : Router) : (s.setRouter k r).errors = s.errors := rfl
@[simp] theorem State.setRouter_mgmt (s : State) (k : Site) (r : Router) : (s.setRouter k r).mgmt = s.mgmt := rfl
@[simp] theorem State.setRouter_flash (s : State) (k : Site) (r : Router) : (s.setRouter k r).flash = s.flash := rfl
@[simp] theorem State.setRouter_freeze (s : State) (k : Site) (r : Router) : (s.setRouter k r).freeze = s.freeze := rfl
@[simp] theorem State.setRouter_regs (s : State) (k : Site) (r : Router) : (s.setRouter k r).regs = s.regs := rfl
@[simp] theorem State.setRouter_guardMap (s : State) (k : Site) (r : Router) : (s.setRouter k r).guardMap = s.guardMap := rfl
@[simp] theorem State.setRouter_free (s : State) (k : Site) (r : Router) : (s.setRouter k r).free = s.free := rfl
@[simp] theorem State.setRouter_core (s : State) (k : Site) (r : Router) (j : Site) : (s.setRouter k r).core j = s.core j := rfl
@[simp] theorem State.setRouter_panel (s : State) (k : Site) (r : Router) (j : Nat) : (s.setRouter k r).panel j = s.panel j := rfl
@[simp] theorem State.setRouter_fn (s : State) (k : Site) (r : Router) (j : Nat) : (s.setRouter k r).fn j = s.fn j := rfl
@[simp] theorem State.setRouter_guy (s : State) (k : Site) (r : Router) (j : Nat) : (s.setRouter k r).guy j = s.guy j := rfl
@[simp] theorem State.setRouter_lantern (s : State) (k : Site) (r : Router) (j : Nat) : (s.setRouter k r).lantern j = s.lantern j := rfl

/-! ### setPanel -/

@[simp] theorem State.setPanel_pending (s : State) (p : Nat) (x : PanelState) : (s.setPanel p x).pending = s.pending := rfl
@[simp] theorem State.setPanel_time (s : State) (p : Nat) (x : PanelState) : (s.setPanel p x).time = s.time := rfl
@[simp] theorem State.setPanel_powered (s : State) (p : Nat) (x : PanelState) : (s.setPanel p x).powered = s.powered := rfl
@[simp] theorem State.setPanel_resetLow (s : State) (p : Nat) (x : PanelState) : (s.setPanel p x).resetLow = s.resetLow := rfl
@[simp] theorem State.setPanel_cores (s : State) (p : Nat) (x : PanelState) : (s.setPanel p x).cores = s.cores := rfl
@[simp] theorem State.setPanel_routers (s : State) (p : Nat) (x : PanelState) : (s.setPanel p x).routers = s.routers := rfl
@[simp] theorem State.setPanel_hostMem (s : State) (p : Nat) (x : PanelState) : (s.setPanel p x).hostMem = s.hostMem := rfl
@[simp] theorem State.setPanel_linkUp (s : State) (p : Nat) (x : PanelState) : (s.setPanel p x).linkUp = s.linkUp := rfl
@[simp] theorem State.setPanel_linkWidth (s : State) (p : Nat) (x : PanelState) : (s.setPanel p x).linkWidth = s.linkWidth := rfl
@[simp] theorem State.setPanel_perstLow (s : State) (p : Nat) (x : PanelState) : (s.setPanel p x).perstLow = s.perstLow := rfl
@[simp] theorem State.setPanel_heldWrites (s : State) (p : Nat) (x : PanelState) : (s.setPanel p x).heldWrites = s.heldWrites := rfl
@[simp] theorem State.setPanel_fns (s : State) (p : Nat) (x : PanelState) : (s.setPanel p x).fns = s.fns := rfl
@[simp] theorem State.setPanel_msiOut (s : State) (p : Nat) (x : PanelState) : (s.setPanel p x).msiOut = s.msiOut := rfl
@[simp] theorem State.setPanel_tick (s : State) (p : Nat) (x : PanelState) : (s.setPanel p x).tick = s.tick := rfl
@[simp] theorem State.setPanel_holds (s : State) (p : Nat) (x : PanelState) : (s.setPanel p x).holds = s.holds := rfl
@[simp] theorem State.setPanel_zips (s : State) (p : Nat) (x : PanelState) : (s.setPanel p x).zips = s.zips := rfl
@[simp] theorem State.setPanel_nextZip (s : State) (p : Nat) (x : PanelState) : (s.setPanel p x).nextZip = s.nextZip := rfl
@[simp] theorem State.setPanel_loaded (s : State) (p : Nat) (x : PanelState) : (s.setPanel p x).loaded = s.loaded := rfl
@[simp] theorem State.setPanel_loadPending (s : State) (p : Nat) (x : PanelState) : (s.setPanel p x).loadPending = s.loadPending := rfl
@[simp] theorem State.setPanel_unloading (s : State) (p : Nat) (x : PanelState) : (s.setPanel p x).unloading = s.unloading := rfl
@[simp] theorem State.setPanel_serve (s : State) (p : Nat) (x : PanelState) : (s.setPanel p x).serve = s.serve := rfl
@[simp] theorem State.setPanel_weights (s : State) (p : Nat) (x : PanelState) : (s.setPanel p x).weights = s.weights := rfl
@[simp] theorem State.setPanel_guys (s : State) (p : Nat) (x : PanelState) : (s.setPanel p x).guys = s.guys := rfl
@[simp] theorem State.setPanel_transit (s : State) (p : Nat) (x : PanelState) : (s.setPanel p x).transit = s.transit := rfl
@[simp] theorem State.setPanel_power (s : State) (p : Nat) (x : PanelState) : (s.setPanel p x).power = s.power := rfl
@[simp] theorem State.setPanel_thermal (s : State) (p : Nat) (x : PanelState) : (s.setPanel p x).thermal = s.thermal := rfl
@[simp] theorem State.setPanel_calib (s : State) (p : Nat) (x : PanelState) : (s.setPanel p x).calib = s.calib := rfl
@[simp] theorem State.setPanel_errors (s : State) (p : Nat) (x : PanelState) : (s.setPanel p x).errors = s.errors := rfl
@[simp] theorem State.setPanel_mgmt (s : State) (p : Nat) (x : PanelState) : (s.setPanel p x).mgmt = s.mgmt := rfl
@[simp] theorem State.setPanel_flash (s : State) (p : Nat) (x : PanelState) : (s.setPanel p x).flash = s.flash := rfl
@[simp] theorem State.setPanel_freeze (s : State) (p : Nat) (x : PanelState) : (s.setPanel p x).freeze = s.freeze := rfl
@[simp] theorem State.setPanel_regs (s : State) (p : Nat) (x : PanelState) : (s.setPanel p x).regs = s.regs := rfl
@[simp] theorem State.setPanel_guardMap (s : State) (p : Nat) (x : PanelState) : (s.setPanel p x).guardMap = s.guardMap := rfl
@[simp] theorem State.setPanel_free (s : State) (p : Nat) (x : PanelState) : (s.setPanel p x).free = s.free := rfl
@[simp] theorem State.setPanel_core (s : State) (p : Nat) (x : PanelState) (j : Site) : (s.setPanel p x).core j = s.core j := rfl
@[simp] theorem State.setPanel_router (s : State) (p : Nat) (x : PanelState) (j : Site) : (s.setPanel p x).router j = s.router j := rfl
@[simp] theorem State.setPanel_fn (s : State) (p : Nat) (x : PanelState) (j : Nat) : (s.setPanel p x).fn j = s.fn j := rfl
@[simp] theorem State.setPanel_guy (s : State) (p : Nat) (x : PanelState) (j : Nat) : (s.setPanel p x).guy j = s.guy j := rfl
@[simp] theorem State.setPanel_lantern (s : State) (p : Nat) (x : PanelState) (j : Nat) : (s.setPanel p x).lantern j = s.lantern j := rfl

/-! ### setFn -/

@[simp] theorem State.setFn_pending (s : State) (f : Nat) (x : Fn) : (s.setFn f x).pending = s.pending := rfl
@[simp] theorem State.setFn_time (s : State) (f : Nat) (x : Fn) : (s.setFn f x).time = s.time := rfl
@[simp] theorem State.setFn_powered (s : State) (f : Nat) (x : Fn) : (s.setFn f x).powered = s.powered := rfl
@[simp] theorem State.setFn_resetLow (s : State) (f : Nat) (x : Fn) : (s.setFn f x).resetLow = s.resetLow := rfl
@[simp] theorem State.setFn_cores (s : State) (f : Nat) (x : Fn) : (s.setFn f x).cores = s.cores := rfl
@[simp] theorem State.setFn_routers (s : State) (f : Nat) (x : Fn) : (s.setFn f x).routers = s.routers := rfl
@[simp] theorem State.setFn_panels (s : State) (f : Nat) (x : Fn) : (s.setFn f x).panels = s.panels := rfl
@[simp] theorem State.setFn_hostMem (s : State) (f : Nat) (x : Fn) : (s.setFn f x).hostMem = s.hostMem := rfl
@[simp] theorem State.setFn_linkUp (s : State) (f : Nat) (x : Fn) : (s.setFn f x).linkUp = s.linkUp := rfl
@[simp] theorem State.setFn_linkWidth (s : State) (f : Nat) (x : Fn) : (s.setFn f x).linkWidth = s.linkWidth := rfl
@[simp] theorem State.setFn_perstLow (s : State) (f : Nat) (x : Fn) : (s.setFn f x).perstLow = s.perstLow := rfl
@[simp] theorem State.setFn_heldWrites (s : State) (f : Nat) (x : Fn) : (s.setFn f x).heldWrites = s.heldWrites := rfl
@[simp] theorem State.setFn_msiOut (s : State) (f : Nat) (x : Fn) : (s.setFn f x).msiOut = s.msiOut := rfl
@[simp] theorem State.setFn_tick (s : State) (f : Nat) (x : Fn) : (s.setFn f x).tick = s.tick := rfl
@[simp] theorem State.setFn_holds (s : State) (f : Nat) (x : Fn) : (s.setFn f x).holds = s.holds := rfl
@[simp] theorem State.setFn_zips (s : State) (f : Nat) (x : Fn) : (s.setFn f x).zips = s.zips := rfl
@[simp] theorem State.setFn_nextZip (s : State) (f : Nat) (x : Fn) : (s.setFn f x).nextZip = s.nextZip := rfl
@[simp] theorem State.setFn_loaded (s : State) (f : Nat) (x : Fn) : (s.setFn f x).loaded = s.loaded := rfl
@[simp] theorem State.setFn_loadPending (s : State) (f : Nat) (x : Fn) : (s.setFn f x).loadPending = s.loadPending := rfl
@[simp] theorem State.setFn_unloading (s : State) (f : Nat) (x : Fn) : (s.setFn f x).unloading = s.unloading := rfl
@[simp] theorem State.setFn_serve (s : State) (f : Nat) (x : Fn) : (s.setFn f x).serve = s.serve := rfl
@[simp] theorem State.setFn_weights (s : State) (f : Nat) (x : Fn) : (s.setFn f x).weights = s.weights := rfl
@[simp] theorem State.setFn_guys (s : State) (f : Nat) (x : Fn) : (s.setFn f x).guys = s.guys := rfl
@[simp] theorem State.setFn_transit (s : State) (f : Nat) (x : Fn) : (s.setFn f x).transit = s.transit := rfl
@[simp] theorem State.setFn_power (s : State) (f : Nat) (x : Fn) : (s.setFn f x).power = s.power := rfl
@[simp] theorem State.setFn_thermal (s : State) (f : Nat) (x : Fn) : (s.setFn f x).thermal = s.thermal := rfl
@[simp] theorem State.setFn_calib (s : State) (f : Nat) (x : Fn) : (s.setFn f x).calib = s.calib := rfl
@[simp] theorem State.setFn_errors (s : State) (f : Nat) (x : Fn) : (s.setFn f x).errors = s.errors := rfl
@[simp] theorem State.setFn_mgmt (s : State) (f : Nat) (x : Fn) : (s.setFn f x).mgmt = s.mgmt := rfl
@[simp] theorem State.setFn_flash (s : State) (f : Nat) (x : Fn) : (s.setFn f x).flash = s.flash := rfl
@[simp] theorem State.setFn_freeze (s : State) (f : Nat) (x : Fn) : (s.setFn f x).freeze = s.freeze := rfl
@[simp] theorem State.setFn_regs (s : State) (f : Nat) (x : Fn) : (s.setFn f x).regs = s.regs := rfl
@[simp] theorem State.setFn_guardMap (s : State) (f : Nat) (x : Fn) : (s.setFn f x).guardMap = s.guardMap := rfl
@[simp] theorem State.setFn_free (s : State) (f : Nat) (x : Fn) : (s.setFn f x).free = s.free := rfl
@[simp] theorem State.setFn_core (s : State) (f : Nat) (x : Fn) (j : Site) : (s.setFn f x).core j = s.core j := rfl
@[simp] theorem State.setFn_router (s : State) (f : Nat) (x : Fn) (j : Site) : (s.setFn f x).router j = s.router j := rfl
@[simp] theorem State.setFn_panel (s : State) (f : Nat) (x : Fn) (j : Nat) : (s.setFn f x).panel j = s.panel j := rfl
@[simp] theorem State.setFn_guy (s : State) (f : Nat) (x : Fn) (j : Nat) : (s.setFn f x).guy j = s.guy j := rfl
@[simp] theorem State.setFn_lantern (s : State) (f : Nat) (x : Fn) (j : Nat) : (s.setFn f x).lantern j = s.lantern j := rfl

/-! ### setGuy -/

@[simp] theorem State.setGuy_pending (s : State) (l : Nat) (g : Guy) : (s.setGuy l g).pending = s.pending := rfl
@[simp] theorem State.setGuy_time (s : State) (l : Nat) (g : Guy) : (s.setGuy l g).time = s.time := rfl
@[simp] theorem State.setGuy_powered (s : State) (l : Nat) (g : Guy) : (s.setGuy l g).powered = s.powered := rfl
@[simp] theorem State.setGuy_resetLow (s : State) (l : Nat) (g : Guy) : (s.setGuy l g).resetLow = s.resetLow := rfl
@[simp] theorem State.setGuy_cores (s : State) (l : Nat) (g : Guy) : (s.setGuy l g).cores = s.cores := rfl
@[simp] theorem State.setGuy_routers (s : State) (l : Nat) (g : Guy) : (s.setGuy l g).routers = s.routers := rfl
@[simp] theorem State.setGuy_panels (s : State) (l : Nat) (g : Guy) : (s.setGuy l g).panels = s.panels := rfl
@[simp] theorem State.setGuy_hostMem (s : State) (l : Nat) (g : Guy) : (s.setGuy l g).hostMem = s.hostMem := rfl
@[simp] theorem State.setGuy_linkUp (s : State) (l : Nat) (g : Guy) : (s.setGuy l g).linkUp = s.linkUp := rfl
@[simp] theorem State.setGuy_linkWidth (s : State) (l : Nat) (g : Guy) : (s.setGuy l g).linkWidth = s.linkWidth := rfl
@[simp] theorem State.setGuy_perstLow (s : State) (l : Nat) (g : Guy) : (s.setGuy l g).perstLow = s.perstLow := rfl
@[simp] theorem State.setGuy_heldWrites (s : State) (l : Nat) (g : Guy) : (s.setGuy l g).heldWrites = s.heldWrites := rfl
@[simp] theorem State.setGuy_fns (s : State) (l : Nat) (g : Guy) : (s.setGuy l g).fns = s.fns := rfl
@[simp] theorem State.setGuy_msiOut (s : State) (l : Nat) (g : Guy) : (s.setGuy l g).msiOut = s.msiOut := rfl
@[simp] theorem State.setGuy_tick (s : State) (l : Nat) (g : Guy) : (s.setGuy l g).tick = s.tick := rfl
@[simp] theorem State.setGuy_holds (s : State) (l : Nat) (g : Guy) : (s.setGuy l g).holds = s.holds := rfl
@[simp] theorem State.setGuy_zips (s : State) (l : Nat) (g : Guy) : (s.setGuy l g).zips = s.zips := rfl
@[simp] theorem State.setGuy_nextZip (s : State) (l : Nat) (g : Guy) : (s.setGuy l g).nextZip = s.nextZip := rfl
@[simp] theorem State.setGuy_loaded (s : State) (l : Nat) (g : Guy) : (s.setGuy l g).loaded = s.loaded := rfl
@[simp] theorem State.setGuy_loadPending (s : State) (l : Nat) (g : Guy) : (s.setGuy l g).loadPending = s.loadPending := rfl
@[simp] theorem State.setGuy_unloading (s : State) (l : Nat) (g : Guy) : (s.setGuy l g).unloading = s.unloading := rfl
@[simp] theorem State.setGuy_serve (s : State) (l : Nat) (g : Guy) : (s.setGuy l g).serve = s.serve := rfl
@[simp] theorem State.setGuy_weights (s : State) (l : Nat) (g : Guy) : (s.setGuy l g).weights = s.weights := rfl
@[simp] theorem State.setGuy_transit (s : State) (l : Nat) (g : Guy) : (s.setGuy l g).transit = s.transit := rfl
@[simp] theorem State.setGuy_power (s : State) (l : Nat) (g : Guy) : (s.setGuy l g).power = s.power := rfl
@[simp] theorem State.setGuy_thermal (s : State) (l : Nat) (g : Guy) : (s.setGuy l g).thermal = s.thermal := rfl
@[simp] theorem State.setGuy_calib (s : State) (l : Nat) (g : Guy) : (s.setGuy l g).calib = s.calib := rfl
@[simp] theorem State.setGuy_errors (s : State) (l : Nat) (g : Guy) : (s.setGuy l g).errors = s.errors := rfl
@[simp] theorem State.setGuy_mgmt (s : State) (l : Nat) (g : Guy) : (s.setGuy l g).mgmt = s.mgmt := rfl
@[simp] theorem State.setGuy_flash (s : State) (l : Nat) (g : Guy) : (s.setGuy l g).flash = s.flash := rfl
@[simp] theorem State.setGuy_freeze (s : State) (l : Nat) (g : Guy) : (s.setGuy l g).freeze = s.freeze := rfl
@[simp] theorem State.setGuy_regs (s : State) (l : Nat) (g : Guy) : (s.setGuy l g).regs = s.regs := rfl
@[simp] theorem State.setGuy_guardMap (s : State) (l : Nat) (g : Guy) : (s.setGuy l g).guardMap = s.guardMap := rfl
@[simp] theorem State.setGuy_free (s : State) (l : Nat) (g : Guy) : (s.setGuy l g).free = s.free := rfl
@[simp] theorem State.setGuy_core (s : State) (l : Nat) (g : Guy) (j : Site) : (s.setGuy l g).core j = s.core j := rfl
@[simp] theorem State.setGuy_router (s : State) (l : Nat) (g : Guy) (j : Site) : (s.setGuy l g).router j = s.router j := rfl
@[simp] theorem State.setGuy_panel (s : State) (l : Nat) (g : Guy) (j : Nat) : (s.setGuy l g).panel j = s.panel j := rfl
@[simp] theorem State.setGuy_fn (s : State) (l : Nat) (g : Guy) (j : Nat) : (s.setGuy l g).fn j = s.fn j := rfl
@[simp] theorem State.setGuy_lantern (s : State) (l : Nat) (g : Guy) (j : Nat) : (s.setGuy l g).lantern j = s.lantern j := rfl

/-! ### setLantern -/

@[simp] theorem State.setLantern_pending (s : State) (i : Nat) (x : Lantern) : (s.setLantern i x).pending = s.pending := rfl
@[simp] theorem State.setLantern_time (s : State) (i : Nat) (x : Lantern) : (s.setLantern i x).time = s.time := rfl
@[simp] theorem State.setLantern_powered (s : State) (i : Nat) (x : Lantern) : (s.setLantern i x).powered = s.powered := rfl
@[simp] theorem State.setLantern_resetLow (s : State) (i : Nat) (x : Lantern) : (s.setLantern i x).resetLow = s.resetLow := rfl
@[simp] theorem State.setLantern_cores (s : State) (i : Nat) (x : Lantern) : (s.setLantern i x).cores = s.cores := rfl
@[simp] theorem State.setLantern_routers (s : State) (i : Nat) (x : Lantern) : (s.setLantern i x).routers = s.routers := rfl
@[simp] theorem State.setLantern_panels (s : State) (i : Nat) (x : Lantern) : (s.setLantern i x).panels = s.panels := rfl
@[simp] theorem State.setLantern_hostMem (s : State) (i : Nat) (x : Lantern) : (s.setLantern i x).hostMem = s.hostMem := rfl
@[simp] theorem State.setLantern_linkUp (s : State) (i : Nat) (x : Lantern) : (s.setLantern i x).linkUp = s.linkUp := rfl
@[simp] theorem State.setLantern_linkWidth (s : State) (i : Nat) (x : Lantern) : (s.setLantern i x).linkWidth = s.linkWidth := rfl
@[simp] theorem State.setLantern_perstLow (s : State) (i : Nat) (x : Lantern) : (s.setLantern i x).perstLow = s.perstLow := rfl
@[simp] theorem State.setLantern_heldWrites (s : State) (i : Nat) (x : Lantern) : (s.setLantern i x).heldWrites = s.heldWrites := rfl
@[simp] theorem State.setLantern_fns (s : State) (i : Nat) (x : Lantern) : (s.setLantern i x).fns = s.fns := rfl
@[simp] theorem State.setLantern_msiOut (s : State) (i : Nat) (x : Lantern) : (s.setLantern i x).msiOut = s.msiOut := rfl
@[simp] theorem State.setLantern_tick (s : State) (i : Nat) (x : Lantern) : (s.setLantern i x).tick = s.tick := rfl
@[simp] theorem State.setLantern_holds (s : State) (i : Nat) (x : Lantern) : (s.setLantern i x).holds = s.holds := rfl
@[simp] theorem State.setLantern_zips (s : State) (i : Nat) (x : Lantern) : (s.setLantern i x).zips = s.zips := rfl
@[simp] theorem State.setLantern_nextZip (s : State) (i : Nat) (x : Lantern) : (s.setLantern i x).nextZip = s.nextZip := rfl
@[simp] theorem State.setLantern_loaded (s : State) (i : Nat) (x : Lantern) : (s.setLantern i x).loaded = s.loaded := rfl
@[simp] theorem State.setLantern_loadPending (s : State) (i : Nat) (x : Lantern) : (s.setLantern i x).loadPending = s.loadPending := rfl
@[simp] theorem State.setLantern_unloading (s : State) (i : Nat) (x : Lantern) : (s.setLantern i x).unloading = s.unloading := rfl
@[simp] theorem State.setLantern_weights (s : State) (i : Nat) (x : Lantern) : (s.setLantern i x).weights = s.weights := rfl
@[simp] theorem State.setLantern_guys (s : State) (i : Nat) (x : Lantern) : (s.setLantern i x).guys = s.guys := rfl
@[simp] theorem State.setLantern_transit (s : State) (i : Nat) (x : Lantern) : (s.setLantern i x).transit = s.transit := rfl
@[simp] theorem State.setLantern_power (s : State) (i : Nat) (x : Lantern) : (s.setLantern i x).power = s.power := rfl
@[simp] theorem State.setLantern_thermal (s : State) (i : Nat) (x : Lantern) : (s.setLantern i x).thermal = s.thermal := rfl
@[simp] theorem State.setLantern_calib (s : State) (i : Nat) (x : Lantern) : (s.setLantern i x).calib = s.calib := rfl
@[simp] theorem State.setLantern_errors (s : State) (i : Nat) (x : Lantern) : (s.setLantern i x).errors = s.errors := rfl
@[simp] theorem State.setLantern_mgmt (s : State) (i : Nat) (x : Lantern) : (s.setLantern i x).mgmt = s.mgmt := rfl
@[simp] theorem State.setLantern_flash (s : State) (i : Nat) (x : Lantern) : (s.setLantern i x).flash = s.flash := rfl
@[simp] theorem State.setLantern_freeze (s : State) (i : Nat) (x : Lantern) : (s.setLantern i x).freeze = s.freeze := rfl
@[simp] theorem State.setLantern_regs (s : State) (i : Nat) (x : Lantern) : (s.setLantern i x).regs = s.regs := rfl
@[simp] theorem State.setLantern_guardMap (s : State) (i : Nat) (x : Lantern) : (s.setLantern i x).guardMap = s.guardMap := rfl
@[simp] theorem State.setLantern_free (s : State) (i : Nat) (x : Lantern) : (s.setLantern i x).free = s.free := rfl
@[simp] theorem State.setLantern_core (s : State) (i : Nat) (x : Lantern) (j : Site) : (s.setLantern i x).core j = s.core j := rfl
@[simp] theorem State.setLantern_router (s : State) (i : Nat) (x : Lantern) (j : Site) : (s.setLantern i x).router j = s.router j := rfl
@[simp] theorem State.setLantern_panel (s : State) (i : Nat) (x : Lantern) (j : Nat) : (s.setLantern i x).panel j = s.panel j := rfl
@[simp] theorem State.setLantern_fn (s : State) (i : Nat) (x : Lantern) (j : Nat) : (s.setLantern i x).fn j = s.fn j := rfl
@[simp] theorem State.setLantern_guy (s : State) (i : Nat) (x : Lantern) (j : Nat) : (s.setLantern i x).guy j = s.guy j := rfl

@[simp] theorem State.core_setCore_same (s : State) (k : Site) (c : Core) : (s.setCore k c).core k = c := getK_putK_same ..

theorem State.core_setCore_other (s : State) (k : Site) (c : Core) (j : Site) (h : j ≠ k) : (s.setCore k c).core j = s.core j :=
  getK_putK_other _ _ _ _ _ h

@[simp] theorem State.setCore_setCore (s : State) (k : Site) (x y : Core) : (s.setCore k x).setCore k y = s.setCore k y := by
  simp [State.setCore]

@[simp] theorem State.router_setRouter_same (s : State) (k : Site) (r : Router) : (s.setRouter k r).router k = r := getK_putK_same ..

theorem State.router_setRouter_other (s : State) (k : Site) (r : Router) (j : Site) (h : j ≠ k) : (s.setRouter k r).router j = s.router j :=
  getK_putK_other _ _ _ _ _ h

@[simp] theorem State.setRouter_setRouter (s : State) (k : Site) (x y : Router) : (s.setRouter k x).setRouter k y = s.setRouter k y := by
  simp [State.setRouter]

@[simp] theorem State.panel_setPanel_same (s : State) (p : Nat) (x : PanelState) : (s.setPanel p x).panel p = x := getK_putK_same ..

theorem State.panel_setPanel_other (s : State) (p : Nat) (x : PanelState) (j : Nat) (h : j ≠ p) : (s.setPanel p x).panel j = s.panel j :=
  getK_putK_other _ _ _ _ _ h

@[simp] theorem State.setPanel_setPanel (s : State) (p : Nat) (x y : PanelState) : (s.setPanel p x).setPanel p y = s.setPanel p y := by
  simp [State.setPanel]

@[simp] theorem State.fn_setFn_same (s : State) (f : Nat) (x : Fn) : (s.setFn f x).fn f = x := getK_putK_same ..

theorem State.fn_setFn_other (s : State) (f : Nat) (x : Fn) (j : Nat) (h : j ≠ f) : (s.setFn f x).fn j = s.fn j :=
  getK_putK_other _ _ _ _ _ h

@[simp] theorem State.setFn_setFn (s : State) (f : Nat) (x y : Fn) : (s.setFn f x).setFn f y = s.setFn f y := by
  simp [State.setFn]

theorem State.mapCore_eq (s : State) (k : Site) (f : Core → Core) : s.mapCore k f = s.setCore k (f (s.core k)) := rfl

theorem State.mapRouter_eq (s : State) (k : Site) (f : Router → Router) : s.mapRouter k f = s.setRouter k (f (s.router k)) := rfl

theorem State.mapPanel_eq (s : State) (p : Nat) (f : PanelState → PanelState) : s.mapPanel p f = s.setPanel p (f (s.panel p)) := rfl

theorem State.mapFn_eq (s : State) (p : Nat) (f : Fn → Fn) : s.mapFn p f = s.setFn p (f (s.fn p)) := rfl

theorem State.mapGuy_eq (s : State) (p : Nat) (f : Guy → Guy) : s.mapGuy p f = s.setGuy p (f (s.guy p)) := rfl

@[simp] theorem State.core_mapCore_same (s : State) (k : Site) (f : Core → Core) : (s.mapCore k f).core k = f (s.core k) := by
  simp [State.mapCore]

theorem State.core_mapCore_other (s : State) (k j : Site) (f : Core → Core) (h : j ≠ k) : (s.mapCore k f).core j = s.core j :=
  State.core_setCore_other _ _ _ _ h

@[simp] theorem State.router_mapRouter_same (s : State) (k : Site) (f : Router → Router) : (s.mapRouter k f).router k = f (s.router k) := by
  simp [State.mapRouter]

theorem State.router_mapRouter_other (s : State) (k j : Site) (f : Router → Router) (h : j ≠ k) : (s.mapRouter k f).router j = s.router j :=
  State.router_setRouter_other _ _ _ _ h

@[simp] theorem State.panel_mapPanel_same (s : State) (p : Nat) (f : PanelState → PanelState) : (s.mapPanel p f).panel p = f (s.panel p) := by
  simp [State.mapPanel]

theorem State.panel_mapPanel_other (s : State) (p j : Nat) (f : PanelState → PanelState) (h : j ≠ p) : (s.mapPanel p f).panel j = s.panel j :=
  State.panel_setPanel_other _ _ _ _ h

@[simp] theorem State.fn_mapFn_same (s : State) (p : Nat) (f : Fn → Fn) : (s.mapFn p f).fn p = f (s.fn p) := by
  simp [State.mapFn]

theorem State.fn_mapFn_other (s : State) (p j : Nat) (f : Fn → Fn) (h : j ≠ p) : (s.mapFn p f).fn j = s.fn j :=
  State.fn_setFn_other _ _ _ _ h

@[simp] theorem State.mapCore_pending (s : State) (k : Site) (f : Core → Core) : (s.mapCore k f).pending = s.pending := rfl
@[simp] theorem State.mapCore_time (s : State) (k : Site) (f : Core → Core) : (s.mapCore k f).time = s.time := rfl
@[simp] theorem State.mapCore_powered (s : State) (k : Site) (f : Core → Core) : (s.mapCore k f).powered = s.powered := rfl
@[simp] theorem State.mapCore_resetLow (s : State) (k : Site) (f : Core → Core) : (s.mapCore k f).resetLow = s.resetLow := rfl
@[simp] theorem State.mapCore_routers (s : State) (k : Site) (f : Core → Core) : (s.mapCore k f).routers = s.routers := rfl
@[simp] theorem State.mapCore_panels (s : State) (k : Site) (f : Core → Core) : (s.mapCore k f).panels = s.panels := rfl
@[simp] theorem State.mapCore_hostMem (s : State) (k : Site) (f : Core → Core) : (s.mapCore k f).hostMem = s.hostMem := rfl
@[simp] theorem State.mapCore_linkUp (s : State) (k : Site) (f : Core → Core) : (s.mapCore k f).linkUp = s.linkUp := rfl
@[simp] theorem State.mapCore_linkWidth (s : State) (k : Site) (f : Core → Core) : (s.mapCore k f).linkWidth = s.linkWidth := rfl
@[simp] theorem State.mapCore_perstLow (s : State) (k : Site) (f : Core → Core) : (s.mapCore k f).perstLow = s.perstLow := rfl
@[simp] theorem State.mapCore_heldWrites (s : State) (k : Site) (f : Core → Core) : (s.mapCore k f).heldWrites = s.heldWrites := rfl
@[simp] theorem State.mapCore_fns (s : State) (k : Site) (f : Core → Core) : (s.mapCore k f).fns = s.fns := rfl
@[simp] theorem State.mapCore_msiOut (s : State) (k : Site) (f : Core → Core) : (s.mapCore k f).msiOut = s.msiOut := rfl
@[simp] theorem State.mapCore_tick (s : State) (k : Site) (f : Core → Core) : (s.mapCore k f).tick = s.tick := rfl
@[simp] theorem State.mapCore_holds (s : State) (k : Site) (f : Core → Core) : (s.mapCore k f).holds = s.holds := rfl
@[simp] theorem State.mapCore_zips (s : State) (k : Site) (f : Core → Core) : (s.mapCore k f).zips = s.zips := rfl
@[simp] theorem State.mapCore_nextZip (s : State) (k : Site) (f : Core → Core) : (s.mapCore k f).nextZip = s.nextZip := rfl
@[simp] theorem State.mapCore_loaded (s : State) (k : Site) (f : Core → Core) : (s.mapCore k f).loaded = s.loaded := rfl
@[simp] theorem State.mapCore_loadPending (s : State) (k : Site) (f : Core → Core) : (s.mapCore k f).loadPending = s.loadPending := rfl
@[simp] theorem State.mapCore_unloading (s : State) (k : Site) (f : Core → Core) : (s.mapCore k f).unloading = s.unloading := rfl
@[simp] theorem State.mapCore_serve (s : State) (k : Site) (f : Core → Core) : (s.mapCore k f).serve = s.serve := rfl
@[simp] theorem State.mapCore_weights (s : State) (k : Site) (f : Core → Core) : (s.mapCore k f).weights = s.weights := rfl
@[simp] theorem State.mapCore_guys (s : State) (k : Site) (f : Core → Core) : (s.mapCore k f).guys = s.guys := rfl
@[simp] theorem State.mapCore_transit (s : State) (k : Site) (f : Core → Core) : (s.mapCore k f).transit = s.transit := rfl
@[simp] theorem State.mapCore_power (s : State) (k : Site) (f : Core → Core) : (s.mapCore k f).power = s.power := rfl
@[simp] theorem State.mapCore_thermal (s : State) (k : Site) (f : Core → Core) : (s.mapCore k f).thermal = s.thermal := rfl
@[simp] theorem State.mapCore_calib (s : State) (k : Site) (f : Core → Core) : (s.mapCore k f).calib = s.calib := rfl
@[simp] theorem State.mapCore_errors (s : State) (k : Site) (f : Core → Core) : (s.mapCore k f).errors = s.errors := rfl
@[simp] theorem State.mapCore_mgmt (s : State) (k : Site) (f : Core → Core) : (s.mapCore k f).mgmt = s.mgmt := rfl
@[simp] theorem State.mapCore_flash (s : State) (k : Site) (f : Core → Core) : (s.mapCore k f).flash = s.flash := rfl
@[simp] theorem State.mapCore_freeze (s : State) (k : Site) (f : Core → Core) : (s.mapCore k f).freeze = s.freeze := rfl
@[simp] theorem State.mapCore_regs (s : State) (k : Site) (f : Core → Core) : (s.mapCore k f).regs = s.regs := rfl
@[simp] theorem State.mapCore_guardMap (s : State) (k : Site) (f : Core → Core) : (s.mapCore k f).guardMap = s.guardMap := rfl
@[simp] theorem State.mapCore_free (s : State) (k : Site) (f : Core → Core) : (s.mapCore k f).free = s.free := rfl
@[simp] theorem State.mapRouter_pending (s : State) (k : Site) (f : Router → Router) : (s.mapRouter k f).pending = s.pending := rfl
@[simp] theorem State.mapRouter_time (s : State) (k : Site) (f : Router → Router) : (s.mapRouter k f).time = s.time := rfl
@[simp] theorem State.mapRouter_powered (s : State) (k : Site) (f : Router → Router) : (s.mapRouter k f).powered = s.powered := rfl
@[simp] theorem State.mapRouter_resetLow (s : State) (k : Site) (f : Router → Router) : (s.mapRouter k f).resetLow = s.resetLow := rfl
@[simp] theorem State.mapRouter_cores (s : State) (k : Site) (f : Router → Router) : (s.mapRouter k f).cores = s.cores := rfl
@[simp] theorem State.mapRouter_panels (s : State) (k : Site) (f : Router → Router) : (s.mapRouter k f).panels = s.panels := rfl
@[simp] theorem State.mapRouter_hostMem (s : State) (k : Site) (f : Router → Router) : (s.mapRouter k f).hostMem = s.hostMem := rfl
@[simp] theorem State.mapRouter_linkUp (s : State) (k : Site) (f : Router → Router) : (s.mapRouter k f).linkUp = s.linkUp := rfl
@[simp] theorem State.mapRouter_linkWidth (s : State) (k : Site) (f : Router → Router) : (s.mapRouter k f).linkWidth = s.linkWidth := rfl
@[simp] theorem State.mapRouter_perstLow (s : State) (k : Site) (f : Router → Router) : (s.mapRouter k f).perstLow = s.perstLow := rfl
@[simp] theorem State.mapRouter_heldWrites (s : State) (k : Site) (f : Router → Router) : (s.mapRouter k f).heldWrites = s.heldWrites := rfl
@[simp] theorem State.mapRouter_fns (s : State) (k : Site) (f : Router → Router) : (s.mapRouter k f).fns = s.fns := rfl
@[simp] theorem State.mapRouter_msiOut (s : State) (k : Site) (f : Router → Router) : (s.mapRouter k f).msiOut = s.msiOut := rfl
@[simp] theorem State.mapRouter_tick (s : State) (k : Site) (f : Router → Router) : (s.mapRouter k f).tick = s.tick := rfl
@[simp] theorem State.mapRouter_holds (s : State) (k : Site) (f : Router → Router) : (s.mapRouter k f).holds = s.holds := rfl
@[simp] theorem State.mapRouter_zips (s : State) (k : Site) (f : Router → Router) : (s.mapRouter k f).zips = s.zips := rfl
@[simp] theorem State.mapRouter_nextZip (s : State) (k : Site) (f : Router → Router) : (s.mapRouter k f).nextZip = s.nextZip := rfl
@[simp] theorem State.mapRouter_loaded (s : State) (k : Site) (f : Router → Router) : (s.mapRouter k f).loaded = s.loaded := rfl
@[simp] theorem State.mapRouter_loadPending (s : State) (k : Site) (f : Router → Router) : (s.mapRouter k f).loadPending = s.loadPending := rfl
@[simp] theorem State.mapRouter_unloading (s : State) (k : Site) (f : Router → Router) : (s.mapRouter k f).unloading = s.unloading := rfl
@[simp] theorem State.mapRouter_serve (s : State) (k : Site) (f : Router → Router) : (s.mapRouter k f).serve = s.serve := rfl
@[simp] theorem State.mapRouter_weights (s : State) (k : Site) (f : Router → Router) : (s.mapRouter k f).weights = s.weights := rfl
@[simp] theorem State.mapRouter_guys (s : State) (k : Site) (f : Router → Router) : (s.mapRouter k f).guys = s.guys := rfl
@[simp] theorem State.mapRouter_transit (s : State) (k : Site) (f : Router → Router) : (s.mapRouter k f).transit = s.transit := rfl
@[simp] theorem State.mapRouter_power (s : State) (k : Site) (f : Router → Router) : (s.mapRouter k f).power = s.power := rfl
@[simp] theorem State.mapRouter_thermal (s : State) (k : Site) (f : Router → Router) : (s.mapRouter k f).thermal = s.thermal := rfl
@[simp] theorem State.mapRouter_calib (s : State) (k : Site) (f : Router → Router) : (s.mapRouter k f).calib = s.calib := rfl
@[simp] theorem State.mapRouter_errors (s : State) (k : Site) (f : Router → Router) : (s.mapRouter k f).errors = s.errors := rfl
@[simp] theorem State.mapRouter_mgmt (s : State) (k : Site) (f : Router → Router) : (s.mapRouter k f).mgmt = s.mgmt := rfl
@[simp] theorem State.mapRouter_flash (s : State) (k : Site) (f : Router → Router) : (s.mapRouter k f).flash = s.flash := rfl
@[simp] theorem State.mapRouter_freeze (s : State) (k : Site) (f : Router → Router) : (s.mapRouter k f).freeze = s.freeze := rfl
@[simp] theorem State.mapRouter_regs (s : State) (k : Site) (f : Router → Router) : (s.mapRouter k f).regs = s.regs := rfl
@[simp] theorem State.mapRouter_guardMap (s : State) (k : Site) (f : Router → Router) : (s.mapRouter k f).guardMap = s.guardMap := rfl
@[simp] theorem State.mapRouter_free (s : State) (k : Site) (f : Router → Router) : (s.mapRouter k f).free = s.free := rfl
@[simp] theorem State.mapPanel_pending (s : State) (p : Nat) (f : PanelState → PanelState) : (s.mapPanel p f).pending = s.pending := rfl
@[simp] theorem State.mapPanel_time (s : State) (p : Nat) (f : PanelState → PanelState) : (s.mapPanel p f).time = s.time := rfl
@[simp] theorem State.mapPanel_powered (s : State) (p : Nat) (f : PanelState → PanelState) : (s.mapPanel p f).powered = s.powered := rfl
@[simp] theorem State.mapPanel_resetLow (s : State) (p : Nat) (f : PanelState → PanelState) : (s.mapPanel p f).resetLow = s.resetLow := rfl
@[simp] theorem State.mapPanel_cores (s : State) (p : Nat) (f : PanelState → PanelState) : (s.mapPanel p f).cores = s.cores := rfl
@[simp] theorem State.mapPanel_routers (s : State) (p : Nat) (f : PanelState → PanelState) : (s.mapPanel p f).routers = s.routers := rfl
@[simp] theorem State.mapPanel_hostMem (s : State) (p : Nat) (f : PanelState → PanelState) : (s.mapPanel p f).hostMem = s.hostMem := rfl
@[simp] theorem State.mapPanel_linkUp (s : State) (p : Nat) (f : PanelState → PanelState) : (s.mapPanel p f).linkUp = s.linkUp := rfl
@[simp] theorem State.mapPanel_linkWidth (s : State) (p : Nat) (f : PanelState → PanelState) : (s.mapPanel p f).linkWidth = s.linkWidth := rfl
@[simp] theorem State.mapPanel_perstLow (s : State) (p : Nat) (f : PanelState → PanelState) : (s.mapPanel p f).perstLow = s.perstLow := rfl
@[simp] theorem State.mapPanel_heldWrites (s : State) (p : Nat) (f : PanelState → PanelState) : (s.mapPanel p f).heldWrites = s.heldWrites := rfl
@[simp] theorem State.mapPanel_fns (s : State) (p : Nat) (f : PanelState → PanelState) : (s.mapPanel p f).fns = s.fns := rfl
@[simp] theorem State.mapPanel_msiOut (s : State) (p : Nat) (f : PanelState → PanelState) : (s.mapPanel p f).msiOut = s.msiOut := rfl
@[simp] theorem State.mapPanel_tick (s : State) (p : Nat) (f : PanelState → PanelState) : (s.mapPanel p f).tick = s.tick := rfl
@[simp] theorem State.mapPanel_holds (s : State) (p : Nat) (f : PanelState → PanelState) : (s.mapPanel p f).holds = s.holds := rfl
@[simp] theorem State.mapPanel_zips (s : State) (p : Nat) (f : PanelState → PanelState) : (s.mapPanel p f).zips = s.zips := rfl
@[simp] theorem State.mapPanel_nextZip (s : State) (p : Nat) (f : PanelState → PanelState) : (s.mapPanel p f).nextZip = s.nextZip := rfl
@[simp] theorem State.mapPanel_loaded (s : State) (p : Nat) (f : PanelState → PanelState) : (s.mapPanel p f).loaded = s.loaded := rfl
@[simp] theorem State.mapPanel_loadPending (s : State) (p : Nat) (f : PanelState → PanelState) : (s.mapPanel p f).loadPending = s.loadPending := rfl
@[simp] theorem State.mapPanel_unloading (s : State) (p : Nat) (f : PanelState → PanelState) : (s.mapPanel p f).unloading = s.unloading := rfl
@[simp] theorem State.mapPanel_serve (s : State) (p : Nat) (f : PanelState → PanelState) : (s.mapPanel p f).serve = s.serve := rfl
@[simp] theorem State.mapPanel_weights (s : State) (p : Nat) (f : PanelState → PanelState) : (s.mapPanel p f).weights = s.weights := rfl
@[simp] theorem State.mapPanel_guys (s : State) (p : Nat) (f : PanelState → PanelState) : (s.mapPanel p f).guys = s.guys := rfl
@[simp] theorem State.mapPanel_transit (s : State) (p : Nat) (f : PanelState → PanelState) : (s.mapPanel p f).transit = s.transit := rfl
@[simp] theorem State.mapPanel_power (s : State) (p : Nat) (f : PanelState → PanelState) : (s.mapPanel p f).power = s.power := rfl
@[simp] theorem State.mapPanel_thermal (s : State) (p : Nat) (f : PanelState → PanelState) : (s.mapPanel p f).thermal = s.thermal := rfl
@[simp] theorem State.mapPanel_calib (s : State) (p : Nat) (f : PanelState → PanelState) : (s.mapPanel p f).calib = s.calib := rfl
@[simp] theorem State.mapPanel_errors (s : State) (p : Nat) (f : PanelState → PanelState) : (s.mapPanel p f).errors = s.errors := rfl
@[simp] theorem State.mapPanel_mgmt (s : State) (p : Nat) (f : PanelState → PanelState) : (s.mapPanel p f).mgmt = s.mgmt := rfl
@[simp] theorem State.mapPanel_flash (s : State) (p : Nat) (f : PanelState → PanelState) : (s.mapPanel p f).flash = s.flash := rfl
@[simp] theorem State.mapPanel_freeze (s : State) (p : Nat) (f : PanelState → PanelState) : (s.mapPanel p f).freeze = s.freeze := rfl
@[simp] theorem State.mapPanel_regs (s : State) (p : Nat) (f : PanelState → PanelState) : (s.mapPanel p f).regs = s.regs := rfl
@[simp] theorem State.mapPanel_guardMap (s : State) (p : Nat) (f : PanelState → PanelState) : (s.mapPanel p f).guardMap = s.guardMap := rfl
@[simp] theorem State.mapPanel_free (s : State) (p : Nat) (f : PanelState → PanelState) : (s.mapPanel p f).free = s.free := rfl
@[simp] theorem State.mapFn_pending (s : State) (p : Nat) (f : Fn → Fn) : (s.mapFn p f).pending = s.pending := rfl
@[simp] theorem State.mapFn_time (s : State) (p : Nat) (f : Fn → Fn) : (s.mapFn p f).time = s.time := rfl
@[simp] theorem State.mapFn_powered (s : State) (p : Nat) (f : Fn → Fn) : (s.mapFn p f).powered = s.powered := rfl
@[simp] theorem State.mapFn_resetLow (s : State) (p : Nat) (f : Fn → Fn) : (s.mapFn p f).resetLow = s.resetLow := rfl
@[simp] theorem State.mapFn_cores (s : State) (p : Nat) (f : Fn → Fn) : (s.mapFn p f).cores = s.cores := rfl
@[simp] theorem State.mapFn_routers (s : State) (p : Nat) (f : Fn → Fn) : (s.mapFn p f).routers = s.routers := rfl
@[simp] theorem State.mapFn_panels (s : State) (p : Nat) (f : Fn → Fn) : (s.mapFn p f).panels = s.panels := rfl
@[simp] theorem State.mapFn_hostMem (s : State) (p : Nat) (f : Fn → Fn) : (s.mapFn p f).hostMem = s.hostMem := rfl
@[simp] theorem State.mapFn_linkUp (s : State) (p : Nat) (f : Fn → Fn) : (s.mapFn p f).linkUp = s.linkUp := rfl
@[simp] theorem State.mapFn_linkWidth (s : State) (p : Nat) (f : Fn → Fn) : (s.mapFn p f).linkWidth = s.linkWidth := rfl
@[simp] theorem State.mapFn_perstLow (s : State) (p : Nat) (f : Fn → Fn) : (s.mapFn p f).perstLow = s.perstLow := rfl
@[simp] theorem State.mapFn_heldWrites (s : State) (p : Nat) (f : Fn → Fn) : (s.mapFn p f).heldWrites = s.heldWrites := rfl
@[simp] theorem State.mapFn_msiOut (s : State) (p : Nat) (f : Fn → Fn) : (s.mapFn p f).msiOut = s.msiOut := rfl
@[simp] theorem State.mapFn_tick (s : State) (p : Nat) (f : Fn → Fn) : (s.mapFn p f).tick = s.tick := rfl
@[simp] theorem State.mapFn_holds (s : State) (p : Nat) (f : Fn → Fn) : (s.mapFn p f).holds = s.holds := rfl
@[simp] theorem State.mapFn_zips (s : State) (p : Nat) (f : Fn → Fn) : (s.mapFn p f).zips = s.zips := rfl
@[simp] theorem State.mapFn_nextZip (s : State) (p : Nat) (f : Fn → Fn) : (s.mapFn p f).nextZip = s.nextZip := rfl
@[simp] theorem State.mapFn_loaded (s : State) (p : Nat) (f : Fn → Fn) : (s.mapFn p f).loaded = s.loaded := rfl
@[simp] theorem State.mapFn_loadPending (s : State) (p : Nat) (f : Fn → Fn) : (s.mapFn p f).loadPending = s.loadPending := rfl
@[simp] theorem State.mapFn_unloading (s : State) (p : Nat) (f : Fn → Fn) : (s.mapFn p f).unloading = s.unloading := rfl
@[simp] theorem State.mapFn_serve (s : State) (p : Nat) (f : Fn → Fn) : (s.mapFn p f).serve = s.serve := rfl
@[simp] theorem State.mapFn_weights (s : State) (p : Nat) (f : Fn → Fn) : (s.mapFn p f).weights = s.weights := rfl
@[simp] theorem State.mapFn_guys (s : State) (p : Nat) (f : Fn → Fn) : (s.mapFn p f).guys = s.guys := rfl
@[simp] theorem State.mapFn_transit (s : State) (p : Nat) (f : Fn → Fn) : (s.mapFn p f).transit = s.transit := rfl
@[simp] theorem State.mapFn_power (s : State) (p : Nat) (f : Fn → Fn) : (s.mapFn p f).power = s.power := rfl
@[simp] theorem State.mapFn_thermal (s : State) (p : Nat) (f : Fn → Fn) : (s.mapFn p f).thermal = s.thermal := rfl
@[simp] theorem State.mapFn_calib (s : State) (p : Nat) (f : Fn → Fn) : (s.mapFn p f).calib = s.calib := rfl
@[simp] theorem State.mapFn_errors (s : State) (p : Nat) (f : Fn → Fn) : (s.mapFn p f).errors = s.errors := rfl
@[simp] theorem State.mapFn_mgmt (s : State) (p : Nat) (f : Fn → Fn) : (s.mapFn p f).mgmt = s.mgmt := rfl
@[simp] theorem State.mapFn_flash (s : State) (p : Nat) (f : Fn → Fn) : (s.mapFn p f).flash = s.flash := rfl
@[simp] theorem State.mapFn_freeze (s : State) (p : Nat) (f : Fn → Fn) : (s.mapFn p f).freeze = s.freeze := rfl
@[simp] theorem State.mapFn_regs (s : State) (p : Nat) (f : Fn → Fn) : (s.mapFn p f).regs = s.regs := rfl
@[simp] theorem State.mapFn_guardMap (s : State) (p : Nat) (f : Fn → Fn) : (s.mapFn p f).guardMap = s.guardMap := rfl
@[simp] theorem State.mapFn_free (s : State) (p : Nat) (f : Fn → Fn) : (s.mapFn p f).free = s.free := rfl
@[simp] theorem State.mapGuy_pending (s : State) (p : Nat) (f : Guy → Guy) : (s.mapGuy p f).pending = s.pending := rfl
@[simp] theorem State.mapGuy_time (s : State) (p : Nat) (f : Guy → Guy) : (s.mapGuy p f).time = s.time := rfl
@[simp] theorem State.mapGuy_powered (s : State) (p : Nat) (f : Guy → Guy) : (s.mapGuy p f).powered = s.powered := rfl
@[simp] theorem State.mapGuy_resetLow (s : State) (p : Nat) (f : Guy → Guy) : (s.mapGuy p f).resetLow = s.resetLow := rfl
@[simp] theorem State.mapGuy_cores (s : State) (p : Nat) (f : Guy → Guy) : (s.mapGuy p f).cores = s.cores := rfl
@[simp] theorem State.mapGuy_routers (s : State) (p : Nat) (f : Guy → Guy) : (s.mapGuy p f).routers = s.routers := rfl
@[simp] theorem State.mapGuy_panels (s : State) (p : Nat) (f : Guy → Guy) : (s.mapGuy p f).panels = s.panels := rfl
@[simp] theorem State.mapGuy_hostMem (s : State) (p : Nat) (f : Guy → Guy) : (s.mapGuy p f).hostMem = s.hostMem := rfl
@[simp] theorem State.mapGuy_linkUp (s : State) (p : Nat) (f : Guy → Guy) : (s.mapGuy p f).linkUp = s.linkUp := rfl
@[simp] theorem State.mapGuy_linkWidth (s : State) (p : Nat) (f : Guy → Guy) : (s.mapGuy p f).linkWidth = s.linkWidth := rfl
@[simp] theorem State.mapGuy_perstLow (s : State) (p : Nat) (f : Guy → Guy) : (s.mapGuy p f).perstLow = s.perstLow := rfl
@[simp] theorem State.mapGuy_heldWrites (s : State) (p : Nat) (f : Guy → Guy) : (s.mapGuy p f).heldWrites = s.heldWrites := rfl
@[simp] theorem State.mapGuy_fns (s : State) (p : Nat) (f : Guy → Guy) : (s.mapGuy p f).fns = s.fns := rfl
@[simp] theorem State.mapGuy_msiOut (s : State) (p : Nat) (f : Guy → Guy) : (s.mapGuy p f).msiOut = s.msiOut := rfl
@[simp] theorem State.mapGuy_tick (s : State) (p : Nat) (f : Guy → Guy) : (s.mapGuy p f).tick = s.tick := rfl
@[simp] theorem State.mapGuy_holds (s : State) (p : Nat) (f : Guy → Guy) : (s.mapGuy p f).holds = s.holds := rfl
@[simp] theorem State.mapGuy_zips (s : State) (p : Nat) (f : Guy → Guy) : (s.mapGuy p f).zips = s.zips := rfl
@[simp] theorem State.mapGuy_nextZip (s : State) (p : Nat) (f : Guy → Guy) : (s.mapGuy p f).nextZip = s.nextZip := rfl
@[simp] theorem State.mapGuy_loaded (s : State) (p : Nat) (f : Guy → Guy) : (s.mapGuy p f).loaded = s.loaded := rfl
@[simp] theorem State.mapGuy_loadPending (s : State) (p : Nat) (f : Guy → Guy) : (s.mapGuy p f).loadPending = s.loadPending := rfl
@[simp] theorem State.mapGuy_unloading (s : State) (p : Nat) (f : Guy → Guy) : (s.mapGuy p f).unloading = s.unloading := rfl
@[simp] theorem State.mapGuy_serve (s : State) (p : Nat) (f : Guy → Guy) : (s.mapGuy p f).serve = s.serve := rfl
@[simp] theorem State.mapGuy_weights (s : State) (p : Nat) (f : Guy → Guy) : (s.mapGuy p f).weights = s.weights := rfl
@[simp] theorem State.mapGuy_transit (s : State) (p : Nat) (f : Guy → Guy) : (s.mapGuy p f).transit = s.transit := rfl
@[simp] theorem State.mapGuy_power (s : State) (p : Nat) (f : Guy → Guy) : (s.mapGuy p f).power = s.power := rfl
@[simp] theorem State.mapGuy_thermal (s : State) (p : Nat) (f : Guy → Guy) : (s.mapGuy p f).thermal = s.thermal := rfl
@[simp] theorem State.mapGuy_calib (s : State) (p : Nat) (f : Guy → Guy) : (s.mapGuy p f).calib = s.calib := rfl
@[simp] theorem State.mapGuy_errors (s : State) (p : Nat) (f : Guy → Guy) : (s.mapGuy p f).errors = s.errors := rfl
@[simp] theorem State.mapGuy_mgmt (s : State) (p : Nat) (f : Guy → Guy) : (s.mapGuy p f).mgmt = s.mgmt := rfl
@[simp] theorem State.mapGuy_flash (s : State) (p : Nat) (f : Guy → Guy) : (s.mapGuy p f).flash = s.flash := rfl
@[simp] theorem State.mapGuy_freeze (s : State) (p : Nat) (f : Guy → Guy) : (s.mapGuy p f).freeze = s.freeze := rfl
@[simp] theorem State.mapGuy_regs (s : State) (p : Nat) (f : Guy → Guy) : (s.mapGuy p f).regs = s.regs := rfl
@[simp] theorem State.mapGuy_guardMap (s : State) (p : Nat) (f : Guy → Guy) : (s.mapGuy p f).guardMap = s.guardMap := rfl
@[simp] theorem State.mapGuy_free (s : State) (p : Nat) (f : Guy → Guy) : (s.mapGuy p f).free = s.free := rfl

end Sys2Proof.Machine
end

