-- ==== Sys2Proof/Laws/Core.lean ====
section
/-! SUPPORT. What a core at rest does with one instruction: a queue's instruction is dispatched, issues and acts; a
control instruction is run by the front end (R98 to R102, R140). -/

namespace Sys2Proof.Machine

/-- The parts of `rest`. -/
theorem Core.rest_iff (c : Core) : c.rest = true ↔
    c.stream = [] ∧ c.aq = [] ∧ c.vq = [] ∧ c.tq = [] ∧ c.loops = [] ∧ c.posted = [] ∧ c.landing = [] ∧
      c.settled = true ∧ c.heldSignals = [] ∧ c.stopped = [] ∧ c.atBarrier = false ∧ c.rep.lossMode = false ∧
      c.badParity = [] := by
  simp [Core.rest, and_assoc]

/-- The parts of `calm`. -/
theorem Core.calm_iff (c d : Core) : c.calm d = true ↔
    d.stream = [] ∧ d.aq = [] ∧ d.vq = [] ∧ d.tq = [] ∧ d.settled = true ∧ d.heldSignals = [] ∧ d.t = c.t := by
  simp [Core.calm, and_assoc]

@[simp] theorem Core.setQueue_stream (c : Core) (q : QueueId) (l : List QEntry) : (c.setQueue q l).stream = c.stream := by
  cases q <;> rfl

@[simp] theorem Core.setQueue_stopped (c : Core) (q : QueueId) (l : List QEntry) : (c.setQueue q l).stopped = c.stopped := by
  cases q <;> rfl

@[simp] theorem Core.setQueue_heldSignals (c : Core) (q : QueueId) (l : List QEntry) : (c.setQueue q l).heldSignals = c.heldSignals := by
  cases q <;> rfl

@[simp] theorem Core.setQueue_landing (c : Core) (q : QueueId) (l : List QEntry) : (c.setQueue q l).landing = c.landing := by
  cases q <;> rfl

@[simp] theorem Core.setQueue_posted (c : Core) (q : QueueId) (l : List QEntry) : (c.setQueue q l).posted = c.posted := by
  cases q <;> rfl

@[simp] theorem Core.setQueue_inflight (c : Core) (q : QueueId) (l : List QEntry) : (c.setQueue q l).inflight = c.inflight := by
  cases q <;> rfl

@[simp] theorem Core.setQueue_tab (c : Core) (q : QueueId) (l : List QEntry) : (c.setQueue q l).tab = c.tab := by
  cases q <;> rfl

@[simp] theorem Core.setQueue_halted (c : Core) (q : QueueId) (l : List QEntry) : (c.setQueue q l).halted = c.halted := by
  cases q <;> rfl

@[simp] theorem Core.setQueue_rep (c : Core) (q : QueueId) (l : List QEntry) : (c.setQueue q l).rep = c.rep := by
  cases q <;> rfl

@[simp] theorem Core.setQueue_badParity (c : Core) (q : QueueId) (l : List QEntry) : (c.setQueue q l).badParity = c.badParity := by
  cases q <;> rfl

@[simp] theorem Core.setQueue_t (c : Core) (q : QueueId) (l : List QEntry) : (c.setQueue q l).t = c.t := by
  cases q <;> rfl

@[simp] theorem Core.setQueue_atBarrier (c : Core) (q : QueueId) (l : List QEntry) : (c.setQueue q l).atBarrier = c.atBarrier := by
  cases q <;> rfl

@[simp] theorem Core.setQueue_loops (c : Core) (q : QueueId) (l : List QEntry) : (c.setQueue q l).loops = c.loops := by
  cases q <;> rfl

@[simp] theorem Core.setQueue_idx (c : Core) (q : QueueId) (l : List QEntry) : (c.setQueue q l).idx = c.idx := by
  cases q <;> rfl

theorem issueHead_empty (s : State) (k : Site) (q : QueueId) (h : (s.core k).queue q = []) : issueHead s k q = none := by
  simp only [issueHead, h]

theorem dispatchHead_empty (s : State) (k : Site) (h : (s.core k).stream = []) : dispatchHead s k = none := by
  simp only [dispatchHead, h]

/-- A round in which the first to move is `f`, the rest finding nothing to do: stated queue by queue. -/
theorem pumpRound_eq (s : State) (k : Site) (a b c d : State × Bool) (hs : (s.core k).heldSignals = [])
    (h1 : (match issueHead s k .array with | some t => (t, true) | none => (s, false)) = a)
    (h2 : (match issueHead a.1 k .vector with | some t => (t, true) | none => a) = b)
    (h3 : (match issueHead b.1 k .transfer with | some t => (t, true) | none => b) = c)
    (h4 : (match dispatchHead c.1 k with | some t => (t, true) | none => c) = d) : pumpRound s k = d := by
  have r : s.retrySignals k = s := by simp only [State.retrySignals, hs, List.isEmpty_nil, if_true]
  subst h1 h2 h3 h4
  unfold pumpRound
  rw [r]
  rfl

theorem pump_stop (k : Site) (n : Nat) (s : State) (h : pumpRound s k = (s, false)) : pump k (n + 1) s = s := by
  unfold pump
  rw [h]
  simp

theorem pump_go (k : Site) (n : Nat) (s t : State) (hr : s.coreRuns k = true) (h : pumpRound s k = (t, true)) :
    pump k (n + 1) s = pump k n (t.promote k) := by
  conv => lhs; unfold pump
  rw [h, hr]
  simp

/-- A core with nothing in its stream or queues does nothing more. -/
theorem pump_empty (k : Site) (n : Nat) (s : State) (h1 : (s.core k).stream = []) (h2 : (s.core k).aq = [])
    (h3 : (s.core k).vq = []) (h4 : (s.core k).tq = []) (h5 : (s.core k).heldSignals = []) : pump k n s = s := by
  cases n with
  | zero => rfl
  | succ n =>
    refine pump_stop k n s (pumpRound_eq s k (s, false) (s, false) (s, false) (s, false) h5 ?_ ?_ ?_ ?_)
    · rw [issueHead_empty s k .array h2]
    · rw [issueHead_empty s k .vector h3]
    · rw [issueHead_empty s k .transfer h4]
    · rw [dispatchHead_empty s k h1]

/-- Where no tile can move, none does. -/
theorem State.promote_settled (s : State) (k : Site) (h : (s.core k).settled = true) : s.promote k = s := by
  unfold State.promote
  unfold Core.settled at h
  dsimp only
  split
  · rename_i fl h1 h2
    rw [h1, h2] at h
    split
    · rename_i t ht
      simp [ht] at h
    · rfl
  · rfl

theorem State.coreReady_iff (s : State) (k : Site) (op : CoreOp) (w : BitVec 56) : s.coreReady k op w = true ↔
    k.ok ∧ s.coreRuns k = true ∧ (s.core k).rest = true ∧ s.debug = false ∧
      (s.kindWords k = [] ∨ (s.core k).idx < (s.kindWords k).length) ∧ legalWord op w = true := by
  simp only [State.coreReady, State.coreFront, Bool.and_eq_true, decide_eq_true_eq, Bool.or_eq_true, Bool.not_eq_true',
    List.isEmpty_iff]
  exact ⟨fun ⟨⟨⟨⟨⟨a, b⟩, c⟩, d⟩, e⟩, f⟩ => ⟨a, b, c, f, d, e⟩, fun ⟨a, b, c, f, d, e⟩ => ⟨⟨⟨⟨⟨a, b⟩, c⟩, d⟩, e⟩, f⟩⟩

theorem State.coreFront_iff (s : State) (k : Site) (op : CoreOp) (w : BitVec 56) : s.coreFront k op w = true ↔
    k.ok ∧ s.coreRuns k = true ∧ (s.core k).rest = true ∧
      (s.kindWords k = [] ∨ (s.core k).idx < (s.kindWords k).length) ∧ legalWord op w = true := by
  simp [State.coreFront, and_assoc]

/-- Dispatch of a queue's instruction by a core at rest (R98). -/
theorem dispatch_queue (s : State) (k : Site) (op : CoreOp) (w : BitVec 56) (h : s.coreReady k op w = true)
    (hq : op.queue ≠ .front) :
    dispatchHead (s.setCore k { s.core k with stream := [s.coreEntry k op w] }) k =
      some (s.setCore k (({ s.core k with idx := (s.core k).idx + 1, dispatched := (s.core k).dispatched + 1 } : Core).setQueue
        op.queue [s.coreEntry k op w])) := by
  obtain ⟨hk, hr, hrest, hd, hw, hl⟩ := (s.coreReady_iff k op w).mp h
  obtain ⟨h1, h2, h3, h4, h5, h6, h7, h8, h9, h10, h11, h12, h13⟩ := (Core.rest_iff _).mp hrest
  have hk' : (s.setCore k { s.core k with stream := [s.coreEntry k op w] }).kindWords k = s.kindWords k := by
    simp [State.kindWords]
  have hn : ¬ (0 < (s.kindWords k).length ∧ (s.kindWords k).length ≤ (s.core k).idx) := by
    rcases hw with hw | hw
    · simp [hw]
    · omega
  unfold dispatchHead
  simp only [State.core_setCore_same, h9, h10, h11, h13]
  simp only [State.coreEntry, List.not_mem_nil, List.any_nil, Bool.false_eq_true, or_self, if_false, hl, Bool.not_true]
  cases hq' : op.queue <;> simp_all [Core.queue, Core.setQueue, Core.advance, nextFetch, State.coreEntry]

theorem Core.badIn_none (c : Core) (h : c.badParity = []) (st a n : Nat) : c.badIn st a n = none := by
  simp [Core.badIn, h]

theorem Core.parityFault_none (c : Core) (h : c.badParity = []) (l : List Acc) : c.parityFault l = none := by
  simp [Core.parityFault, Core.badIn_none c h]

/-- The state with one instruction taken from the queue it stood in alone. -/
theorem took_eq (s : State) (k : Site) (q : QueueId) (e : QEntry) (h : (s.core k).rest = true) :
    let c := ({ s.core k with idx := (s.core k).idx + 1, dispatched := (s.core k).dispatched + 1 } : Core).setQueue q [e]
    ({ c.setQueue q [] with issued := c.issued + 1 } : Core) =
      { s.core k with idx := (s.core k).idx + 1, dispatched := (s.core k).dispatched + 1, issued := (s.core k).issued + 1 } := by
  obtain ⟨h1, h2, h3, h4, h5, h6, h7, h8, h9, h10, h11, h12, h13⟩ := (Core.rest_iff _).mp h
  generalize s.core k = c at *
  cases c
  simp only at *
  subst_vars
  cases q <;> rfl

/-- The head of a queue issues and acts. -/
theorem issue_queue (s : State) (k : Site) (op : CoreOp) (w : BitVec 56) (u : Option State) (h : s.coreIssues k op w = true)
    (hq : op.queue ≠ .front)
    (hrun : finish (s.coreTook k) k op.queue (s.coreEntry k op w) (runOp (s.coreTook k) k (s.coreEntry k op w) false) = u) :
    issueHead (s.setCore k (({ s.core k with idx := (s.core k).idx + 1, dispatched := (s.core k).dispatched + 1 } : Core).setQueue
        op.queue [s.coreEntry k op w])) k op.queue = u := by
  simp only [State.coreIssues, Bool.and_eq_true, Bool.not_eq_true'] at h
  obtain ⟨⟨⟨h, hwe⟩, hse⟩, hpe⟩ := h
  obtain ⟨hk, hr, hrest, hd, hw, hl⟩ := (s.coreReady_iff k op w).mp h
  have htook := took_eq s k op.queue (s.coreEntry k op w) hrest
  obtain ⟨h1, h2, h3, h4, h5, h6, h7, h8, h9, h10, h11, h12, h13⟩ := (Core.rest_iff _).mp hrest
  simp only at htook
  generalize hc : (({ s.core k with idx := (s.core k).idx + 1, dispatched := (s.core k).dispatched + 1 } : Core).setQueue
        op.queue [s.coreEntry k op w]) = c at *
  have e1 : c.queue op.queue = [s.coreEntry k op w] := by
    rw [← hc]
    cases hq' : op.queue
    · rfl
    · rfl
    · rfl
    · exact absurd hq' hq
  have e2 : c.stopped = [] := by rw [← hc, Core.setQueue_stopped]; exact h10
  have e3 : c.heldSignals = [] := by rw [← hc, Core.setQueue_heldSignals]; exact h9
  have e4 : c.landing = [] := by rw [← hc, Core.setQueue_landing]; exact h7
  have e5 : c.fuseOk op.queue (s.coreEntry k op w) = true := by
    rw [← hc]
    cases op.queue
    · simp only [Core.fuseOk, Core.setQueue, h3, List.all_nil, Bool.or_true]
    · simp only [Core.fuseOk, Core.setQueue, h2, List.all_nil]
    · rfl
    · rfl
  have e6 : c.landingDead (s.coreEntry k op w) = false := by
    simp only [Core.landingDead, e4, List.length_nil, Nat.reduceBEq, Bool.and_false, Bool.false_and]
  have hop : (s.coreEntry k op w).op = op := rfl
  have hwd : (s.coreEntry k op w).word = w := rfl
  have hs' : (s.setCore k c).setCore k ({ c.setQueue op.queue [] with issued := c.issued + 1 } : Core) = s.coreTook k := by
    rw [State.setCore_setCore, htook]; rfl
  have hpe' : (wPE w && !op.lanes) = false := by
    cases hx : wPE w <;> simp_all
  unfold issueHead
  simp only [State.core_setCore_same, e1, e2, e3, e5, e6, hop, hwd, hwe, List.not_mem_nil, List.any_nil, Bool.false_and,
    Bool.false_eq_true, or_self, and_false, if_false, Bool.not_true, hpe', hs']
  have hd' : (s.coreTook k).debug = false := by simpa [State.debug, State.coreTook, State.mapCore] using hd
  have hl' : ((s.coreTook k).core k).rep.lossMode = false := by simpa [State.coreTook] using h12
  have hb' : ((s.coreTook k).core k).badParity = [] := by simpa [State.coreTook] using h13
  simp only [Bool.or_self, Bool.false_eq_true, if_false, act, hd', hl', Core.parityFault_none _ hb', hrun]

/-- A signal touches tokens and held signals alone; a count below 255 rises. -/
theorem Core.signal_leaves (c : Core) (q : QueueId) (i : Nat) :
    (c.signal q i).stream = c.stream ∧ (c.signal q i).aq = c.aq ∧ (c.signal q i).vq = c.vq ∧ (c.signal q i).tq = c.tq ∧
      (c.signal q i).settled = c.settled ∧ (c.tok i < 255 → (c.signal q i).heldSignals = c.heldSignals) := by
  unfold Core.signal
  split
  · exact ⟨rfl, rfl, rfl, rfl, rfl, fun _ => rfl⟩
  · rename_i hn
    exact ⟨rfl, rfl, rfl, rfl, rfl, fun hl => absurd hl hn⟩

/-- What completing an instruction leaves of its core: everything but tokens, held signals and slot tags. -/
theorem complete_core (t : State) (k : Site) (q : QueueId) (w : BitVec 56) :
    ((t.complete k q w).core k).stream = (t.core k).stream ∧ ((t.complete k q w).core k).aq = (t.core k).aq ∧
      ((t.complete k q w).core k).vq = (t.core k).vq ∧ ((t.complete k q w).core k).tq = (t.core k).tq ∧
      ((t.complete k q w).core k).settled = (t.core k).settled ∧
      ((wSE w = true → (t.core k).tok (wST w) < 255) → ((t.complete k q w).core k).heldSignals = (t.core k).heldSignals) := by
  unfold State.complete
  by_cases hw : wSE w = true
  · by_cases hd : t.debug = true
    · obtain ⟨a, b, c, d, e, f⟩ := Core.signal_leaves ((t.core k).releaseTags q) q (wST w)
      simpa [hw, hd] using ⟨a, b, c, d, e, f⟩
    · obtain ⟨a, b, c, d, e, f⟩ := Core.signal_leaves (t.core k) q (wST w)
      simpa [hw, hd] using ⟨a, b, c, d, e, f⟩
  · simp [hw]

/-- A core at rest runs a queue's instruction at once: it is dispatched, issues and acts, and nothing is left to move. -/
theorem fetched_acts (s : State) (k : Site) (op : CoreOp) (w : BitVec 56) (u : State) (h : s.coreIssues k op w = true)
    (hq : op.queue ≠ .front)
    (hrun : finish (s.coreTook k) k op.queue (s.coreEntry k op w) (runOp (s.coreTook k) k (s.coreEntry k op w) false) = some u)
    (hi : (u.core k).idle) (hp : u.promote k = u) : s.fetched k op w = u := by
  have h' := h
  simp only [State.coreIssues, Bool.and_eq_true, Bool.not_eq_true', Bool.or_eq_true, decide_eq_true_eq] at h'
  obtain ⟨⟨⟨hready, hwe⟩, hse⟩, hpe⟩ := h'
  obtain ⟨hk, hr, hrest, hd, hw, hl⟩ := (s.coreReady_iff k op w).mp hready
  have hdisp := dispatch_queue s k op w hready hq
  have hiss := issue_queue s k op w (some u) h hq hrun
  obtain ⟨d1, d2, d3, d4, d7⟩ := hi
  obtain ⟨h1, h2, h3, h4, h5, h6, h7, h8, h9, h10, h11, h12, h13⟩ := (Core.rest_iff _).mp hrest
  have hwork : ∀ c : Core, c.stream = [s.coreEntry k op w] → c.aq = [] → c.vq = [] → c.tq = [] → c.work = 12 := by
    intro c a1 a2 a3 a4; simp [Core.work, a1, a2, a3, a4]
  unfold State.fetched
  simp only [hr, Bool.not_true, Bool.false_eq_true, if_false]
  have hs0 : (s.setCore k { s.core k with stream := (s.core k).stream ++
      [{ op := op, word := w, idx := (s.core k).idx, ord := (s.core k).dispatched, s := (s.core k).s, a := (s.core k).a }] }) =
      s.setCore k { s.core k with stream := [s.coreEntry k op w] } := by
    rw [h1]; rfl
  rw [hs0, State.pumpCore, State.core_setCore_same, hwork { s.core k with stream := [s.coreEntry k op w] } rfl h2 h3 h4]
  generalize hs1 : (s.setCore k { s.core k with stream := [s.coreEntry k op w] }) = s1 at *
  generalize hs2 : (s.setCore k (({ s.core k with idx := (s.core k).idx + 1, dispatched := (s.core k).dispatched + 1 } : Core).setQueue
        op.queue [s.coreEntry k op w])) = s2 at *
  have r1 : s1.coreRuns k = true := by
    subst hs1; simpa [State.coreRuns, State.clocksStopped] using hr
  have r2 : s2.coreRuns k = true := by
    subst hs2
    cases op.queue <;> simpa [State.coreRuns, State.clocksStopped, Core.setQueue] using hr
  have b1 : (s1.core k).heldSignals = [] := by subst hs1; simpa using h9
  have b2 : (s2.core k).heldSignals = [] := by subst hs2; cases op.queue <;> simpa [Core.setQueue] using h9
  have b3 : (s2.core k).settled = true := by
    rw [← hs2, State.core_setCore_same]; cases op.queue <;> exact h8
  have q1 : ∀ q, q ≠ .front → (s1.core k).queue q = [] := by
    intro q hne
    rw [← hs1, State.core_setCore_same]
    cases q
    · exact h2
    · exact h3
    · exact h4
    · exact absurd rfl hne
  have q2 : ∀ q, q ≠ op.queue → (s2.core k).queue q = [] := by
    intro q hne
    rw [← hs2, State.core_setCore_same]
    cases hq' : op.queue <;> cases q <;> first | exact absurd hq'.symm hne | exact h2 | exact h3 | exact h4 | rfl
  have q3 : ∀ q, (u.core k).queue q = [] := by
    intro q
    cases q
    · exact d2
    · exact d3
    · exact d4
    · rfl
  have f1 : dispatchHead s2 k = none := by
    apply dispatchHead_empty; rw [← hs2, State.core_setCore_same, Core.setQueue_stream]; exact h1
  have f2 : dispatchHead u k = none := dispatchHead_empty _ _ d1
  have g1 : pumpRound s1 k = (s2, true) := by
    refine pumpRound_eq s1 k (s1, false) (s1, false) (s1, false) (s2, true) b1 ?_ ?_ ?_ ?_
    · rw [issueHead_empty s1 k .array (q1 _ (by simp))]
    · rw [issueHead_empty s1 k .vector (q1 _ (by simp))]
    · rw [issueHead_empty s1 k .transfer (q1 _ (by simp))]
    · rw [hdisp]
  have g2 : pumpRound s2 k = (u, true) := by
    cases hq' : op.queue with
    | front => exact absurd hq' hq
    | array =>
      rw [hq'] at hiss q2
      refine pumpRound_eq s2 k (u, true) (u, true) (u, true) (u, true) b2 ?_ ?_ ?_ ?_
      · rw [hiss]
      · rw [issueHead_empty u k .vector (q3 _)]
      · rw [issueHead_empty u k .transfer (q3 _)]
      · rw [f2]
    | vector =>
      rw [hq'] at hiss q2
      refine pumpRound_eq s2 k (s2, false) (u, true) (u, true) (u, true) b2 ?_ ?_ ?_ ?_
      · rw [issueHead_empty s2 k .array (q2 _ (by simp))]
      · rw [hiss]
      · rw [issueHead_empty u k .transfer (q3 _)]
      · rw [f2]
    | transfer =>
      rw [hq'] at hiss q2
      refine pumpRound_eq s2 k (s2, false) (s2, false) (u, true) (u, true) b2 ?_ ?_ ?_ ?_
      · rw [issueHead_empty s2 k .array (q2 _ (by simp))]
      · rw [issueHead_empty s2 k .vector (q2 _ (by simp))]
      · rw [hiss]
      · rw [f2]
  rw [pump_go k 11 s1 s2 r1 g1, State.promote_settled s2 k b3, pump_go k 10 s2 _ r2 g2, hp]
  exact pump_empty k 10 _ d1 d2 d3 d4 d7

/-- The instruction of a queue that is done when it has acted: it completes with its signal. -/
theorem fetched_queue (s : State) (k : Site) (op : CoreOp) (w : BitVec 56) (t : State) (h : s.coreIssues k op w = true)
    (hq : op.queue ≠ .front) (hrun : runOp (s.coreTook k) k (s.coreEntry k op w) false = .ok t)
    (hcalm : (s.core k).calm (t.core k) = true) : s.fetched k op w = t.complete k op.queue w := by
  obtain ⟨c1, c2, c3, c4, c5, c6, c7⟩ := (Core.calm_iff _ _).mp hcalm
  obtain ⟨d1, d2, d3, d4, d5, d6⟩ := complete_core t k op.queue w
  have h' := h
  simp only [State.coreIssues, Bool.and_eq_true, Bool.or_eq_true, Bool.not_eq_true', decide_eq_true_eq] at h'
  refine fetched_acts s k op w _ h hq ?_ ⟨d1.trans c1, d2.trans c2, d3.trans c3, d4.trans c4, (d6 ?_).trans c6⟩
    (State.promote_settled _ _ (d5.trans c5))
  · rw [hrun]; rfl
  · intro hx
    have : (t.core k).tok (wST w) = (s.core k).tok (wST w) := by simp only [Core.tok, c7]
    rw [this]
    rcases h'.1.2 with hse | hse
    · simp [hx] at hse
    · exact hse

/-- The front end reaches the control instruction that is alone in the stream (R98, R203). -/
theorem dispatch_front (s : State) (k : Site) (x : QEntry) (R : Option State) (hs : (s.core k).stream = [x])
    (h1 : (s.core k).stopped = [])
    (h2 : (s.core k).atBarrier = false) (h3 : (s.core k).heldSignals = []) (h4 : (s.core k).badParity = [])
    (h5 : ¬(0 < (s.kindWords k).length ∧ (s.kindWords k).length ≤ (s.core k).idx)) (h6 : legalWord x.op x.word = true)
    (h7 : x.op.queue = .front)
    (hR : (match runCtl (s.setCore k { s.core k with stream := [], issued := (s.core k).issued + 1 }) k
          { x with idx := (s.core k).idx, ord := (s.core k).dispatched, s := (s.core k).s, a := (s.core k).a } with
      | .ran t i => some (t.mapCore k fun c => c.advance i)
      | .jumped t => some t
      | .stall => none
      | .illegal => some ((s.setCore k { s.core k with stream := [], issued := (s.core k).issued + 1 }).illegal k .front
          { x with idx := (s.core k).idx, ord := (s.core k).dispatched, s := (s.core k).s, a := (s.core k).a })) = R) :
    dispatchHead s k = R := by
  have c1 : ¬(QueueId.front ∈ (s.core k).stopped ∨ (s.core k).atBarrier = true ∨
      ((s.core k).heldSignals.any fun y => y.1 == QueueId.front) = true) := by
    rw [h1, h2, h3]; simp
  have c2 : ¬(3, (s.core k).idx) ∈ (s.core k).badParity := by rw [h4]; simp
  have c3 : ¬(!legalWord x.op x.word) = true := by rw [h6]; simp
  rw [← hR]
  clear hR
  unfold dispatchHead
  simp only [hs]
  rw [if_neg c1, if_neg h5, if_neg c2, if_neg c3]
  simp only [h7]
  all_goals rfl

/-- A control instruction that a core at rest runs: fetch goes on behind instruction `i` (R201, R203). -/
theorem fetched_front (s : State) (k : Site) (op : CoreOp) (w : BitVec 56) (u : State) (h : s.coreFront k op w = true)
    (hq : op.queue = .front)
    (hrun : (match runCtl (s.coreTookFront k) k (s.coreEntry k op w) with
      | .ran t i => some (t.mapCore k fun c => c.advance i)
      | .jumped t => some t
      | .stall => none
      | .illegal => some ((s.coreTookFront k).illegal k .front (s.coreEntry k op w))) = some u)
    (hi : (u.core k).idle) (hp : u.promote k = u) : s.fetched k op w = u := by
  obtain ⟨hk, hr, hrest, hw, hl⟩ := (s.coreFront_iff k op w).mp h
  obtain ⟨h1, h2, h3, h4, h5, h6, h7, h8, h9, h10, h11, h12, h13⟩ := (Core.rest_iff _).mp hrest
  obtain ⟨d1, d2, d3, d4, d7⟩ := hi
  unfold State.fetched
  simp only [hr, Bool.not_true, Bool.false_eq_true, if_false]
  have hs0 : (s.setCore k { s.core k with stream := (s.core k).stream ++
      [{ op := op, word := w, idx := (s.core k).idx, ord := (s.core k).dispatched, s := (s.core k).s, a := (s.core k).a }] }) =
      s.setCore k { s.core k with stream := [s.coreEntry k op w] } := by
    rw [h1]; rfl
  have hwork : ({ s.core k with stream := [s.coreEntry k op w] } : Core).work = 12 := by simp [Core.work, h2, h3, h4]
  rw [hs0, State.pumpCore, State.core_setCore_same, hwork]
  have hs3 : (s.setCore k { s.core k with stream := [s.coreEntry k op w] }).setCore k
      { s.core k with stream := [], issued := (s.core k).issued + 1 } = s.coreTookFront k := by
    rw [State.setCore_setCore, State.coreTookFront, State.mapCore_eq]
    congr 1
    generalize s.core k = c at *
    cases c
    simp only at *
    rw [h1]
  have hn : ¬ (0 < (s.kindWords k).length ∧ (s.kindWords k).length ≤ (s.core k).idx) := by
    rcases hw with hw | hw
    · simp [hw]
    · omega
  have hdisp : dispatchHead (s.setCore k { s.core k with stream := [s.coreEntry k op w] }) k = some u := by
    have hc : (s.setCore k { s.core k with stream := [s.coreEntry k op w] }).core k =
        { s.core k with stream := [s.coreEntry k op w] } := State.core_setCore_same ..
    have hk' : (s.setCore k { s.core k with stream := [s.coreEntry k op w] }).kindWords k = s.kindWords k := by
      simp [State.kindWords]
    refine dispatch_front _ k (s.coreEntry k op w) _ (by rw [hc]) (by rw [hc]; exact h10) (by rw [hc]; exact h11)
      (by rw [hc]; exact h9) (by rw [hc]; exact h13) (by rw [hc, hk']; exact hn) hl hq ?_
    rw [hc, hs3]
    exact hrun
  generalize hs1 : (s.setCore k { s.core k with stream := [s.coreEntry k op w] }) = s1 at *
  have r1 : s1.coreRuns k = true := by
    subst hs1; simpa [State.coreRuns, State.clocksStopped] using hr
  have b1 : (s1.core k).heldSignals = [] := by rw [← hs1, State.core_setCore_same]; exact h9
  have q1 : ∀ q, (s1.core k).queue q = [] := by
    intro q
    rw [← hs1, State.core_setCore_same]
    cases q
    · exact h2
    · exact h3
    · exact h4
    · rfl
  have g1 : pumpRound s1 k = (u, true) := by
    refine pumpRound_eq s1 k (s1, false) (s1, false) (s1, false) (u, true) b1 ?_ ?_ ?_ ?_
    · rw [issueHead_empty s1 k .array (q1 _)]
    · rw [issueHead_empty s1 k .vector (q1 _)]
    · rw [issueHead_empty s1 k .transfer (q1 _)]
    · rw [hdisp]
  rw [pump_go k 11 s1 u r1 g1, hp]
  exact pump_empty k 11 _ d1 d2 d3 d4 d7

end Sys2Proof.Machine
end

