-- ==== Sys2Proof/Laws/Vector.lean ====
section
/-! SUPPORT. What a queue's instruction does, seen from its command, and the lanes of vector registers. -/

namespace Sys2Proof.Machine

theorem onUnit_next {ok : Prop} [Decidable ok] (h : ok) (s : State) (f : State → State) :
    onUnit ok s f = .next ((f s).withQueueOf s) := if_pos h

/-- A command that names units the module has does what its meaning says. -/
theorem exec_unit (i : Instr) (s : State) {ok : Prop} {inst : Decidable ok} (f : State → State)
    (hi : exec i s = @onUnit ok inst s f) (h : ok) : exec i s = .next ((f s).withQueueOf s) := by
  rw [hi, onUnit_next h]

theorem State.coreIssues_ready (s : State) (k : Site) (op : CoreOp) (w : BitVec 56) (h : s.coreIssues k op w = true) :
    s.coreReady k op w = true := by
  simp only [State.coreIssues, Bool.and_eq_true] at h
  exact h.1.1.1

theorem State.coreIssues_ok (s : State) (k : Site) (op : CoreOp) (w : BitVec 56) (h : s.coreIssues k op w = true) : k.ok :=
  ((s.coreReady_iff k op w).mp (s.coreIssues_ready k op w h)).1

theorem State.coreIssues_rest (s : State) (k : Site) (op : CoreOp) (w : BitVec 56) (h : s.coreIssues k op w = true) :
    (s.core k).rest = true := ((s.coreReady_iff k op w).mp (s.coreIssues_ready k op w h)).2.2.1

/-- The command of a queue's instruction at a core at rest, for an instruction that is done when it has acted. -/
theorem onUnit_queue (s : State) (k : Site) (op : CoreOp) (w : BitVec 56) (t : State) (h : s.coreIssues k op w = true)
    (hq : op.queue ≠ .front) (hrun : runOp (s.coreTook k) k (s.coreEntry k op w) false = .ok t)
    (hcalm : (s.core k).calm (t.core k) = true) :
    onUnit k.ok s (fun s => s.fetched k op w) = .next ((t.complete k op.queue w).withQueueOf s) := by
  rw [onUnit_next (s.coreIssues_ok k op w h), fetched_queue s k op w t h hq hrun hcalm]

theorem lane_vregOf (f : Nat → Word) (i : Nat) (h : i < 64) : lane (vregOf ((List.range 64).map f)) i = f i := by
  simp [lane, vregOf, h]

theorem blend_lanes (mask : DWord) (old : VReg) (f : Nat → Word) :
    blend mask old (vregOf ((List.range 64).map f)) =
      vregOf ((List.range 64).map fun i => if mask.getLsbD i then f i else lane old i) := by
  refine congrArg vregOf (List.map_congr_left fun i hi => ?_)
  rw [lane_vregOf f i (List.mem_range.mp hi)]

/-- Sampled duplication leaves what `calm` speaks of. -/
theorem calm_dupNote (c : Core) (s : State) (k : Site) (m : DupMsg) (h : c.calm (s.core k) = true) :
    c.calm ((s.dupNote k m).core k) = true := by
  unfold State.dupNote
  simp only
  have h1 : c.calm ((s.setCore k { s.core k with dupOp := (s.core k).dupOp + 1 }).core k) = true := by
    rw [State.core_setCore_same]; exact h
  split
  · split
    · rename_i b _
      by_cases hb : b = k
      · subst hb
        rw [State.mapCore_eq, State.core_setCore_same]
        exact h1
      · rw [State.mapCore_eq, State.core_setCore_other _ _ _ _ (by first | exact hb | exact Ne.symm hb)]
        exact h1
    · exact h1
  · exact h1

@[simp] theorem State.coreTook_core (s : State) (k : Site) : (s.coreTook k).core k =
    { s.core k with idx := (s.core k).idx + 1, dispatched := (s.core k).dispatched + 1, issued := (s.core k).issued + 1 } := by
  rw [State.coreTook, State.mapCore_eq, State.core_setCore_same]

theorem State.coreTook_vreg (s : State) (k : Site) (i : Nat) : ((s.coreTook k).core k).vreg i = (s.core k).vreg i := by
  rw [State.coreTook_core]; rfl

theorem State.coreTook_preg (s : State) (k : Site) (i : Nat) : ((s.coreTook k).core k).preg i = (s.core k).preg i := by
  rw [State.coreTook_core]; rfl

theorem State.coreTook_laneMask (s : State) (k : Site) (w : BitVec 56) :
    ((s.coreTook k).core k).laneMask w = (s.core k).laneMask w := by
  rw [State.coreTook_core]; rfl

/-- Writing a register leaves what `calm` speaks of. -/
theorem Core.calm_setV (c d : Core) (i : Nat) (x : VReg) (h : c.calm d = true) : c.calm (d.setV i x) = true := h

theorem Core.calm_setP (c d : Core) (i : Nat) (x : DWord) (h : c.calm d = true) : c.calm (d.setP i x) = true := h

/-- A core at rest that takes an instruction looks as it did. -/
theorem calm_took (s : State) (k : Site) (h : (s.core k).rest = true) : (s.core k).calm ((s.coreTook k).core k) = true := by
  obtain ⟨h1, h2, h3, h4, h5, h6, h7, h8, h9, -⟩ := (Core.rest_iff _).mp h
  rw [State.coreTook_core, Core.calm_iff]
  exact ⟨h1, h2, h3, h4, h8, h9, rfl⟩

theorem calm_lanesDone (s : State) (k : Site) (w : BitVec 56) (f : Nat → Word) (h : (s.core k).rest = true) :
    (s.core k).calm ((s.lanesDone k w f).core k) = true := by
  rw [State.lanesDone, State.mapCore_eq, State.core_setCore_same]
  exact calm_took s k h

/-- An instruction of the register format but VCMP and VRED, as its lanes. -/
theorem opVecReg_lanes (s : State) (k : Site) (op : CoreOp) (w : BitVec 56) (f : Nat → Word) (h1 : op ≠ .vcmp) (h2 : op ≠ .vred)
    (h3 : op ∉ [CoreOp.vcmp, .vrot, .vrope])
    (hf : ∀ vs : List VReg, (op ≠ .vbcst → vs = [(s.core k).vreg (fld w 36 32), (s.core k).vreg (fld w 31 27), (s.core k).vreg (fld w 26 22)]) →
      vecLanes op w (s.coreEntry k op w) ((s.core k).preg (fld w 24 22)) ((s.core k).laneMask w) (vs.getD 0 (Vector.replicate 64 0#32))
        (vs.getD 1 (Vector.replicate 64 0#32)) (vs.getD 2 (Vector.replicate 64 0#32)) = vregOf ((List.range 64).map f)) :
    ∃ m : DupMsg, m.agrees k ∧ opVecReg (s.coreTook k) k (s.coreEntry k op w) = .ok ((s.lanesDone k w f).dupNote k m) := by
  have e1 : (s.coreEntry k op w).op = op := rfl
  have e2 : (s.coreEntry k op w).word = w := rfl
  unfold opVecReg
  simp only [e1, e2, if_neg h1, State.coreTook_vreg, State.coreTook_preg, State.coreTook_laneMask]
  refine ⟨_, ⟨rfl, ?_⟩, congrArg Res.ok (congrArg (fun t => State.dupNote t k _) ?_)⟩
  · have hr : ∀ m : DupMsg, m.entry = s.coreEntry k op w → op ∉ [CoreOp.vcmp, .vrot, .vrope] → m.recompute =
        ([vecResult op m.entry.word m.entry m.operands m.psel m.mask (m.old.getD 0 (Vector.replicate 64 0#32))], 0) := by
      intro m he hn
      unfold DupMsg.recompute
      rw [he, e1]
      cases op <;> first | rfl | simp at hn
    exact hr _ rfl h3
  rw [State.lanesDone, State.mapCore_eq]
  refine congrArg (fun x => State.setCore (s.coreTook k) k (Core.setV _ _ x)) ?_
  unfold vecResult
  rw [if_neg h2, hf _ (fun hb => if_neg hb), blend_lanes, State.coreTook_vreg]
  rfl

/-- A register-format command whose operation notes a sound message. -/
theorem endsAs_of_op (s : State) (k : Site) (op : CoreOp) (w : BitVec 56) (i : Instr) (t : State) (h : s.coreIssues k op w = true)
    (hi : exec i s = onUnit k.ok s fun s => s.fetched k op w) (hq : op.queue = .vector) (hc : (s.core k).calm (t.core k) = true)
    (hrun : ∃ m : DupMsg, m.agrees k ∧ runOp (s.coreTook k) k (s.coreEntry k op w) false = .ok (t.dupNote k m)) :
    s.endsAs k w i t := by
  obtain ⟨m, hm, hrun⟩ := hrun
  refine ⟨m, hm, ?_⟩
  rw [hi, onUnit_queue s k op w _ h (by rw [hq]; decide) hrun (calm_dupNote _ _ k m hc), hq]
  rfl

/-- VCMP, as the bits it sets. -/
theorem opVecReg_cmp (s : State) (k : Site) (w : BitVec 56) :
    ∃ m : DupMsg, m.agrees k ∧ opVecReg (s.coreTook k) k (s.coreEntry k .vcmp w) =
      .ok (((s.coreTook k).mapCore k fun c => c.setP (fld w 39 37) ((c.preg (fld w 39 37) &&& ~~~(c.laneMask w)) |||
        (maskOf (fun i => cmpLane (wType w) (fld w 18 16) (s.va k w i) (s.vb k w i)) &&& c.laneMask w))).dupNote k m) := by
  have e1 : (s.coreEntry k .vcmp w).op = .vcmp := rfl
  have e2 : (s.coreEntry k .vcmp w).word = w := rfl
  unfold opVecReg
  simp only [e1, e2, if_true, State.coreTook_vreg, State.coreTook_preg, State.coreTook_laneMask, reduceCtorEq, if_false]
  refine ⟨_, ⟨rfl, rfl⟩, congrArg Res.ok (congrArg (fun t => State.dupNote t k _) ?_)⟩
  rw [State.mapCore_eq]
  refine congrArg (fun x => State.setCore (s.coreTook k) k (Core.setP _ _ x)) ?_
  rw [State.coreTook_preg, State.coreTook_laneMask]
  rfl

/-- VRED, as the value it puts in every lane. -/
theorem opVecReg_red (s : State) (k : Site) (w : BitVec 56) :
    ∃ m : DupMsg, m.agrees k ∧ opVecReg (s.coreTook k) k (s.coreEntry k .vred w) =
      .ok (((s.coreTook k).mapCore k fun c => c.setV (fld w 41 37) (vregOf (List.replicate 64
        (redLanes (wType w) (fld w 18 16) (c.laneMask w) (c.vreg (fld w 36 32)))))).dupNote k m) :=
  ⟨_, ⟨rfl, rfl⟩, rfl⟩

end Sys2Proof.Machine
end

