-- ==== Sys2Proof/Laws/Frame.lean ====
section
/-! SUPPORT. What instructions of a core leave unchanged. -/

namespace Sys2Proof.Machine

/-! ### Nothing outside the core -/

theorem State.onlyCore_refl (s : State) (k : Site) : s.onlyCore s k := ⟨rfl, fun _ _ => rfl⟩

theorem State.onlyCore_trans (s t u : State) (k : Site) (h1 : s.onlyCore t k) (h2 : t.onlyCore u k) : s.onlyCore u k := by
  refine ⟨?_, fun j hj => ?_⟩
  · rw [h2.1, h1.1]
  · rw [h1.2 j hj, h2.2 j hj]

theorem State.onlyCore_setCore (s : State) (k : Site) (c : Core) : s.onlyCore (s.setCore k c) k :=
  ⟨rfl, fun j hj => by rw [State.core_setCore_other _ _ _ _ hj]⟩

theorem State.onlyCore_mapCore (s : State) (k : Site) (f : Core → Core) : s.onlyCore (s.mapCore k f) k :=
  s.onlyCore_setCore k _

theorem State.onlyCore_dupIn (s : State) (k b : Site) (f : List DupMsg → List DupMsg) :
    s.onlyCore (s.mapCore b fun x => { x with dupIn := f x.dupIn }) k := by
  refine ⟨rfl, fun j _ => ?_⟩
  by_cases h : j = b
  · subst h; rw [State.core_mapCore_same]
  · rw [State.core_mapCore_other _ _ _ _ h]

theorem State.onlyCore_dupNote (s : State) (k : Site) (m : DupMsg) : s.onlyCore (s.dupNote k m) k := by
  unfold State.dupNote
  simp only
  have h := s.onlyCore_setCore k { s.core k with dupOp := (s.core k).dupOp + 1 }
  split
  · split
    · exact State.onlyCore_trans _ _ _ _ h (State.onlyCore_dupIn _ k _ (· ++ [m]))
    · exact h
  · exact h

theorem State.onlyCore_complete (s : State) (k : Site) (q : QueueId) (w : BitVec 56) : s.onlyCore (s.complete k q w) k := by
  unfold State.complete
  split
  · split
    · exact State.onlyCore_trans _ _ _ _ (State.onlyCore_mapCore ..) (State.onlyCore_mapCore ..)
    · exact State.onlyCore_mapCore ..
  · exact State.onlyCore_refl ..

theorem State.onlyCore_coreTook (s : State) (k : Site) : s.onlyCore (s.coreTook k) k := State.onlyCore_mapCore ..

theorem State.onlyCore_vectorEnd (s : State) (k : Site) (w : BitVec 56) (m : DupMsg) : s.onlyCore (s.vectorEnd k w m) k :=
  State.onlyCore_trans _ _ _ _ (State.onlyCore_dupNote ..) (State.onlyCore_complete ..)

/-- A change to one core leaves the queue of commands, so restoring the queue changes nothing. -/
theorem State.onlyCore_queue (s t : State) (k : Site) (h : s.onlyCore t k) : t.withQueueOf s = t := by
  have : t.pending = s.pending := by rw [h.1]
  rw [State.withQueueOf, ← this]

/-! ### The registers and stores of the core -/

/-- The registers and stores of a core, but not its tokens. -/
def Core.sameRegs (c d : Core) : Prop :=
  d.v = c.v ∧ d.s = c.s ∧ d.a = c.a ∧ d.p = c.p ∧ d.act = c.act ∧ d.wgt = c.wgt ∧ d.psum = c.psum ∧ d.inst = c.inst

theorem Core.sameRegs_trans (a b c : Core) (h1 : a.sameRegs b) (h2 : b.sameRegs c) : a.sameRegs c := by
  obtain ⟨a1, a2, a3, a4, a5, a6, a7, a8⟩ := h1
  obtain ⟨b1, b2, b3, b4, b5, b6, b7, b8⟩ := h2
  exact ⟨b1.trans a1, b2.trans a2, b3.trans a3, b4.trans a4, b5.trans a5, b6.trans a6, b7.trans a7, b8.trans a8⟩

theorem Core.sameRegs_stores (c d : Core) (h : c.sameRegs d) : c.sameStores d := by
  obtain ⟨-, -, -, -, h5, h6, h7, h8⟩ := h
  have hm : ∀ st, d.mem st = c.mem st := by
    intro st
    unfold Core.mem
    split
    · exact h5
    · exact h6
    · exact h7
    · exact h8
  intro st a n
  simp only [Core.rd, hm]

theorem Core.sameRegs_signal (c : Core) (q : QueueId) (i : Nat) : c.sameRegs (c.signal q i) := by
  unfold Core.signal
  split <;> exact ⟨rfl, rfl, rfl, rfl, rfl, rfl, rfl, rfl⟩

theorem sameRegs_complete (s : State) (k : Site) (q : QueueId) (w : BitVec 56) :
    (s.core k).sameRegs ((s.complete k q w).core k) := by
  unfold State.complete
  split
  · split
    · rw [State.core_mapCore_same, State.core_mapCore_same]
      exact Core.sameRegs_signal ..
    · rw [State.core_mapCore_same]
      exact Core.sameRegs_signal ..
  · exact ⟨rfl, rfl, rfl, rfl, rfl, rfl, rfl, rfl⟩

theorem sameRegs_dupNote (s : State) (k : Site) (m : DupMsg) :
    (s.core k).sameRegs ((s.dupNote k m).core k) ∧ ((s.dupNote k m).core k).t = (s.core k).t := by
  unfold State.dupNote
  simp only
  have h1 : (s.setCore k { s.core k with dupOp := (s.core k).dupOp + 1 }).core k = { s.core k with dupOp := (s.core k).dupOp + 1 } :=
    State.core_setCore_same ..
  split
  · split
    · rename_i b _
      by_cases hb : k = b
      · subst hb
        rw [State.core_mapCore_same, h1]
        exact ⟨⟨rfl, rfl, rfl, rfl, rfl, rfl, rfl, rfl⟩, rfl⟩
      · rw [State.core_mapCore_other _ _ _ _ hb, h1]
        exact ⟨⟨rfl, rfl, rfl, rfl, rfl, rfl, rfl, rfl⟩, rfl⟩
    · rw [h1]; exact ⟨⟨rfl, rfl, rfl, rfl, rfl, rfl, rfl, rfl⟩, rfl⟩
  · rw [h1]; exact ⟨⟨rfl, rfl, rfl, rfl, rfl, rfl, rfl, rfl⟩, rfl⟩

theorem Core.tok_setTok_same (c : Core) (i n : Nat) (h : i < 16) : (c.setTok i n).tok i = n % 256 := by
  simp [Core.tok, Core.setTok, List.getD_eq_getElem?_getD, Vector.toList_setIfInBounds, h]

theorem Core.tok_setTok_other (c : Core) (i j n : Nat) (h : j ≠ i) : (c.setTok i n).tok j = c.tok j := by
  simp [Core.tok, Core.setTok, List.getD_eq_getElem?_getD, Vector.toList_setIfInBounds, Ne.symm h]

/-- A signal changes no other token. -/
theorem Core.tok_signal (c : Core) (q : QueueId) (i n : Nat) (h : n ≠ i) : (c.signal q i).tok n = c.tok n := by
  unfold Core.signal
  split
  · simp [Core.tok, Core.setTok, List.getD_eq_getElem?_getD, Vector.toList_setIfInBounds, Ne.symm h]
  · rfl

theorem sameTokens_complete (s : State) (k : Site) (q : QueueId) (w : BitVec 56) :
    (s.core k).sameTokens ((s.complete k q w).core k) w := by
  intro n hn
  unfold State.complete
  split
  · rename_i hs
    have hne : n ≠ wST w := fun h => hn ⟨hs, h⟩
    split
    · rw [State.core_mapCore_same, State.core_mapCore_same, Core.tok_signal _ _ _ _ hne]; rfl
    · rw [State.core_mapCore_same, Core.tok_signal _ _ _ _ hne]
  · rfl

end Sys2Proof.Machine
end

