-- ==== Sys2Proof/Laws/Mem.lean ====
section
/-! SUPPORT. Byte memories: the canonical form, what is read after a write, and what a write leaves (R73, R517). -/

namespace Sys2Proof.Machine

/-- Every cell laid from an address lies in the range, and holds a byte that is not 0. -/
theorem Mem.cells_range (bs : List Byte) (a : Nat) :
    ∀ c ∈ Mem.cells a bs, a ≤ c.1 ∧ c.1 < a + bs.length ∧ c.2 ≠ 0#8 := by
  induction bs generalizing a with
  | nil => simp [Mem.cells]
  | cons b r ih =>
    intro c hc
    simp only [Mem.cells] at hc
    split at hc
    · obtain ⟨h1, h2, h3⟩ := ih (a + 1) c hc
      exact ⟨by omega, by simp only [List.length_cons]; omega, h3⟩
    · rename_i hb
      rcases List.mem_cons.mp hc with h | h
      · subst h; exact ⟨Nat.le_refl _, by simp, hb⟩
      · obtain ⟨h1, h2, h3⟩ := ih (a + 1) c h
        exact ⟨by omega, by simp only [List.length_cons]; omega, h3⟩

theorem Mem.cells_sorted (bs : List Byte) (a : Nat) : (Mem.cells a bs).Pairwise (fun x y => x.1 < y.1) := by
  induction bs generalizing a with
  | nil => simp [Mem.cells]
  | cons b r ih =>
    simp only [Mem.cells]
    split
    · exact ih _
    · refine List.pairwise_cons.mpr ⟨fun c hc => ?_, ih _⟩
      have := Mem.cells_range r (a + 1) c hc
      show a < c.1
      omega

/-- A write keeps the canonical form. -/
theorem Mem.write_wf (m : Mem) (a : Nat) (bs : List Byte) (h : Mem.wf m) : Mem.wf (Mem.write m a bs) := by
  obtain ⟨hs, hz⟩ := h
  refine ⟨?_, ?_⟩
  · simp only [Mem.write, List.append_assoc]
    refine List.pairwise_append.mpr ⟨hs.filter _, List.pairwise_append.mpr ⟨Mem.cells_sorted _ _, hs.filter _, ?_⟩, ?_⟩
    · intro x hx y hy
      have := Mem.cells_range _ _ x hx
      have hy2 := (List.mem_filter.mp hy).2
      simp only [decide_eq_true_eq] at hy2
      omega
    · intro x hx y hy
      have hx2 := (List.mem_filter.mp hx).2
      simp only [decide_eq_true_eq] at hx2
      rcases List.mem_append.mp hy with h' | h'
      · have := Mem.cells_range _ _ y h'; omega
      · have hy2 := (List.mem_filter.mp h').2
        simp only [decide_eq_true_eq] at hy2
        omega
  · intro c hc
    simp only [Mem.write, List.mem_append, List.mem_filter] at hc
    rcases hc with (h' | h') | h'
    · exact hz c h'.1
    · exact (Mem.cells_range _ _ c h').2.2
    · exact hz c h'.1

/-- A read sees the first listed cell of its address: before and behind a part that does not list it, it sees the rest. -/
theorem Mem.read_append_left (l r : Mem) (a : Nat) (h : ∀ c ∈ l, c.1 ≠ a) : Mem.read (l ++ r) a = Mem.read r a := by
  have : l.find? (fun c => c.1 == a) = none := List.find?_eq_none.mpr fun c hc => by simpa using h c hc
  simp [Mem.read, List.find?_append, this]

theorem Mem.read_append_right (l r : Mem) (a : Nat) (h : ∀ c ∈ r, c.1 ≠ a) : Mem.read (l ++ r) a = Mem.read l a := by
  have : r.find? (fun c => c.1 == a) = none := List.find?_eq_none.mpr fun c hc => by simpa using h c hc
  simp [Mem.read, List.find?_append, this]

theorem Mem.read_filter (m : Mem) (p : Host.Cell → Bool) (a : Nat) (h : ∀ c : Host.Cell, c.1 = a → p c = true) :
    Mem.read (m.filter p) a = Mem.read m a := by
  induction m with
  | nil => rfl
  | cons x r ih =>
    simp only [Mem.read] at ih
    by_cases hx : x.1 = a
    · simp [Mem.read, h x hx, hx]
    · by_cases hp : p x = true
      · simp only [Mem.read, List.filter_cons_of_pos hp, List.find?_cons]
        have : (x.1 == a) = false := by simpa using hx
        simp only [this, ih]
      · simp only [Mem.read, List.filter_cons_of_neg hp, List.find?_cons]
        have : (x.1 == a) = false := by simpa using hx
        simp only [this, ih]

/-- A write leaves every byte outside it. -/
theorem Mem.read_write_other (m : Mem) (a : Nat) (bs : List Byte) (x : Nat) (h : x < a ∨ a + bs.length ≤ x) :
    Mem.read (Mem.write m a bs) x = Mem.read m x := by
  have hc : ∀ c ∈ Mem.cells a bs, c.1 ≠ x := fun c hc => by have := Mem.cells_range _ _ c hc; omega
  rcases h with h | h
  · rw [Mem.write, List.append_assoc, Mem.read_append_right, Mem.read_filter]
    · intro c hx; simpa using by omega
    · intro c hx
      rcases List.mem_append.mp hx with h' | h'
      · exact hc c h'
      · have := (List.mem_filter.mp h').2; simp only [decide_eq_true_eq] at this; omega
  · rw [Mem.write, Mem.read_append_left, Mem.read_filter]
    · intro c hx; simpa using by omega
    · intro c hx
      rcases List.mem_append.mp hx with h' | h'
      · have := (List.mem_filter.mp h').2; simp only [decide_eq_true_eq] at this; omega
      · exact hc c h'

theorem Mem.read_cells (bs : List Byte) (a i : Nat) (h : i < bs.length) : Mem.read (Mem.cells a bs) (a + i) = bs.getD i 0#8 := by
  induction bs generalizing a i with
  | nil => simp at h
  | cons b r ih =>
    cases i with
    | zero =>
      simp only [Mem.cells]
      split
      · rename_i hb
        have : (Mem.cells (a + 1) r).find? (fun c => c.1 == a) = none :=
          List.find?_eq_none.mpr fun c hc => by have := Mem.cells_range _ _ c hc; simp; omega
        simp [Mem.read, this, hb]
      · simp [Mem.read]
    | succ j =>
      have hj : j < r.length := by simpa using h
      have := ih (a + 1) j hj
      simp only [Mem.cells]
      split
      · rw [show a + (j + 1) = a + 1 + j by omega, this]; simp
      · rw [show a + (j + 1) = a + 1 + j by omega, ← List.singleton_append, Mem.read_append_left, this]
        · simp
        · intro c hc; simp at hc; subst hc; simp; omega

/-- A read gives the byte last written. -/
theorem Mem.read_write_same (m : Mem) (a : Nat) (bs : List Byte) (i : Nat) (h : i < bs.length) :
    Mem.read (Mem.write m a bs) (a + i) = bs.getD i 0#8 := by
  rw [Mem.write, Mem.read_append_right, Mem.read_append_left, Mem.read_cells _ _ _ h]
  · intro c hc; have := (List.mem_filter.mp hc).2; simp only [decide_eq_true_eq] at this; omega
  · intro c hc; have := (List.mem_filter.mp hc).2; simp only [decide_eq_true_eq] at this; omega

theorem Mem.readN_eq (m : Mem) (a n : Nat) : Mem.readN m a n = (List.range n).map fun i => Mem.read m (a + i) := by
  apply List.map_congr_left
  intro i hi
  apply Mem.read_filter
  intro c hc
  simp only [List.mem_range] at hi
  simp only [hc, Bool.and_eq_true, decide_eq_true_eq]
  omega

@[simp] theorem Mem.readN_length (m : Mem) (a n : Nat) : (Mem.readN m a n).length = n := by simp [Mem.readN]

/-- Bytes read back from where they were written. -/
theorem Mem.readN_write_same (m : Mem) (a : Nat) (bs : List Byte) : Mem.readN (Mem.write m a bs) a bs.length = bs := by
  rw [Mem.readN_eq]
  apply List.ext_getElem
  · simp
  · intro i h1 h2
    simp only [List.length_map, List.length_range] at h1
    simp [Mem.read_write_same _ _ _ _ h1, List.getElem?_eq_getElem h1]

/-- A write leaves the bytes of every range apart from it. -/
theorem Mem.readN_write_other (m : Mem) (a : Nat) (bs : List Byte) (x n : Nat) (h : x + n ≤ a ∨ a + bs.length ≤ x) :
    Mem.readN (Mem.write m a bs) x n = Mem.readN m x n := by
  rw [Mem.readN_eq, Mem.readN_eq]
  apply List.map_congr_left
  intro i hi
  simp only [List.mem_range] at hi
  exact Mem.read_write_other _ _ _ _ (by omega)

end Sys2Proof.Machine
end

