-- ==== Sys2Proof/Laws/Report.lean ====
section
/-! SUPPORT. What making an event record can change: host memory and its waiting writes, functions, interrupts, the error
state, the management engine, its flash, the freeze, and a router a rule retires; nothing else. -/

namespace Sys2Proof.Machine

/-- `t` differs from `s` in what a record may change, and in nothing else. -/
def State.reported (s t : State) : Prop :=
  t = { s with hostMem := t.hostMem, heldWrites := t.heldWrites, fns := t.fns, msiOut := t.msiOut, errors := t.errors
               mgmt := t.mgmt, flash := t.flash, freeze := t.freeze, routers := t.routers }

theorem State.reported_refl (s : State) : s.reported s := rfl

theorem State.reported_trans {s t u : State} (h1 : s.reported t) (h2 : t.reported u) : s.reported u := by
  unfold State.reported at *
  rw [h2, h1]

theorem State.reported_foldl {α : Type} (f : State → α → State) (h : ∀ (s : State) (x : α), s.reported (f s x)) (l : List α) (s : State) :
    s.reported (l.foldl f s) := by
  induction l generalizing s with
  | nil => exact s.reported_refl
  | cons x r ih => exact State.reported_trans (h s x) (ih _)

theorem reported_logEvent (s : State) (e : Event) : s.reported (s.logEvent e) := by
  unfold State.logEvent
  dsimp only
  split
  · rfl
  · split
    · rfl
    · split <;> rfl

theorem reported_takeEvent (s : State) (e : Event) : s.reported (s.takeEvent e) := by
  unfold State.takeEvent
  dsimp only
  split <;> rfl

theorem reported_hostWrite (s : State) (f a : Nat) (bs : List Byte) : s.reported (s.hostWrite f a bs) := by
  unfold State.hostWrite
  split <;> rfl

theorem reported_mapFn (s : State) (f : Nat) (g : Fn → Fn) : s.reported (s.mapFn f g) := rfl

theorem reported_sendMsi (s : State) (f v : Nat) (now : Bool) : s.reported (s.sendMsi f v now) := by
  unfold State.sendMsi
  dsimp only
  split
  · rfl
  · split
    · split <;> rfl
    · rfl

theorem reported_putEventRing (s : State) (f : Nat) (e : Event) : s.reported (s.putEventRing f e) := by
  unfold State.putEventRing
  dsimp only
  split
  · exact State.reported_trans (State.reported_trans (reported_hostWrite ..) (by rfl)) (reported_sendMsi ..)
  · rfl

theorem reported_deliver (n : Nat) (s : State) (e : Event) : s.reported (State.deliver n s e) := by
  induction n generalizing s e with
  | zero => exact s.reported_refl
  | succ n ih =>
    unfold State.deliver
    refine State.reported_trans (State.reported_trans (reported_logEvent s e) (reported_takeEvent _ e)) ?_
    refine State.reported_foldl _ (fun (s : State) (f : Nat) => ?_) _ _
    dsimp only
    split
    · split
      · refine State.reported_trans ?_ (reported_putEventRing ..)
        refine State.reported_trans ?_ (ih _ _)
        rfl
      · exact reported_putEventRing ..
    · exact s.reported_refl

theorem reported_fatalStop (s : State) (e : Event) : s.reported (s.fatalStop e) := by
  unfold State.fatalStop
  split <;> rfl

theorem reported_record (s : State) (e : Ev) : s.reported (s.record e) := by
  unfold State.record
  refine State.reported_trans ?_ (reported_fatalStop ..)
  refine State.reported_trans ?_ (reported_deliver ..)
  rfl

theorem reported_retire (s : State) (k : Site) (r : Bool) : s.reported (s.retire k r) := by
  unfold State.retire
  split
  · exact State.reported_trans (by rfl) (reported_record ..)
  · split
    · exact State.reported_trans (by rfl) (reported_record ..)
    · exact State.reported_trans (by rfl) (reported_record ..)

theorem reported_observe (s : State) (k : Site) (r : Bool) (n : Nat) : s.reported (s.observe k r n) := by
  unfold State.observe
  dsimp only
  split
  · exact reported_retire ..
  · split
    · exact reported_record ..
    · exact State.reported_trans (by rfl) (reported_record ..)

theorem reported_raise (s : State) (e : Ev) : s.reported (s.raise e) := by
  unfold State.raise
  dsimp only
  split
  · split
    · exact reported_record ..
    · split
      · split
        · split
          · exact State.reported_trans (State.reported_trans (State.reported_trans (reported_record ..) (reported_observe ..)) (by rfl)) (reported_observe ..)
          · exact State.reported_trans (State.reported_trans (reported_record ..) (reported_observe ..)) (by rfl)
        · split
          · exact State.reported_trans (State.reported_trans (reported_record ..) (by rfl)) (reported_observe ..)
          · exact State.reported_trans (reported_record ..) (by rfl)
      · split
        · exact State.reported_trans (reported_record ..) (reported_observe ..)
        · exact reported_record ..
  · exact reported_record ..

theorem reported_raiseEvery (s : State) (n : Nat) (key : Nat × Nat) (e : Ev) : s.reported (s.raiseEvery n key e) := by
  unfold State.raiseEvery
  split
  · split
    · exact s.reported_refl
    · exact State.reported_trans (by rfl) (reported_raise ..)
  · exact State.reported_trans (by rfl) (reported_raise ..)

/-! ### The fields a record leaves -/

theorem State.raise_cores (s : State) (e : Ev) : (s.raise e).cores = s.cores := by rw [reported_raise s e]
theorem State.raise_core (s : State) (e : Ev) (k : Site) : (s.raise e).core k = s.core k := by
  rw [State.core, State.raise_cores]; rfl
theorem State.raise_pending (s : State) (e : Ev) : (s.raise e).pending = s.pending := by rw [reported_raise s e]
theorem State.raise_time (s : State) (e : Ev) : (s.raise e).time = s.time := by rw [reported_raise s e]
theorem State.raise_panels (s : State) (e : Ev) : (s.raise e).panels = s.panels := by rw [reported_raise s e]
theorem State.raise_tick (s : State) (e : Ev) : (s.raise e).tick = s.tick := by rw [reported_raise s e]
theorem State.raise_loaded (s : State) (e : Ev) : (s.raise e).loaded = s.loaded := by rw [reported_raise s e]
theorem State.raise_transit (s : State) (e : Ev) : (s.raise e).transit = s.transit := by rw [reported_raise s e]
theorem State.raise_serve (s : State) (e : Ev) : (s.raise e).serve = s.serve := by rw [reported_raise s e]
theorem State.raise_regs (s : State) (e : Ev) : (s.raise e).regs = s.regs := by rw [reported_raise s e]
theorem State.raise_holds (s : State) (e : Ev) : (s.raise e).holds = s.holds := by rw [reported_raise s e]
theorem State.raise_power (s : State) (e : Ev) : (s.raise e).power = s.power := by rw [reported_raise s e]
theorem State.raise_thermal (s : State) (e : Ev) : (s.raise e).thermal = s.thermal := by rw [reported_raise s e]
theorem State.raise_weights (s : State) (e : Ev) : (s.raise e).weights = s.weights := by rw [reported_raise s e]

end Sys2Proof.Machine
end

