-- ==== Sys2Proof/Laws/Store.lean ====
section
/-! SUPPORT. What a program's write into a store changes (R73, R274, R459 to R461): the bytes written, the journal and its
image, the parity noted bad, guard updates under way, and the record of a full journal. -/

namespace Sys2Proof.Machine

/-- `d` differs from `c` in what a write may change, and in nothing else. -/
def Core.stored (c d : Core) : Prop :=
  d = { c with act := d.act, wgt := d.wgt, psum := d.psum, inst := d.inst, badParity := d.badParity
               guardTouched := d.guardTouched
               rep := { c.rep with journal := d.rep.journal, unreplayable := d.rep.unreplayable } }

/-- `t` differs from `s` in what writes of core `k` may change, and in nothing else. -/
def State.stored (s t : State) (k : Site) : Prop :=
  (s.core k).stored (t.core k) ∧ (∀ j, j ≠ k → t.core j = s.core j) ∧
    t = { s with cores := t.cores, panels := t.panels, transit := { s.transit with guards := t.transit.guards }
                 hostMem := t.hostMem, heldWrites := t.heldWrites, fns := t.fns, msiOut := t.msiOut, errors := t.errors
                 mgmt := t.mgmt, flash := t.flash, freeze := t.freeze, routers := t.routers }

theorem Core.stored_refl (c : Core) : c.stored c := rfl

theorem Core.stored_trans {c d e : Core} (h1 : c.stored d) (h2 : d.stored e) : c.stored e := by
  unfold Core.stored at *
  rw [h2, h1]

theorem State.stored_refl (s : State) (k : Site) : s.stored s k := ⟨rfl, fun _ _ => rfl, rfl⟩

theorem State.stored_trans {s t u : State} {k : Site} (h1 : s.stored t k) (h2 : t.stored u k) : s.stored u k := by
  obtain ⟨a1, a2, a3⟩ := h1
  obtain ⟨b1, b2, b3⟩ := h2
  refine ⟨Core.stored_trans a1 b1, fun j hj => (b2 j hj).trans (a2 j hj), ?_⟩
  rw [b3, a3]

theorem State.stored_foldl {α : Type} (k : Site) (f : State → α → State) (h : ∀ (s : State) (x : α), s.stored (f s x) k)
    (l : List α) (s : State) : s.stored (l.foldl f s) k := by
  induction l generalizing s with
  | nil => exact s.stored_refl k
  | cons x r ih => exact State.stored_trans (h s x) (ih _)

theorem State.stored_setCore (s : State) (k : Site) (c : Core) (h : (s.core k).stored c) : s.stored (s.setCore k c) k :=
  ⟨by rw [State.core_setCore_same]; exact h, fun _ hj => State.core_setCore_other _ _ _ _ hj, rfl⟩

theorem State.stored_of_reported (s t : State) (k : Site) (h : s.reported t) : s.stored t k := by
  have hc : t.cores = s.cores := by rw [h]
  have hk : ∀ j, t.core j = s.core j := fun j => by rw [State.core, hc]; rfl
  refine ⟨by rw [hk]; rfl, fun j _ => hk j, ?_⟩
  rw [h]

theorem stored_raise (s : State) (e : Ev) (k : Site) : s.stored (s.raise e) k :=
  State.stored_of_reported _ _ _ (reported_raise s e)

theorem stored_setPanel (s : State) (p : Nat) (x : PanelState) (k : Site) : s.stored (s.setPanel p x) k :=
  ⟨rfl, fun _ _ => rfl, rfl⟩

theorem Core.stored_setMem (c : Core) (st : Nat) (m : Mem) : c.stored (c.setMem st m) := by
  unfold Core.setMem
  split <;> rfl

theorem Core.stored_wrRaw (c : Core) (st a : Nat) (bs : List Byte) : c.stored (c.wrRaw st a bs) := by
  unfold Core.wrRaw
  dsimp only
  split
  · split
    · exact Core.stored_setMem ..
    · exact Core.stored_setMem ..
  · refine Core.stored_trans (d := if a % storeSize st + bs.length ≤ storeSize st then _ else _) ?_ rfl
    split
    · exact Core.stored_setMem ..
    · exact Core.stored_setMem ..

theorem State.stored_ite (s t u : State) (k : Site) (p : Prop) [Decidable p] (h1 : s.stored t k) (h2 : s.stored u k) :
    s.stored (if p then t else u) k := by
  split
  · exact h1
  · exact h2

theorem stored_guards (s : State) (k : Site) (l : List GuardMsg) (f : List Site → List Site) :
    s.stored (({ s with transit := { s.transit with guards := l } } : State).mapCore k fun c =>
      { c with guardTouched := f c.guardTouched }) k := by
  refine ⟨?_, fun j hj => State.core_setCore_other _ _ _ _ hj, rfl⟩
  rw [State.core_mapCore_same]
  rfl

theorem stored_sendGuard (s : State) (k : Site) (f off : Nat) (old new : List Byte) : s.stored (s.sendGuard k f off old new) k := by
  unfold State.sendGuard
  split
  · exact s.stored_refl k
  · rename_i pk pf _
    refine State.stored_ite _ _ _ _ _ (s.stored_refl k) ?_
    exact stored_guards s k _ fun l => if pk ∈ l then l else l ++ [pk]

theorem stored_putBytes (s : State) (k : Site) (st a : Nat) (bs : List Byte) : s.stored (s.putBytes k st a bs) k := by
  have h := State.stored_setCore s k _ (Core.stored_wrRaw (s.core k) st a bs)
  unfold State.putBytes
  refine State.stored_ite _ _ _ _ _ h ?_
  split
  · exact h
  · refine State.stored_trans h (State.stored_foldl k _ (fun (s : State) (i : Nat) => ?_) _ _)
    exact stored_sendGuard ..

theorem stored_journalAdd (s : State) (k : Site) (j : JEntry) : s.stored (s.journalAdd k j) k := by
  unfold State.journalAdd
  refine State.stored_ite _ _ _ _ _ (s.stored_refl k) (State.stored_ite _ _ _ _ _ ?_ ?_)
  · have h := State.stored_setCore s k { s.core k with rep := { (s.core k).rep with unreplayable := true } } rfl
    refine State.stored_ite _ _ _ _ _ h ?_
    exact State.stored_trans (State.stored_trans h (stored_setPanel ..)) (stored_raise ..)
  · refine State.stored_setCore s k _ ?_
    generalize hx : (if (s.core k).tab.span ≥ 65536 then
      (s.core k).wrRaw 1 ((s.core k).tab.span - 65536 + 64 * (s.core k).rep.journal.length) j.bytes64 else s.core k) = c
    have hc : (s.core k).stored c := by
      rw [← hx]
      split
      · exact Core.stored_wrRaw ..
      · rfl
    exact Core.stored_trans hc rfl

/-- The old sectors of a write, saved (R460). -/
theorem stored_save (s : State) (k : Site) (st : Nat) (l : List Nat) : s.stored (l.foldl (fun s x =>
    if (s.core k).saved st x then s else s.journalAdd k ⟨st, x, (s.core k).rd st x 32, false⟩) s) k := by
  refine State.stored_foldl k _ (fun (s : State) (x : Nat) => ?_) _ _
  exact State.stored_ite _ _ _ _ _ (s.stored_refl k) (stored_journalAdd ..)

theorem stored_redo (s : State) (k : Site) (st : Nat) (l : List Nat) :
    s.stored (l.foldl (fun s x => s.journalAdd k ⟨st, x, (s.core k).rd st x 32, true⟩) s) k := by
  refine State.stored_foldl k _ (fun (s : State) (x : Nat) => ?_) _ _
  exact stored_journalAdd ..

theorem stored_jwrite (s : State) (k : Site) (st a : Nat) (bs : List Byte) (redo : Bool) :
    s.stored (s.jwrite k st a bs redo) k := by
  unfold State.jwrite
  extract_lets z a' secs s1 s2
  have h1 : s.stored s1 k := State.stored_ite _ _ _ _ _ (stored_save ..) (s.stored_refl k)
  have h2 : s.stored s2 k := State.stored_trans h1 (stored_putBytes ..)
  exact State.stored_ite _ _ _ _ _ (State.stored_trans h2 (stored_redo ..)) h2

/-- A core that has written looks calm when it did. -/
theorem calm_stored (c : Core) (s t : State) (k : Site) (h : s.stored t k) (hc : c.calm (s.core k) = true) :
    c.calm (t.core k) = true := by
  rw [h.1]
  exact hc

end Sys2Proof.Machine
end

