-- ==== Sys2Proof/Laws/Bytes.lean ====
section
/-! SUPPORT. Which bytes of a core's stores a write leaves. -/

namespace Sys2Proof.Machine

theorem storeSize_pos (st : Nat) : 0 < storeSize st := by
  unfold storeSize
  split <;> exact Nat.two_pow_pos _

theorem Core.rd_one (c : Core) (st a : Nat) : c.rd st a 1 = [Mem.read (c.mem st) (a % storeSize st)] := by
  have h : a % storeSize st < storeSize st := Nat.mod_lt _ (storeSize_pos st)
  unfold Core.rd
  extract_lets z a'
  have h' : a' + 1 ≤ z := h
  rw [if_pos h', Mem.readN_eq]
  rfl

theorem Core.mem_setMem_same (c : Core) (st : Nat) (m : Mem) : (c.setMem st m).mem st = m := by
  match st with
  | 0 => rfl
  | 1 => rfl
  | 2 => rfl
  | _ + 3 => rfl

theorem Core.mem_setMem_other (c : Core) (st st' : Nat) (m : Mem) (h : st ≤ 3) (h' : st' ≤ 3) (hne : st' ≠ st) :
    (c.setMem st m).mem st' = c.mem st' := by
  have e : ∀ n ≤ 3, n = 0 ∨ n = 1 ∨ n = 2 ∨ n = 3 := by omega
  rcases e st h with rfl | rfl | rfl | rfl <;> rcases e st' h' with rfl | rfl | rfl | rfl <;>
    first | rfl | exact absurd rfl hne

theorem Core.wrRaw_mem (c : Core) (st a st' : Nat) (bs : List Byte) :
    (c.wrRaw st a bs).mem st' =
      (if a % storeSize st + bs.length ≤ storeSize st then c.setMem st (Mem.write (c.mem st) (a % storeSize st) bs)
       else c.setMem st (Mem.write (Mem.write (c.mem st) (a % storeSize st) (bs.take (storeSize st - a % storeSize st))) 0
         (bs.drop (storeSize st - a % storeSize st)))).mem st' := by
  unfold Core.wrRaw
  extract_lets z a' d
  have : ∀ x : Core, ∀ l, ({ x with badParity := l } : Core).mem st' = x.mem st' := fun x l => by unfold Core.mem; rfl
  split
  · rfl
  · exact this d _

/-- A byte outside what is written reads as before. -/
theorem Core.wrRaw_read (c : Core) (st a st' b : Nat) (bs : List Byte) (h : st ≤ 3) (h' : st' ≤ 3) (hb : b < storeSize st')
    (ho : ¬span st a bs.length st' b) : Mem.read ((c.wrRaw st a bs).mem st') b = Mem.read (c.mem st') b := by
  rw [Core.wrRaw_mem]
  by_cases hst : st' = st
  · subst hst
    have hz := storeSize_pos st'
    generalize hzz : storeSize st' = z at *
    have hlt : a % z < z := Nat.mod_lt _ hz
    have hout : ∀ i < bs.length, b ≠ (a % z + i) % z := by
      intro i hi e
      refine ho ⟨rfl, i, hi, ?_⟩
      rw [hzz, e, Nat.mod_add_mod]
    generalize a % z = a' at *
    split
    · rename_i hle
      rw [Core.mem_setMem_same]
      refine Mem.read_write_other _ _ _ _ ?_
      by_contra hc
      have := hout (b - a') (by omega)
      rw [Nat.mod_eq_of_lt (by omega)] at this
      omega
    · rename_i hle
      rw [Core.mem_setMem_same, Mem.read_write_other, Mem.read_write_other]
      · simp only [List.length_take]
        by_contra hc
        have := hout (b - a') (by omega)
        rw [Nat.mod_eq_of_lt (by omega)] at this
        omega
      · simp only [List.length_drop]
        by_contra hc
        have := hout (b + (z - a')) (by omega)
        have e : (a' + (b + (z - a'))) % z = b := by
          have : a' + (b + (z - a')) = b + z := by omega
          rw [this, Nat.add_mod_right, Nat.mod_eq_of_lt hb]
        exact this e.symm
  · split <;> rw [Core.mem_setMem_other _ _ _ _ h h' hst]

theorem sendGuard_mem (s : State) (k : Site) (f off : Nat) (old new : List Byte) (st : Nat) :
    ((s.sendGuard k f off old new).core k).mem st = (s.core k).mem st := by
  unfold State.sendGuard
  split
  · rfl
  · extract_lets delta s1 s2
    split
    · rfl
    · rw [State.core_mapCore_same]
      unfold Core.mem
      rfl

theorem foldl_mem {α : Type} (f : State → α → State) (k : Site) (st : Nat)
    (h : ∀ (s : State) (x : α), ((f s x).core k).mem st = (s.core k).mem st) (l : List α) (s : State) :
    ((l.foldl f s).core k).mem st = (s.core k).mem st := by
  induction l generalizing s with
  | nil => rfl
  | cons x r ih => exact (ih _).trans (h s x)

theorem putBytes_mem (s : State) (k : Site) (st a : Nat) (bs : List Byte) (st' : Nat) :
    ((s.putBytes k st a bs).core k).mem st' = ((s.core k).wrRaw st a bs).mem st' := by
  unfold State.putBytes
  extract_lets c s1
  have h : (s1.core k).mem st' = (c.wrRaw st a bs).mem st' := by rw [State.core_setCore_same]
  split
  · exact h
  · split
    · exact h
    · refine (foldl_mem _ k st' (fun (s : State) (i : Nat) => ?_) _ s1).trans h
      exact sendGuard_mem ..

theorem natLe_length (n v : Nat) : (natLe n v).length = n := by
  induction n generalizing v with
  | zero => rfl
  | succ n ih => simp [natLe, ih]

theorem bytesAt_length (bs : List Byte) (a n : Nat) : (bytesAt bs a n).length = n := by simp [bytesAt]

theorem JEntry.bytes64_length (j : JEntry) : j.bytes64.length = 64 := by
  simp [JEntry.bytes64, natLe_length, bytesAt_length]

/-- Which cores keep a journal, and where, does not change by a write. -/
theorem journalAt_stored (c d : Core) (h : c.stored d) (b : Nat) : d.journalAt b ↔ c.journalAt b := by
  rw [h]
  rfl

/-- Saving a sector changes the journal's bytes at most. -/
theorem journalAdd_read (s : State) (k : Site) (j : JEntry) (st b : Nat) (h' : st ≤ 3) (hb : b < storeSize st)
    (hk : (s.core k).rep.ckpt.isSome = true) (hj : ¬(st = 1 ∧ (s.core k).journalAt b)) :
    Mem.read (((s.journalAdd k j).core k).mem st) b = Mem.read ((s.core k).mem st) b := by
  unfold State.journalAdd
  extract_lets c
  have e1 : ((s.setCore k { c with rep := { c.rep with unreplayable := true } }).core k).mem st = c.mem st := by
    rw [State.core_setCore_same]; unfold Core.mem; rfl
  split
  · rfl
  · split
    · split
      · exact congrArg (Mem.read · b) e1
      · rw [State.raise_core]
        exact congrArg (Mem.read · b) e1
    · rename_i hlen
      rw [State.core_setCore_same]
      have e2 : ∀ (d : Core) r, ({ d with rep := r } : Core).mem st = d.mem st := fun d r => by
        unfold Core.mem; rfl
      refine (congrArg (Mem.read · b) (e2 _ _)).trans ?_
      show Mem.read ((if c.tab.span ≥ 65536 then
        c.wrRaw 1 (c.tab.span - 65536 + 64 * c.rep.journal.length) j.bytes64 else c).mem st) b = _
      split
      · rename_i hspan
        refine Core.wrRaw_read _ _ _ _ _ _ (by decide) h' hb ?_
        rintro ⟨rfl, i, hi, he⟩
        rw [JEntry.bytes64_length] at hi
        refine hj ⟨rfl, hk, hspan, 64 * c.rep.journal.length + i, ?_, ?_⟩
        · have : ¬c.rep.journal.length ≥ 1024 := hlen
          omega
        · rw [he, Nat.add_assoc]
          rfl
      · rfl

theorem fold_read {α : Type} (f : State → α → State) (k : Site) (st b : Nat) (P : Core → Prop)
    (hP : ∀ c d : Core, c.stored d → P c → P d) (hs : ∀ (s : State) (x : α), s.stored (f s x) k)
    (h : ∀ (s : State) (x : α), P (s.core k) → Mem.read (((f s x).core k).mem st) b = Mem.read ((s.core k).mem st) b)
    (l : List α) (s : State) (h0 : P (s.core k)) :
    Mem.read (((l.foldl f s).core k).mem st) b = Mem.read ((s.core k).mem st) b := by
  induction l generalizing s with
  | nil => rfl
  | cons x r ih => exact (ih _ (hP _ _ (hs s x).1 h0)).trans (h s x h0)

/-- A byte outside what a program writes, and outside the journal, reads as before. -/
theorem jwrite_read (s : State) (k : Site) (st a : Nat) (bs : List Byte) (redo : Bool) (st' b : Nat) (h : st ≤ 3) (h' : st' ≤ 3)
    (hb : b < storeSize st') (ho : ¬span st a bs.length st' b) (hj : ¬(st' = 1 ∧ (s.core k).journalAt b)) :
    Mem.read (((s.jwrite k st a bs redo).core k).mem st') b = Mem.read ((s.core k).mem st') b := by
  let P : Core → Prop := fun c => c.rep.ckpt.isSome = true ∧ ¬(st' = 1 ∧ c.journalAt b)
  have hP : ∀ c d : Core, c.stored d → P c → P d := fun c d hcd hc =>
    ⟨by rw [hcd]; exact hc.1, fun hx => hc.2 ⟨hx.1, (journalAt_stored c d hcd b).mp hx.2⟩⟩
  unfold State.jwrite
  extract_lets z a' secs s1 s2
  have h1 : s.stored s1 k := State.stored_ite _ _ _ _ _ (stored_save ..) (s.stored_refl k)
  have h2 : s.stored s2 k := State.stored_trans h1 (stored_putBytes ..)
  have r1 : Mem.read ((s1.core k).mem st') b = Mem.read ((s.core k).mem st') b := by
    by_cases hk : (s.core k).rep.ckpt.isSome = true
    · have e : s1 = secs.foldl (fun s x =>
          if (s.core k).saved st x then s else s.journalAdd k ⟨st, x, (s.core k).rd st x 32, false⟩) s := if_pos hk
      rw [e]
      refine fold_read _ k st' b P hP (fun (s : State) (x : Nat) => ?_) (fun (s : State) (x : Nat) hx => ?_) _ _ ⟨hk, hj⟩
      · exact State.stored_ite _ _ _ _ _ (s.stored_refl k) (stored_journalAdd ..)
      · split
        · rfl
        · exact journalAdd_read s k _ st' b h' hb hx.1 hx.2
    · have e : s1 = s := if_neg hk
      rw [e]
  have r2 : Mem.read ((s2.core k).mem st') b = Mem.read ((s.core k).mem st') b := by
    refine (congrArg (Mem.read · b) (putBytes_mem ..)).trans ((Core.wrRaw_read _ _ _ _ _ _ h h' hb ?_).trans r1)
    rintro ⟨rfl, i, hi, he⟩
    exact ho ⟨rfl, i, hi, by rw [he]; exact Nat.mod_add_mod ..⟩
  split
  · rename_i hc
    have hk : (s2.core k).rep.ckpt.isSome = true := by
      simp only [Bool.and_eq_true] at hc; exact hc.2
    have hk0 : (s.core k).rep.ckpt.isSome = true := by rw [h2.1] at hk; exact hk
    refine (fold_read _ k st' b P hP (fun (s : State) (x : Nat) => stored_journalAdd ..)
      (fun (s : State) (x : Nat) hx => journalAdd_read s k _ st' b h' hb hx.1 hx.2) secs s2 ?_).trans r2
    exact hP _ _ h2.1 ⟨hk0, hj⟩
  · exact r2

/-- The frame of one write, as `sameBut` says it. -/
theorem sameBut_jwrite (s : State) (k : Site) (st a : Nat) (bs : List Byte) (redo : Bool) (h : st ≤ 3) :
    (s.core k).sameBut ((s.jwrite k st a bs redo).core k) (span st a bs.length) := by
  intro st' h' b hb ho hj
  rw [Core.rd_one, Core.rd_one, Nat.mod_eq_of_lt hb, jwrite_read s k st a bs redo st' b h h' hb ho hj]

/-- Writes one after the other. -/
theorem sameBut_trans (s t u : State) (k : Site) (p q : Nat → Nat → Prop) (hst : s.stored t k)
    (h1 : (s.core k).sameBut (t.core k) p) (h2 : (t.core k).sameBut (u.core k) q) :
    (s.core k).sameBut (u.core k) (fun st b => p st b ∨ q st b) := by
  intro st h b hb ho hj
  rw [h2 st h b hb (fun x => ho (Or.inr x)) (fun x => hj ⟨x.1, (journalAt_stored _ _ hst.1 b).mp x.2⟩),
    h1 st h b hb (fun x => ho (Or.inl x)) hj]

theorem sameBut_mono (c d : Core) (p q : Nat → Nat → Prop) (h : c.sameBut d p) (hpq : ∀ st b, p st b → q st b) : c.sameBut d q :=
  fun st hs b hb ho hj => h st hs b hb (fun x => ho (hpq st b x)) hj

theorem sameBut_of_stores (c d : Core) (p : Nat → Nat → Prop) (h : c.sameStores d) : c.sameBut d p :=
  fun st _ b _ _ _ => h st b 1

/-- A byte of what is written reads as written, where the write does not wrap. -/
theorem Core.wrRaw_read_same (c : Core) (st a i : Nat) (bs : List Byte) (hw : a % storeSize st + bs.length ≤ storeSize st)
    (hi : i < bs.length) : Mem.read ((c.wrRaw st a bs).mem st) (a % storeSize st + i) = bs.getD i 0#8 := by
  rw [Core.wrRaw_mem, if_pos hw, Core.mem_setMem_same, Mem.read_write_same _ _ _ _ hi]

/-- What a program writes to the activation or partial-sum store reads back. -/
theorem jwrite_read_same (s : State) (k : Site) (st a i : Nat) (bs : List Byte)
    (hw : a % storeSize st + bs.length ≤ storeSize st) (hi : i < bs.length) :
    Mem.read (((s.jwrite k st a bs false).core k).mem st) (a % storeSize st + i) = bs.getD i 0#8 := by
  unfold State.jwrite
  extract_lets z a' secs s1 s2
  have e : (false && (s2.core k).rep.ckpt.isSome) = false := rfl
  rw [e, if_neg (by decide)]
  have hmod : a' % storeSize st = a % storeSize st := Nat.mod_mod ..
  refine (congrArg (Mem.read · _) (putBytes_mem s1 k st a' bs st)).trans ?_
  have := (s1.core k).wrRaw_read_same st a' i bs (by rw [hmod]; exact hw) hi
  rw [hmod] at this
  exact this

/-! ### Stores a write does not touch -/

theorem Core.wrRaw_mem_other (c : Core) (st a st' : Nat) (bs : List Byte) (h : st ≤ 3) (h' : st' ≤ 3) (hne : st' ≠ st) :
    (c.wrRaw st a bs).mem st' = c.mem st' := by
  rw [Core.wrRaw_mem]
  split <;> rw [Core.mem_setMem_other _ _ _ _ h h' hne]

theorem journalAdd_mem (s : State) (k : Site) (j : JEntry) (st : Nat) (h' : st ≤ 3) (h1 : st ≠ 1) :
    ((s.journalAdd k j).core k).mem st = (s.core k).mem st := by
  have e : ∀ (d : Core) r, ({ d with rep := r } : Core).mem st = d.mem st := fun d r => by
    unfold Core.mem; rfl
  unfold State.journalAdd
  extract_lets c
  split
  · rfl
  · split
    · split
      · rw [State.core_setCore_same]; exact e _ _
      · rw [State.raise_core]
        show ((s.setCore k _).core k).mem st = _
        rw [State.core_setCore_same]; exact e _ _
    · rw [State.core_setCore_same]
      refine (e _ _).trans ?_
      show (if c.tab.span ≥ 65536 then c.wrRaw 1 (c.tab.span - 65536 + 64 * c.rep.journal.length) j.bytes64 else c).mem st = _
      split
      · exact Core.wrRaw_mem_other _ _ _ _ _ (by decide) h' h1
      · rfl

/-- A store other than the one written and the weight store is as it was. -/
theorem jwrite_mem (s : State) (k : Site) (st a : Nat) (bs : List Byte) (redo : Bool) (st' : Nat) (h : st ≤ 3) (h' : st' ≤ 3)
    (hne : st' ≠ st) (h1 : st' ≠ 1) : ((s.jwrite k st a bs redo).core k).mem st' = (s.core k).mem st' := by
  unfold State.jwrite
  extract_lets z a' secs s1 s2
  have r1 : (s1.core k).mem st' = (s.core k).mem st' := by
    by_cases hk : (s.core k).rep.ckpt.isSome = true
    · have e : s1 = secs.foldl (fun s x =>
          if (s.core k).saved st x then s else s.journalAdd k ⟨st, x, (s.core k).rd st x 32, false⟩) s := if_pos hk
      rw [e]
      refine foldl_mem _ k st' (fun (s : State) (x : Nat) => ?_) _ _
      split
      · rfl
      · exact journalAdd_mem s k _ st' h' h1
    · have e : s1 = s := if_neg hk
      rw [e]
  have r2 : (s2.core k).mem st' = (s.core k).mem st' :=
    (putBytes_mem ..).trans ((Core.wrRaw_mem_other _ _ _ _ _ h h' hne).trans r1)
  split
  · exact (foldl_mem _ k st' (fun (s : State) (x : Nat) => journalAdd_mem s k _ st' h' h1) _ _).trans r2
  · exact r2

end Sys2Proof.Machine
end

