-- ==== Sys2Proof/Laws/VecMem.lean ====
section
/-! SUPPORT. The vector instructions that read or write stores, and the rotations, as effects on a core that has taken them. -/

namespace Sys2Proof.Machine

theorem State.coreTook_rd (s : State) (k : Site) (st a n : Nat) : ((s.coreTook k).core k).rd st a n = (s.core k).rd st a n := by
  rw [State.coreTook_core]; rfl

theorem State.coreTook_inWindow (s : State) (k : Site) (st a n : Nat) :
    ((s.coreTook k).core k).inWindow st a n = (s.core k).inWindow st a n := by
  rw [State.coreTook_core]; rfl

/-- A queue's instruction that is done when it has acted, from its command. -/
theorem exec_queue (s : State) (k : Site) (op : CoreOp) (w : BitVec 56) (i : Instr) (t : State) (h : s.coreIssues k op w = true)
    (hi : exec i s = onUnit k.ok s fun s => s.fetched k op w) (hq : op.queue ≠ .front)
    (hrun : runOp (s.coreTook k) k (s.coreEntry k op w) false = .ok t) (hc : (s.core k).calm (t.core k) = true) :
    exec i s = .next ((t.complete k op.queue w).withQueueOf s) := by
  rw [hi, onUnit_queue s k op w t h hq hrun hc]

theorem calm_of_stored (s : State) (k : Site) (t : State) (h : (s.core k).rest = true) (ht : (s.coreTook k).stored t k) :
    (s.core k).calm (t.core k) = true := calm_stored _ _ _ _ ht (calm_took s k h)

theorem opVld_ok (s : State) (k : Site) (w : BitVec 56) (h : s.vmemOk k .vld w) :
    opVld (s.coreTook k) k (s.coreEntry k .vld w) = .ok (s.lanesDone k w fun i => BitVec.ofNat 32
      (fieldAt ((s.core k).rd (vmemAcc (s.coreEntry k .vld w)).1 (vmemAcc (s.coreEntry k .vld w)).2.1
        (vmemAcc (s.coreEntry k .vld w)).2.2) (packWidth w * i) (packWidth w))) := by
  obtain ⟨h1, h2⟩ := h
  unfold opVld
  simp only [h1, h2, State.coreTook_inWindow, Bool.not_true, Bool.false_eq_true, if_false, State.coreTook_rd,
    State.coreTook_laneMask, State.coreTook_vreg]
  refine congrArg Res.ok ?_
  rw [State.lanesDone, State.mapCore_eq, blend_lanes, State.coreTook_vreg]
  rfl

theorem opVst_ok (s : State) (k : Site) (w : BitVec 56) (h : s.vmemOk k .vst w) :
    let x := vmemAcc (s.coreEntry k .vst w)
    opVst (s.coreTook k) k (s.coreEntry k .vst w) = .ok (if (s.core k).laneMask w = 0#64 then s.coreTook k
      else (s.coreTook k).jwrite k x.1 x.2.1 ((List.range 64).flatMap fun i =>
        if s.active k w i then natLe (packWidth w) (lane ((s.core k).vreg (fld w 41 37)) i).toNat
        else (((s.core k).rd x.1 x.2.1 x.2.2).drop (packWidth w * i)).take (packWidth w)) false) := by
  obtain ⟨h1, h2⟩ := h
  unfold opVst
  simp only [h1, h2, State.coreTook_inWindow, Bool.not_true, Bool.false_eq_true, if_false, State.coreTook_rd,
    State.coreTook_laneMask, State.coreTook_vreg]
  rfl

theorem stored_coreTook_jwrite (s : State) (k : Site) (st a : Nat) (bs : List Byte) :
    (s.coreTook k).stored ((s.coreTook k).jwrite k st a bs false) k := stored_jwrite ..

/-! ### Frames -/

theorem vreg_setV (c : Core) (i n : Nat) (x : VReg) (h : n ≠ i) : (c.setV i x).vreg n = c.vreg n := by
  simp [Core.vreg, Core.setV, List.getD_eq_getElem?_getD, Vector.toList_setIfInBounds, Ne.symm h]

theorem preg_setP (c : Core) (i n : Nat) (x : DWord) (h : n ≠ i) : (c.setP i x).preg n = c.preg n := by
  simp [Core.preg, Core.setP, List.getD_eq_getElem?_getD, Vector.toList_setIfInBounds, Ne.symm h]

/-- The frame of an instruction that has changed no register, no token and no other core, and completes. -/
theorem wroteOnly_end (s X : State) (k : Site) (q : QueueId) (w : BitVec 56) (out : Nat → Nat → Prop)
    (hj : ∀ j, j ≠ k → X.core j = s.core j) (ht : (X.core k).t = (s.core k).t) (h1 : (X.core k).v = (s.core k).v)
    (h2 : (X.core k).s = (s.core k).s) (h3 : (X.core k).a = (s.core k).a) (h4 : (X.core k).p = (s.core k).p)
    (hb : (s.core k).sameBut (X.core k) out) : s.wroteOnly ((X.complete k q w).withQueueOf s) k w out := by
  have hr := sameRegs_complete X k q w
  have hs := Core.sameRegs_stores _ _ hr
  have htk := sameTokens_complete X k q w
  have hc : ∀ j, ((X.complete k q w).withQueueOf s).core j = (X.complete k q w).core j := fun _ => rfl
  unfold State.wroteOnly
  simp only [hc]
  refine ⟨fun st h b hb' ho' hj => (hs st b 1).trans (hb st h b hb' ho' hj), fun j hj' => ?_, fun n hn => ?_,
    hr.1.trans h1, hr.2.1.trans h2, hr.2.2.1.trans h3, hr.2.2.2.1.trans h4⟩
  · have e1 : (X.complete k q w).core j = X.core j := by
      unfold State.complete
      split
      · split
        · rw [State.core_mapCore_other _ _ _ _ hj', State.core_mapCore_other _ _ _ _ hj']
        · rw [State.core_mapCore_other _ _ _ _ hj']
      · rfl
    rw [e1, hj j hj']
  · rw [htk n hn]
    simp only [Core.tok, ht]

/-- The frame of an instruction that has written stores and completes. -/
theorem wroteOnly_complete (s X : State) (k : Site) (q : QueueId) (w : BitVec 56) (out : Nat → Nat → Prop)
    (hx : (s.coreTook k).stored X k) (hb : (s.core k).sameBut (X.core k) out) :
    s.wroteOnly ((X.complete k q w).withQueueOf s) k w out := by
  have e := hx.1
  rw [State.coreTook_core] at e
  refine wroteOnly_end s X k q w out (fun j hj => ?_) ?_ ?_ ?_ ?_ ?_ hb
  · rw [hx.2.1 j hj, State.coreTook, State.core_mapCore_other _ _ _ _ hj]
  all_goals rw [e]

theorem sameBut_took (s X : State) (k : Site) (out : Nat → Nat → Prop) (h : ((s.coreTook k).core k).sameBut (X.core k) out) :
    (s.core k).sameBut (X.core k) out := by
  intro st hs b hb ho hj
  rw [h st hs b hb ho (by rw [State.coreTook_core]; exact hj), State.coreTook_rd]

/-- An instruction that has written one vector register leaves the other registers and the stores. -/
theorem setV_regs (s t : State) (k : Site) (vd : Nat) (g : Core → VReg)
    (h : (((s.coreTook k).mapCore k fun c => c.setV vd (g c)).core k).sameRegs (t.core k)) :
    (s.core k).sameStores (t.core k) ∧ (t.core k).s = (s.core k).s ∧ (t.core k).a = (s.core k).a ∧
      (t.core k).p = (s.core k).p ∧ ∀ n, n ≠ vd → (t.core k).vreg n = (s.core k).vreg n := by
  rw [State.core_mapCore_same] at h
  generalize hx : g ((s.coreTook k).core k) = x at h
  rw [State.coreTook_core] at h
  have h4 := Core.sameRegs_stores _ _ h
  obtain ⟨r1, r2, r3, r4, -⟩ := h
  refine ⟨fun st a n => h4 st a n, r2, r3, r4, fun n hn => ?_⟩
  refine Eq.trans ?_ (vreg_setV (s.core k) vd n x hn)
  simp only [Core.vreg, r1]
  rfl

/-- Tokens after an instruction that writes one vector register and completes. -/
theorem setV_tokens (s : State) (k : Site) (q : QueueId) (w : BitVec 56) (vd : Nat) (g : Core → VReg) :
    (s.core k).sameTokens ((((s.coreTook k).mapCore k fun c => c.setV vd (g c)).complete k q w).core k) w := by
  intro n hn
  rw [sameTokens_complete _ _ _ _ n hn, State.core_mapCore_same, State.coreTook_core]
  rfl

/-- A byte count of an access of VLD or VST. -/
theorem vmemAcc_len (e : QEntry) : (vmemAcc e).2.2 = 64 * packWidth e.word := by
  unfold vmemAcc packWidth
  extract_lets a
  cases flag e.word 32 <;> rfl

theorem vmemAcc_st (e : QEntry) : (vmemAcc e).1 = 0 ∨ (vmemAcc e).1 = 2 := by
  unfold vmemAcc
  extract_lets a
  cases flag e.word 32
  · exact Or.inl rfl
  · exact Or.inr rfl

theorem Core.rd_length (c : Core) (st a n : Nat) : (c.rd st a n).length = n := by
  unfold Core.rd
  extract_lets z a'
  have : a' < z := Nat.mod_lt _ (storeSize_pos st)
  split
  · simp
  · simp; omega

theorem packWidth_le (w : BitVec 56) : packWidth w ≤ 4 := by
  unfold packWidth
  split
  · decide
  · split <;> decide

theorem flatMap_length_const {α : Type} (l : List α) (f : α → List Byte) (n : Nat) (h : ∀ x ∈ l, (f x).length = n) :
    (l.flatMap f).length = l.length * n := by
  induction l with
  | nil => simp
  | cons x r ih =>
    simp only [List.flatMap_cons, List.length_append, List.length_cons]
    rw [h x (by simp), ih (fun y hy => h y (by simp [hy]))]
    ring

theorem map_range_getD {α β : Type} (l : List α) (d : α) (f : α → β) (n : Nat) (h : l.length = n) :
    l.map f = (List.range n).map fun i => f (l.getD i d) := by
  apply List.ext_getElem
  · simp [h]
  · intro i h1 h2
    simp only [List.length_map] at h1
    simp [List.getD_eq_getElem?_getD, h1]

theorem opVdeq_ok (s : State) (k : Site) (w : BitVec 56) :
    let e := s.coreEntry k .vdeq w
    let h := leNat ((s.core k).rd 0 (qEntry e) 2)
    (e.aReg (fld w 36 33)).toNat % 32 = 0 → (e.aReg (fld w 28 25)).toNat % 2 = 0 → a8Legal h = true →
    opVdeq (s.coreTook k) k e = .ok (s.lanesDone k w fun i => toF32 ((Fp.ofInt
      ((((s.core k).rd 0 (qLine0 e) 32 ++ (s.core k).rd 0 (qLine1 e) 32).getD i 0#8).toInt)).mul (ofF32 (a8Word h)))) := by
  intro e h h1 h2 h3
  have e2 : e.word = w := rfl
  have hn : ¬((e.aReg (fld w 36 33)).toNat % 32 ≠ 0 ∨ (e.aReg (fld w 28 25)).toNat % 2 ≠ 0) := by omega
  unfold opVdeq opVdeq.rowsCodes
  simp only [e2, State.coreTook_rd, if_neg hn]
  rw [if_neg (by rw [h3]; decide)]
  refine congrArg Res.ok ?_
  rw [State.lanesDone, State.mapCore_eq, State.coreTook_laneMask, State.coreTook_vreg]
  refine congrArg (fun x => State.setCore (s.coreTook k) k (Core.setV _ _ x)) ?_
  rw [List.map_map, map_range_getD _ 0#8 _ 64 (by rw [List.length_append, Core.rd_length, Core.rd_length]), blend_lanes]
  rfl

theorem opVsplt_ok (s : State) (k : Site) (w : BitVec 56) (h : ((s.coreEntry k .vsplt w).aReg (fld w 31 28)).toNat % 128 = 0) :
    let ad := actAddr ((s.coreEntry k .vsplt w).aReg (fld w 31 28))
    let as := actAddr ((s.coreEntry k .vsplt w).aReg (fld w 27 24))
    let xs := ((s.core k).vreg (fld w 36 32)).toList.map lo16
    let p (r : Nat) := bf16Split ((xs.drop (32 * r)).take 32)
    let bad := (xs.filter fun h => h.toNat / 128 % 256 = 255).length
    let t := ((((((((s.coreTook k).jwrite k 0 ad ((p 0).2.map fun x => codeByte x.1) false).jwrite
      k 0 (ad + 32) ((p 0).2.map fun x => codeByte x.2) false).jwrite
      k 0 as (natLe 2 (splitScale (p 0).1 true).toNat) false).jwrite
      k 0 (as + 2) (natLe 2 (splitScale (p 0).1 false).toNat) false).jwrite
      k 0 (ad + 64) ((p 1).2.map fun x => codeByte x.1) false).jwrite
      k 0 (ad + 64 + 32) ((p 1).2.map fun x => codeByte x.2) false).jwrite
      k 0 (as + 4) (natLe 2 (splitScale (p 1).1 true).toNat) false).jwrite
      k 0 (as + 4 + 2) (natLe 2 (splitScale (p 1).1 false).toNat) false
    opVsplt (s.coreTook k) k (s.coreEntry k .vsplt w) =
      .ok (if bad = 0 then t else (t.countCode k.panel 0x020C (t.coreLoc k) 0 bad 0).clipSomeRow k) := by
  have e2 : (s.coreEntry k .vsplt w).word = w := rfl
  have hn : ¬((s.coreEntry k .vsplt w).aReg (fld w 31 28)).toNat % 128 ≠ 0 := by omega
  unfold opVsplt
  simp only [e2, if_neg hn, State.coreTook_vreg]
  rfl

/-! ### Calm after counting and clipping -/

theorem core_countCode (s : State) (p code loc kind n a : Nat) (k : Site) : (s.countCode p code loc kind n a).core k = s.core k := rfl

theorem core_clipSomeRow (s : State) (k j : Site) : (s.clipSomeRow k).core j = s.core j := by
  unfold State.clipSomeRow
  split
  · rfl
  · unfold State.clipRow
    dsimp only
    split
    · rfl
    · split <;> rfl

theorem stored_putCodes (s : State) (k : Site) (e : QEntry) (l : List Int) : s.stored (s.putCodes k e l) k :=
  State.stored_trans (stored_jwrite ..) (stored_jwrite ..)

end Sys2Proof.Machine
end

