-- ==== Sys2Proof/Laws/Transfer.lean ====
section
/-! SUPPORT. The store instructions of the transfer queue: what their loops of writes change. -/

namespace Sys2Proof.Machine

theorem stored_copyUnits (k : Site) (sa a sb b n : Nat) (s : State) : s.stored (State.copyUnits k sa a sb b n s) k := by
  induction n generalizing s a b with
  | zero => exact s.stored_refl k
  | succ n ih => exact State.stored_trans (stored_jwrite ..) (ih _ _ _)

theorem stored_fillUnits (k : Site) (st : Nat) (u : List Byte) (n a : Nat) (s : State) :
    s.stored (State.fillUnits k st u n a s) k := by
  induction n generalizing s a with
  | zero => exact s.stored_refl k
  | succ n ih => exact State.stored_trans (stored_jwrite ..) (ih _ _)

theorem span_first (st a n m st' b : Nat) (h : span st a n st' b) : span st a (n + m) st' b := by
  obtain ⟨h1, i, hi, e⟩ := h
  exact ⟨h1, i, by omega, e⟩

theorem span_rest (st a n m st' b : Nat) (h : span st (a + n) m st' b) : span st a (n + m) st' b := by
  obtain ⟨h1, i, hi, e⟩ := h
  exact ⟨h1, n + i, by omega, by rw [e, Nat.add_assoc]⟩

theorem sameBut_copyUnits (k : Site) (sa a sb b n : Nat) (s : State) (h : sb ≤ 3) :
    (s.core k).sameBut ((State.copyUnits k sa a sb b n s).core k) (span sb b (32 * n)) := by
  induction n generalizing s a b with
  | zero => exact sameBut_of_stores _ _ _ fun _ _ _ => rfl
  | succ n ih =>
    refine sameBut_mono _ _ _ _ (sameBut_trans s _ _ k _ _ (stored_jwrite ..) (sameBut_jwrite s k sb b _ false h) (ih _ _ _)) ?_
    intro st c hc
    rw [show 32 * (n + 1) = 32 + 32 * n by omega]
    rcases hc with hc | hc
    · rw [Core.rd_length] at hc
      exact span_first _ _ _ _ _ _ hc
    · exact span_rest _ _ _ _ _ _ hc

theorem sameBut_fillUnits (k : Site) (st : Nat) (u : List Byte) (n a : Nat) (s : State) (h : st ≤ 3) (hu : u.length = 32) :
    (s.core k).sameBut ((State.fillUnits k st u n a s).core k) (span st a (32 * n)) := by
  induction n generalizing s a with
  | zero => exact sameBut_of_stores _ _ _ fun _ _ _ => rfl
  | succ n ih =>
    refine sameBut_mono _ _ _ _ (sameBut_trans s _ _ k _ _ (stored_jwrite ..) (sameBut_jwrite s k st a _ false h) (ih _ _)) ?_
    intro st' c hc
    rw [show 32 * (n + 1) = 32 + 32 * n by omega]
    rcases hc with hc | hc
    · rw [hu] at hc
      exact span_first _ _ _ _ _ _ hc
    · exact span_rest _ _ _ _ _ _ hc

/-- A fold of writes that all stay inside `out`. -/
theorem sameBut_foldl {α : Type} (k : Site) (l : List α) (f : State → α → Nat × Nat × List Byte) (out : Nat → Nat → Prop)
    (h : ∀ (t : State) (x : α), x ∈ l → (f t x).1 ≤ 3 ∧ ∀ st b, span (f t x).1 (f t x).2.1 (f t x).2.2.length st b → out st b)
    (s : State) : s.stored (l.foldl (fun t x => t.jwrite k (f t x).1 (f t x).2.1 (f t x).2.2 false) s) k ∧
      (s.core k).sameBut ((l.foldl (fun t x => t.jwrite k (f t x).1 (f t x).2.1 (f t x).2.2 false) s).core k) out := by
  induction l generalizing s with
  | nil => exact ⟨s.stored_refl k, sameBut_of_stores _ _ _ fun _ _ _ => rfl⟩
  | cons x r ih =>
    obtain ⟨h1, h2⟩ := h s x (by simp)
    obtain ⟨i1, i2⟩ := ih (fun t y hy => h t y (by simp [hy])) (s.jwrite k (f s x).1 (f s x).2.1 (f s x).2.2 false)
    refine ⟨State.stored_trans (stored_jwrite ..) i1, ?_⟩
    refine sameBut_mono _ _ _ _ (sameBut_trans s _ _ k _ _ (stored_jwrite ..) (sameBut_jwrite s k _ _ _ false h1) i2) ?_
    intro st b hb
    rcases hb with hb | hb
    · exact h2 st b hb
    · exact hb

theorem bytesOfWords_length (l : List Word) : (bytesOfWords l).length = 4 * l.length := by
  rw [bytesOfWords, flatMap_length_const _ _ 4 (fun x _ => natLe_length 4 _), Nat.mul_comm]

end Sys2Proof.Machine
end

