-- ==== Sys2Proof/Laws/Array.lean ====
section
/-! SUPPORT. The array's instructions as effects on a core that has taken them, and an arriving tile (R143 to R152). -/

namespace Sys2Proof.Machine

/-- A core with nothing to move is not moved by the pump. -/
theorem pumpCore_idle (s : State) (k : Site) (h : (s.core k).idle) : s.pumpCore k = s :=
  pump_empty k _ s h.1 h.2.1 h.2.2.1 h.2.2.2.1 h.2.2.2.2

/-- A completion of an instruction whose signal finds room leaves an idle core idle. -/
theorem idle_complete (t : State) (k : Site) (q : QueueId) (w : BitVec 56) (h : (t.core k).idle)
    (ht : wSE w = true → (t.core k).tok (wST w) < 255) : ((t.complete k q w).core k).idle := by
  obtain ⟨h1, h2, h3, h4, h5⟩ := h
  obtain ⟨d1, d2, d3, d4, d5, d6⟩ := complete_core t k q w
  exact ⟨d1.trans h1, d2.trans h2, d3.trans h3, d4.trans h4, (d6 ht).trans h5⟩

theorem rest_idle (c : Core) (h : c.rest = true) : c.idle := by
  obtain ⟨h1, h2, h3, h4, h5, h6, h7, h8, h9, -⟩ := (Core.rest_iff _).mp h
  exact ⟨h1, h2, h3, h4, h9⟩

theorem streamRow_act (c d : Core) (e : QEntry) (t : Nat) (h : d.act = c.act) : d.streamRow e t = c.streamRow e t := by
  have hr : ∀ a n, d.rd 0 a n = c.rd 0 a n := fun a n => by simp only [Core.rd, Core.mem, h]
  unfold Core.streamRow
  simp only [hr]

theorem writeRow_act (s : State) (k : Site) (line acc : Nat) (tile : Tile) (a : List Int) (sr : Word) (sc : VReg) :
    ((s.writeRow k line acc tile a sr sc).core k).act = (s.core k).act :=
  jwrite_mem s k 2 _ _ false 0 (by decide) (by decide) (by decide) (by decide)

theorem stored_writeRow (s : State) (k : Site) (line acc : Nat) (tile : Tile) (a : List Int) (sr : Word) (sc : VReg) :
    s.stored (s.writeRow k line acc tile a sr sc) k := stored_jwrite ..

/-- A stream whose rows all have legal scales and sound checksums writes every row. -/
theorem streamRows_ok (k : Site) (e : QEntry) (tile : Tile) (sc : VReg) (acc : Nat) (ign : Bool) (c : Core) (n t : Nat) (s : State)
    (hc : (s.core k).act = c.act) (h1 : ∀ i < n, (c.streamRow e (t + i)).2.isSome = true)
    (h2 : ∀ i < n, rowFails tile (c.streamRow e (t + i)).1 = false) :
    streamRows k e tile sc acc ign n t s = .ok ((List.range n).foldl (fun u i =>
      u.writeRow k (fld e.word 28 18 + (t + i)) acc tile (c.streamRow e (t + i)).1 ((c.streamRow e (t + i)).2.getD 0#32) sc) s) := by
  induction n generalizing t s with
  | zero => rfl
  | succ n ih =>
    obtain ⟨sr, hsr⟩ := Option.isSome_iff_exists.mp (h1 0 (by omega))
    have hf := h2 0 (by omega)
    simp only [Nat.add_zero] at hsr hf
    unfold streamRows
    dsimp only
    rw [streamRow_act c (s.core k) e t hc, hsr]
    dsimp only
    rw [hf, if_neg (by simp), ih (t + 1) _ ((writeRow_act ..).trans hc)
      (fun i hi => by have := h1 (i + 1) (by omega); rwa [show t + 1 + i = t + (i + 1) by omega])
      (fun i hi => by have := h2 (i + 1) (by omega); rwa [show t + 1 + i = t + (i + 1) by omega])]
    rw [List.range_succ_eq_map, List.foldl_cons, List.foldl_map]
    simp only [Nat.add_zero, hsr, Option.getD_some]
    refine congrArg Res.ok (List.foldl_ext _ _ _ fun u i _ => ?_)
    rw [show t + 1 + i = t + i.succ by omega]

theorem stored_writeComplex (s : State) (k : Site) (l0 l1 acc : Nat) (c d : Tile) (a b u : List Int) (sa sb su : Word) (sc : VReg) :
    s.stored (s.writeComplex k l0 l1 acc c d a b u sa sb su sc) k := State.stored_trans (stored_jwrite ..) (stored_jwrite ..)

theorem writeComplex_act (s : State) (k : Site) (l0 l1 acc : Nat) (c d : Tile) (a b u : List Int) (sa sb su : Word) (sc : VReg) :
    ((s.writeComplex k l0 l1 acc c d a b u sa sb su sc).core k).act = (s.core k).act :=
  (jwrite_mem _ k 2 _ _ false 0 (by decide) (by decide) (by decide) (by decide)).trans
    (jwrite_mem s k 2 _ _ false 0 (by decide) (by decide) (by decide) (by decide))

/-- A complex stream whose rows all have legal scales and sound checksums writes every row. -/
theorem complexRows_ok (k : Site) (e : QEntry) (tc td : Tile) (sc : VReg) (acc total : Nat) (ign : Bool) (c : Core) (n t : Nat)
    (s : State) (hc : (s.core k).act = c.act)
    (h1 : ∀ i < n, (c.streamRow e (3 * (t + i))).2.isSome = true ∧ (c.streamRow e (3 * (t + i) + 1)).2.isSome = true ∧
      (c.streamRow e (3 * (t + i) + 2)).2.isSome = true)
    (h2 : ∀ i < n, rowFails tc (c.streamRow e (3 * (t + i))).1 = false ∧ rowFails td (c.streamRow e (3 * (t + i) + 1)).1 = false ∧
      pairFails tc td (c.streamRow e (3 * (t + i) + 2)).1 = false) :
    complexRows k e tc td sc acc total ign n t s = .ok ((List.range n).foldl (fun u i =>
      u.writeComplex k (fld e.word 28 18 + (t + i)) (fld e.word 28 18 + total + (t + i)) acc tc td
        (c.streamRow e (3 * (t + i))).1 (c.streamRow e (3 * (t + i) + 1)).1 (c.streamRow e (3 * (t + i) + 2)).1
        ((c.streamRow e (3 * (t + i))).2.getD 0#32) ((c.streamRow e (3 * (t + i) + 1)).2.getD 0#32)
        ((c.streamRow e (3 * (t + i) + 2)).2.getD 0#32) sc) s) := by
  induction n generalizing t s with
  | zero => rfl
  | succ n ih =>
    obtain ⟨g1, g2, g3⟩ := h1 0 (by omega)
    obtain ⟨sa, ha⟩ := Option.isSome_iff_exists.mp g1
    obtain ⟨sb, hb⟩ := Option.isSome_iff_exists.mp g2
    obtain ⟨su, hu⟩ := Option.isSome_iff_exists.mp g3
    obtain ⟨f1, f2, f3⟩ := h2 0 (by omega)
    simp only [Nat.add_zero] at ha hb hu f1 f2 f3
    unfold complexRows
    dsimp only
    rw [streamRow_act c (s.core k) e _ hc, streamRow_act c (s.core k) e _ hc, streamRow_act c (s.core k) e _ hc, ha, hb, hu]
    dsimp only
    rw [f1, f2, f3, if_neg (by simp), ih (t + 1) _ ((writeComplex_act ..).trans hc)
      (fun i hi => by have := h1 (i + 1) (by omega); rwa [show t + 1 + i = t + (i + 1) by omega])
      (fun i hi => by have := h2 (i + 1) (by omega); rwa [show t + 1 + i = t + (i + 1) by omega])]
    rw [List.range_succ_eq_map, List.foldl_cons, List.foldl_map]
    simp only [Nat.add_zero, ha, hb, hu, Option.getD_some]
    refine congrArg Res.ok (List.foldl_ext _ _ _ fun u i _ => ?_)
    rw [show t + 1 + i = t + i.succ by omega]

end Sys2Proof.Machine
end

