-- ==== Sys2Proof/Laws/Fused.lean ====
section
/-! SUPPORT. What operations of a core leave of its instructions under way: fused commands, sends and receives. -/

namespace Sys2Proof.Machine

/-- `d` has the same instructions, tokens, held signals and tiles under way as `c`. -/
def Core.kept (c d : Core) : Prop :=
  d.stream = c.stream ∧ d.aq = c.aq ∧ d.vq = c.vq ∧ d.tq = c.tq ∧ d.heldSignals = c.heldSignals ∧ d.t = c.t ∧
    d.shadow = c.shadow ∧ d.inflight = c.inflight

def State.kept (s t : State) (k : Site) : Prop := (s.core k).kept (t.core k)

theorem State.kept_refl (s : State) (k : Site) : s.kept s k := ⟨rfl, rfl, rfl, rfl, rfl, rfl, rfl, rfl⟩

theorem State.kept_trans {s t u : State} {k : Site} (h1 : s.kept t k) (h2 : t.kept u k) : s.kept u k := by
  obtain ⟨a1, a2, a3, a4, a5, a6, a7, a8⟩ := h1
  obtain ⟨b1, b2, b3, b4, b5, b6, b7, b8⟩ := h2
  exact ⟨b1.trans a1, b2.trans a2, b3.trans a3, b4.trans a4, b5.trans a5, b6.trans a6, b7.trans a7, b8.trans a8⟩

theorem State.kept_foldl {α : Type} (k : Site) (f : State → α → State) (h : ∀ (s : State) (x : α), s.kept (f s x) k)
    (l : List α) (s : State) : s.kept (l.foldl f s) k := by
  induction l generalizing s with
  | nil => exact s.kept_refl k
  | cons x r ih => exact State.kept_trans (h s x) (ih _)

theorem State.kept_of_core (s t : State) (k : Site) (h : t.core k = s.core k) : s.kept t k := by
  rw [State.kept, h]
  exact s.kept_refl k

theorem State.kept_of_stored (s t : State) (k : Site) (h : s.stored t k) : s.kept t k := by
  rw [State.kept, h.1]
  exact ⟨rfl, rfl, rfl, rfl, rfl, rfl, rfl, rfl⟩

theorem kept_jwrite (s : State) (k : Site) (st a : Nat) (bs : List Byte) (r : Bool) : s.kept (s.jwrite k st a bs r) k :=
  State.kept_of_stored _ _ _ (stored_jwrite ..)

theorem State.kept_mapCore (s : State) (k : Site) (f : Core → Core) (h : (s.core k).kept (f (s.core k))) : s.kept (s.mapCore k f) k := by
  rw [State.kept, State.core_mapCore_same]
  exact h

theorem State.kept_ite (s t u : State) (k : Site) (p : Prop) [Decidable p] (h1 : s.kept t k) (h2 : s.kept u k) :
    s.kept (if p then t else u) k := by
  split
  · exact h1
  · exact h2

/-- What keeps the instructions under way keeps a core calm. -/
theorem calm_kept (c : Core) (s t : State) (k : Site) (h : s.kept t k) (hc : c.calm (s.core k) = true) :
    c.calm (t.core k) = true := by
  obtain ⟨c1, c2, c3, c4, c5, c6, c7⟩ := (Core.calm_iff _ _).mp hc
  obtain ⟨b1, b2, b3, b4, b5, b6, b7, b8⟩ := h
  refine (Core.calm_iff _ _).mpr ⟨b1.trans c1, b2.trans c2, b3.trans c3, b4.trans c4, ?_, b5.trans c6, b6.trans c7⟩
  unfold Core.settled at c5 ⊢
  rw [b7, b8]
  exact c5

theorem calm_of_kept (s : State) (k : Site) (t : State) (h : (s.core k).rest = true) (ht : (s.coreTook k).kept t k) :
    (s.core k).calm (t.core k) = true := calm_kept _ _ _ _ ht (calm_took s k h)

/-! ### Sends and receives -/

theorem core_inject (s : State) (k j : Site) (f : Flit) : (s.inject k f).core j = s.core j := rfl

theorem core_injects (s : State) (k j : Site) (l : List Flit) : (l.foldl (fun s f => s.inject k f) s).core j = s.core j := by
  induction l generalizing s with
  | nil => rfl
  | cons x r ih => exact (ih _).trans rfl

theorem kept_sendFlits (s : State) (k : Site) (fs : List Flit) : s.kept (s.sendFlits k fs) k := by
  unfold State.sendFlits
  extract_lets r sent ledger s1
  refine State.kept_trans (State.kept_of_core _ s1 _ (core_injects ..)) (State.kept_mapCore _ _ _ ?_)
  exact ⟨rfl, rfl, rfl, rfl, rfl, rfl, rfl, rfl⟩

theorem kept_redNumber (s : State) (k : Site) (tree : Nat) : s.kept (s.redNumber k tree).2 k := by
  refine State.kept_mapCore s k (fun c => { c with redCount := putK c.redCount tree (getK c.redCount tree 0 + 1) }) ?_
  exact ⟨rfl, rfl, rfl, rfl, rfl, rfl, rfl, rfl⟩

theorem kept_recvWrite (s : State) (k : Site) (nth : Nat) (ws : List (Nat × Nat × List Byte)) (err : Option (Nat × Nat)) :
    s.kept (s.recvWrite k nth ws err) k := by
  unfold State.recvWrite
  refine State.kept_trans (State.kept_foldl k _ (fun (s : State) (x : Nat × Nat × List Byte) => ?_) ws s) (State.kept_mapCore _ _ _ ?_)
  · exact kept_jwrite ..
  · exact ⟨rfl, rfl, rfl, rfl, rfl, rfl, rfl, rfl⟩

theorem kept_countCode (s : State) (p code loc kind n a : Nat) (k : Site) : s.kept (s.countCode p code loc kind n a) k :=
  State.kept_of_core _ _ _ rfl

theorem kept_clipSomeRow (s : State) (k j : Site) : s.kept (s.clipSomeRow k) j := State.kept_of_core _ _ _ (core_clipSomeRow ..)

/-! ### Landed messages -/

/-- Landed flits leave what is under way in a core, and its posted receives, alone. -/
def Core.waits (c d : Core) : Prop := c.kept d ∧ d.posted = c.posted ∧ d.stopped = c.stopped
def State.waits (s t : State) (k : Site) : Prop := (s.core k).waits (t.core k)
theorem State.waits_refl (s : State) (k : Site) : s.waits s k := ⟨s.kept_refl k, rfl, rfl⟩
theorem State.waits_trans {s t u : State} {k : Site} (h1 : s.waits t k) (h2 : t.waits u k) : s.waits u k :=
  ⟨State.kept_trans h1.1 h2.1, h2.2.1.trans h1.2.1, h2.2.2.trans h1.2.2⟩
theorem State.waits_of_core (s t : State) (k : Site) (h : t.core k = s.core k) : s.waits t k := by
  rw [State.waits, h]; exact s.waits_refl k
theorem State.waits_of_stored (s t : State) (k : Site) (h : s.stored t k) : s.waits t k := by
  refine ⟨State.kept_of_stored _ _ _ h, ?_, ?_⟩ <;> rw [h.1]
theorem State.waits_mapCore (s : State) (k : Site) (f : Core → Core) (h : (s.core k).waits (f (s.core k))) : s.waits (s.mapCore k f) k := by
  rw [State.waits, State.core_mapCore_same]; exact h
theorem State.waits_foldl {α : Type} (k : Site) (f : State → α → State) (h : ∀ (s : State) (x : α), s.waits (f s x) k)
    (l : List α) (s : State) : s.waits (l.foldl f s) k := by
  induction l generalizing s with
  | nil => exact s.waits_refl k
  | cons x r ih => exact State.waits_trans (h s x) (ih _)

theorem waits_land (c d : Core) (f : Flit) (h : c.land f = some d) : c.waits d := by
  unfold Core.land at h
  dsimp only at h
  split at h
  · cases h; exact ⟨⟨rfl, rfl, rfl, rfl, rfl, rfl, rfl, rfl⟩, rfl, rfl⟩
  · split at h
    · cases h; exact ⟨⟨rfl, rfl, rfl, rfl, rfl, rfl, rfl, rfl⟩, rfl, rfl⟩
    · cases h

theorem waits_deliverLocal (s : State) (k : Site) (p : Port) (vc : Nat) (f : Flit) : s.waits (s.deliverLocal k p vc f) k := by
  unfold State.deliverLocal
  split
  · exact s.waits_refl k
  · split
    · exact State.waits_of_core _ _ _ rfl
    · split
      · exact State.waits_mapCore _ _ _ ⟨⟨rfl, rfl, rfl, rfl, rfl, rfl, rfl, rfl⟩, rfl, rfl⟩
      · split
        · next c hc =>
          rw [State.waits, State.core_setCore_same]
          exact waits_land _ _ _ hc
        · exact State.waits_of_core _ _ _ rfl

theorem waits_drainHeld (s : State) (k : Site) : s.waits (s.drainHeld k) k := by
  unfold State.drainHeld
  refine State.waits_trans (State.waits_of_core _ (s.mapRouter k fun r => { r with inq := r.inq.filter fun h => rMode h.flit ≥ 2 }) _ rfl) ?_
  exact State.waits_foldl k _ (fun s h => waits_deliverLocal ..) _ _

theorem waits_recvWrite (s : State) (k : Site) (nth : Nat) (ws : List (Nat × Nat × List Byte)) (err : Option (Nat × Nat)) :
    s.waits (s.recvWrite k nth ws err) k := by
  unfold State.recvWrite
  refine State.waits_trans (State.waits_foldl k _ (fun (s : State) (x : Nat × Nat × List Byte) => ?_) ws s) (State.waits_mapCore _ _ _ ?_)
  · exact State.waits_of_stored _ _ _ (stored_jwrite ..)
  · exact ⟨⟨rfl, rfl, rfl, rfl, rfl, rfl, rfl, rfl⟩, rfl, rfl⟩

theorem takeLanded_none (s : State) (k : Site) (n : Nat) (h : (s.core k).posted = []) : s.takeLanded k n = s := by
  cases n with
  | zero => rfl
  | succ n =>
    unfold State.takeLanded
    split
    · rfl
    · have : (s.core k).nextLanding = none := by
        unfold Core.nextLanding
        rw [h]
        simp only [List.findIdx?_nil, Option.map_none, ite_self]
        have : ∀ l : List (Landing × Nat), (l.filterMap fun _ => (none : Option (Nat × Nat))).head? = none := by
          intro l; induction l with
          | nil => rfl
          | cons x r ih => exact ih
        exact this _
      rw [this]
theorem completePosted_none (s : State) (k : Site) (n : Nat) (h : (s.core k).posted = []) : s.completePosted k n = s := by
  cases n with
  | zero => rfl
  | succ n => unfold State.completePosted; dsimp only; rw [h]

theorem posted_signal (c : Core) (q : QueueId) (i : Nat) : (c.signal q i).posted = c.posted := by
  unfold Core.signal; split <;> rfl
theorem posted_complete (t : State) (k : Site) (q : QueueId) (w : BitVec 56) : ((t.complete k q w).core k).posted = (t.core k).posted := by
  unfold State.complete
  split
  · dsimp only
    split
    · rw [State.core_mapCore_same, State.core_mapCore_same, posted_signal]; rfl
    · rw [State.core_mapCore_same, posted_signal]
  · rfl

theorem takeLanding_ok (s : State) (k : Site) (m : Landing) (p : Posted) (i j : Nat) (hd : s.debug = false) (hl : (s.core k).landing[i]? = some m)
    (hp : (s.core k).posted[j]? = some p) (hf : p.fault m.flits = none) (hpo : m.flits.any (·.poisoned) = false) :
    s.takeLanding k i j = (((s.mapCore k fun c => { c with landing := c.landing.eraseIdx i }).recvWrite
      k p.nth (p.writes m.flits) none).mapCore k fun c => { c with posted := c.posted.modify j fun p => { p with got := some none } }).drainHeld k := by
  unfold State.takeLanding
  dsimp only
  rw [hl, hp]
  dsimp only
  rw [hf]
  dsimp only
  rw [hpo]
  simp only [Bool.false_eq_true, if_false]
  have hd2 : (s.setCore k { s.core k with landing := (s.core k).landing.eraseIdx i }).debug = false := hd
  simp only [hd2, Bool.false_eq_true, if_false]
  rfl

end Sys2Proof.Machine
end

