-- ==== Sys2Proof/Laws/Control.lean ====
section
/-! SUPPORT. How the front end of a core runs, stalls at or ends its control instructions. -/

namespace Sys2Proof.Machine


theorem Core.advance_none (c : Core) (h : c.loops = []) (i : Nat) : c.advance i = { c with idx := i + 1 } := by
  unfold Core.advance
  rw [h]
  show ({ c with loops := ([] : List LoopFrame), idx := i + 1 } : Core) = _
  rw [← h]

theorem State.coreTookFront_core (s : State) (k : Site) : (s.coreTookFront k).core k = { s.core k with issued := (s.core k).issued + 1 } :=
  State.core_mapCore_same ..

theorem State.coreFront_rest (s : State) (k : Site) (op : CoreOp) (w : BitVec 56) (h : s.coreFront k op w = true) :
    (s.core k).rest = true := ((s.coreFront_iff k op w).mp h).2.2.1

theorem kept_tookFront (s : State) (k : Site) : s.kept (s.coreTookFront k) k :=
  State.kept_mapCore _ _ _ ⟨rfl, rfl, rfl, rfl, rfl, rfl, rfl, rfl⟩

theorem rest_settled (s : State) (k : Site) (h : (s.core k).rest = true) :
    ((s.coreTookFront k).core k).idle ∧ ((s.coreTookFront k).core k).settled = true := by
  obtain ⟨h1, h2, h3, h4, h5, h6, h7, h8, h9, h10, h11, h12, h13⟩ := (Core.rest_iff _).mp h
  rw [State.coreTookFront_core]
  exact ⟨⟨h1, h2, h3, h4, h9⟩, h8⟩

theorem kept_settled (s t : State) (k : Site) (h : s.kept t k) (hs : (s.core k).idle ∧ (s.core k).settled = true) :
    (t.core k).idle ∧ (t.core k).settled = true := by
  obtain ⟨⟨h1, h2, h3, h4, h9⟩, h8⟩ := hs
  obtain ⟨b1, b2, b3, b4, b5, b6, b7, b8⟩ := h
  refine ⟨⟨b1.trans h1, b2.trans h2, b3.trans h3, b4.trans h4, b5.trans h9⟩, ?_⟩
  unfold Core.settled at h8 ⊢
  rw [b7, b8]
  exact h8

theorem front_ran' (s : State) (k : Site) (op : CoreOp) (w : BitVec 56) (t : State) (i : Nat) (h : s.coreFront k op w = true)
    (hq : op.queue = .front) (hr : runCtl (s.coreTookFront k) k (s.coreEntry k op w) = .ran t i)
    (ht : (t.core k).idle ∧ (t.core k).settled = true) (hl : (t.core k).loops = []) :
    s.fetched k op w = t.mapCore k fun c => { c with idx := i + 1 } := by
  have hm : t.mapCore k (fun c => c.advance i) = t.mapCore k fun c => { c with idx := i + 1 } :=
    congrArg (fun z => t.setCore k z) (Core.advance_none _ hl i)
  have hk := kept_settled t (t.mapCore k fun c => { c with idx := i + 1 }) k
    (State.kept_mapCore _ _ _ ⟨rfl, rfl, rfl, rfl, rfl, rfl, rfl, rfl⟩) ht
  refine fetched_front s k op w _ h hq ?_ hk.1 (State.promote_settled _ _ hk.2)
  rw [hr]
  exact congrArg some hm

theorem front_ran (s : State) (k : Site) (op : CoreOp) (w : BitVec 56) (t : State) (i : Nat) (h : s.coreFront k op w = true)
    (hq : op.queue = .front) (hr : runCtl (s.coreTookFront k) k (s.coreEntry k op w) = .ran t i)
    (ht : (s.coreTookFront k).kept t k) (hl : (t.core k).loops = []) :
    s.fetched k op w = t.mapCore k fun c => { c with idx := i + 1 } :=
  front_ran' s k op w t i h hq hr (kept_settled _ _ _ ht (rest_settled s k (s.coreFront_rest k op w h))) hl

theorem front_jumped (s : State) (k : Site) (op : CoreOp) (w : BitVec 56) (t : State) (h : s.coreFront k op w = true)
    (hq : op.queue = .front) (hr : runCtl (s.coreTookFront k) k (s.coreEntry k op w) = .jumped t)
    (ht : (s.coreTookFront k).kept t k) : s.fetched k op w = t := by
  have hk := kept_settled _ _ _ ht (rest_settled s k (s.coreFront_rest k op w h))
  refine fetched_front s k op w _ h hq ?_ hk.1 (State.promote_settled _ _ hk.2)
  rw [hr]

theorem tookFront_loops (s : State) (k : Site) (h : (s.core k).rest = true) : ((s.coreTookFront k).core k).loops = [] := by
  rw [State.coreTookFront_core]
  exact ((Core.rest_iff _).mp h).2.2.2.2.1

theorem kept_setReg (s : State) (k : Site) (b : Bool) (i : Nat) (x : Word) : s.kept (s.mapCore k fun c => c.setReg b i x) k := by
  refine State.kept_mapCore _ _ _ ?_
  unfold Core.setReg
  split <;> exact ⟨rfl, rfl, rfl, rfl, rfl, rfl, rfl, rfl⟩

theorem loops_setReg (c : Core) (b : Bool) (i : Nat) (x : Word) : (c.setReg b i x).loops = c.loops := by
  unfold Core.setReg; split <;> rfl
theorem idx_setReg (c : Core) (b : Bool) (i : Nat) (x : Word) : (c.setReg b i x).idx = c.idx := by
  unfold Core.setReg; split <;> rfl

theorem State.mapCore_mapCore (s : State) (k : Site) (f g : Core → Core) : (s.mapCore k f).mapCore k g = s.mapCore k fun c => g (f c) := by
  unfold State.mapCore
  rw [State.core_setCore_same, State.setCore_setCore]

/-- A control instruction that writes one register. -/
theorem front_reg (s : State) (k : Site) (op : CoreOp) (w : BitVec 56) (b : Bool) (i : Nat) (x : Word)
    (h : s.coreFront k op w = true) (hq : op.queue = .front)
    (hr : runCtl (s.coreTookFront k) k (s.coreEntry k op w) = .ran ((s.coreTookFront k).mapCore k fun c => c.setReg b i x) (s.core k).idx) :
    s.fetched k op w = (s.coreTookFront k).mapCore k fun c => { c.setReg b i x with idx := c.idx + 1 } := by
  have hrest := s.coreFront_rest k op w h
  rw [front_ran s k op w _ _ h hq hr (kept_setReg ..) (by rw [State.core_mapCore_same, loops_setReg]; exact tookFront_loops s k hrest),
    State.mapCore_mapCore]
  unfold State.mapCore
  rw [State.coreTookFront_core]

/-! ### SOP, LOOP and TOK -/

theorem sopFn_of (n : Nat) (a b v : Word) (hv : [a + b, a - b, a * b, a &&& b, a ||| b, a ^^^ b, a <<< (b.toNat % 32), a >>> (b.toNat % 32),
      a.sshiftRight (b.toNat % 32),
      if a.toInt ≤ b.toInt then a else b, if b.toInt ≤ a.toInt then a else b,
      if a.toNat ≤ b.toNat then a else b, if b.toNat ≤ a.toNat then a else b][n]? = some v) : sopFn n a b = v := by
  have hn : n < 13 := by
    by_contra hc
    rw [List.getElem?_eq_none (by simp; omega)] at hv
    cases hv
  have : n = 0 ∨ n = 1 ∨ n = 2 ∨ n = 3 ∨ n = 4 ∨ n = 5 ∨ n = 6 ∨ n = 7 ∨ n = 8 ∨ n = 9 ∨ n = 10 ∨ n = 11 ∨ n = 12 := by omega
  rcases this with h | h | h | h | h | h | h | h | h | h | h | h | h <;> subst h
  all_goals (simp only [List.getElem?_cons_succ, List.getElem?_cons_zero, Option.some.injEq] at hv; rw [← hv]; try rfl)
  · show (if a.toInt < b.toInt then a else b) = _
    by_cases hc : a.toInt < b.toInt
    · rw [if_pos hc, if_pos (by omega)]
    · rw [if_neg hc]; split
      · exact (BitVec.eq_of_toInt_eq (by omega)).symm
      · rfl
  · show (if a.toInt < b.toInt then b else a) = _
    by_cases hc : a.toInt < b.toInt
    · rw [if_pos hc, if_neg (by omega)]
    · rw [if_neg hc, if_pos (by omega)]
  · show (if a.toNat < b.toNat then a else b) = _
    by_cases hc : a.toNat < b.toNat
    · rw [if_pos hc, if_pos (by omega)]
    · rw [if_neg hc]; split
      · exact (BitVec.eq_of_toNat_eq (by omega)).symm
      · rfl
  · show (if a.toNat < b.toNat then b else a) = _
    by_cases hc : a.toNat < b.toNat
    · rw [if_pos hc, if_neg (by omega)]
    · rw [if_neg hc, if_pos (by omega)]

theorem nextFetch_in (f : LoopFrame) (r : List LoopFrame) (i : Nat) (h : i ≠ f.last) : nextFetch 5 (f :: r) i = (f :: r, i + 1) := by
  show (if i = f.last then _ else _) = _
  rw [if_neg h]

theorem nextFetch_back (f : LoopFrame) (r : List LoopFrame) (h : 0 < f.left) :
    nextFetch 5 (f :: r) f.last = ({ f with left := f.left - 1 } :: r, f.first) := by
  show (if f.last = f.last then (if 0 < f.left then _ else _) else _) = _
  rw [if_pos rfl, if_pos h]

theorem nextFetch_end (f : LoopFrame) (r : List LoopFrame) (h : f.left = 0) (hr : ∀ g ∈ r.head?, g.last ≠ f.last) :
    nextFetch 5 (f :: r) f.last = (r, f.last + 1) := by
  show (if f.last = f.last then (if 0 < f.left then _ else nextFetch 4 r f.last) else _) = _
  rw [if_pos rfl, if_neg (by omega)]
  cases r with
  | nil => rfl
  | cons g r =>
    show (if f.last = g.last then _ else _) = _
    rw [if_neg (fun hx => hr g rfl hx.symm)]

theorem body_steps (c : Core) (f : LoopFrame) (r : List LoopFrame) (h : c.loops = f :: r) (hi : c.idx = f.first) (m : Nat)
    (hm : f.first + m ≤ f.last) :
    (fun c : Core => c.advance c.idx)^[m] c = { c with idx := f.first + m } := by
  induction m with
  | zero =>
    show c = _
    rw [Nat.add_zero, ← hi]
  | succ m ih =>
    rw [Function.iterate_succ_apply', ih (by omega)]
    show Core.advance _ _ = _
    unfold Core.advance
    show ({ c with loops := (nextFetch 5 c.loops (f.first + m)).1, idx := (nextFetch 5 c.loops (f.first + m)).2 } : Core) = _
    rw [h, nextFetch_in _ _ _ (by omega), ← h]
    rfl

theorem Core.tok_lt (c : Core) (i : Nat) : c.tok i < 256 := (c.t.toList.getD i 0#8).isLt

theorem setToks (g : Nat → Nat) (l : List Nat) (hl : ∀ i ∈ l, i < 16) (hn : l.Nodup) (c : Core) :
    ∃ ts : Vector Byte 16, l.foldl (fun c t => c.setTok t (g (c.tok t))) c = { c with t := ts } ∧
      ∀ i < 16, (i ∈ l → ({ c with t := ts } : Core).tok i = g (c.tok i) % 256) ∧ (i ∉ l → ({ c with t := ts } : Core).tok i = c.tok i) := by
  induction l generalizing c with
  | nil => exact ⟨c.t, rfl, fun i _ => ⟨fun h => (List.not_mem_nil h).elim, fun _ => rfl⟩⟩
  | cons x r ih =>
    obtain ⟨ts, h1, h2⟩ := ih (fun i hi => hl i (List.mem_cons_of_mem _ hi)) (List.nodup_cons.mp hn).2 (c.setTok x (g (c.tok x)))
    refine ⟨ts, h1, fun i hi => ?_⟩
    obtain ⟨a, b⟩ := h2 i hi
    have hx := hl x List.mem_cons_self
    constructor
    · intro hm
      rcases List.mem_cons.mp hm with rfl | hm
      · have := b (List.nodup_cons.mp hn).1
        rw [Core.tok_setTok_same _ _ _ hx] at this
        exact this
      · have hne : i ≠ x := fun he => (List.nodup_cons.mp hn).1 (he ▸ hm)
        have := a hm
        rw [Core.tok_setTok_other _ _ _ _ hne] at this
        exact this
    · intro hm
      have hne : i ≠ x := fun he => hm (he ▸ List.mem_cons_self)
      have := b (fun h => hm (List.mem_cons_of_mem _ h))
      rw [Core.tok_setTok_other _ _ _ _ hne] at this
      exact this

theorem signals_set (l : List Nat) (hl : ∀ i ∈ l, i < 16) (hn : l.Nodup) (c : Core) (h : ∀ i ∈ l, c.tok i < 255) :
    l.foldl (fun c t => c.signal .front t) c = l.foldl (fun c t => c.setTok t (c.tok t + 1)) c := by
  induction l generalizing c with
  | nil => rfl
  | cons x r ih =>
    have hs : c.signal .front x = c.setTok x (c.tok x + 1) := by
      unfold Core.signal; rw [if_pos (h x List.mem_cons_self)]
    rw [List.foldl_cons, List.foldl_cons, hs]
    refine ih (fun i hi => hl i (List.mem_cons_of_mem _ hi)) (List.nodup_cons.mp hn).2 _ (fun i hi => ?_)
    rw [Core.tok_setTok_other _ _ _ _ (fun he => by subst he; exact (List.nodup_cons.mp hn).1 hi)]
    exact h i (List.mem_cons_of_mem _ hi)

theorem mem_tokMask (w : BitVec 56) (i : Nat) : i ∈ tokMask w ↔ i < 16 ∧ bitOf (fld w 54 39) i = true := by
  unfold tokMask
  rw [List.mem_filter, List.mem_range]

theorem nodup_tokMask (w : BitVec 56) : (tokMask w).Nodup := List.Nodup.filter _ List.nodup_range

/-- An instruction that its front end cannot run yet waits in the core's stream (R100, R206). -/
theorem front_stalls (s : State) (k : Site) (op : CoreOp) (w : BitVec 56) (h : s.coreFront k op w = true)
    (hq : op.queue = .front) (hr : runCtl (s.coreTookFront k) k (s.coreEntry k op w) = .stall) :
    s.fetched k op w = s.mapCore k fun c => { c with stream := [s.coreEntry k op w] } := by
  obtain ⟨hk, hr', hrest, hw, hl⟩ := (s.coreFront_iff k op w).mp h
  obtain ⟨h1, h2, h3, h4, h5, h6, h7, h8, h9, h10, h11, h12, h13⟩ := (Core.rest_iff _).mp hrest
  unfold State.fetched
  simp only [hr', Bool.not_true, Bool.false_eq_true, if_false]
  have hs0 : (s.setCore k { s.core k with stream := (s.core k).stream ++
      [{ op := op, word := w, idx := (s.core k).idx, ord := (s.core k).dispatched, s := (s.core k).s, a := (s.core k).a }] }) =
      s.setCore k { s.core k with stream := [s.coreEntry k op w] } := by
    rw [h1]; rfl
  have hwork : ({ s.core k with stream := [s.coreEntry k op w] } : Core).work = 12 := by simp [Core.work, h2, h3, h4]
  rw [hs0, State.pumpCore, State.core_setCore_same, hwork]
  have hs3 : (s.setCore k { s.core k with stream := [s.coreEntry k op w] }).setCore k
      { s.core k with stream := [], issued := (s.core k).issued + 1 } = s.coreTookFront k := by
    rw [State.setCore_setCore, State.coreTookFront, State.mapCore_eq]
    congr 1
    generalize s.core k = c at *
    cases c
    simp only at *
    rw [h1]
  have hn : ¬ (0 < (s.kindWords k).length ∧ (s.kindWords k).length ≤ (s.core k).idx) := by
    rcases hw with hw | hw
    · simp [hw]
    · omega
  have hdisp : dispatchHead (s.setCore k { s.core k with stream := [s.coreEntry k op w] }) k = none := by
    have hc : (s.setCore k { s.core k with stream := [s.coreEntry k op w] }).core k =
        { s.core k with stream := [s.coreEntry k op w] } := State.core_setCore_same ..
    have hk' : (s.setCore k { s.core k with stream := [s.coreEntry k op w] }).kindWords k = s.kindWords k := by
      simp [State.kindWords]
    refine dispatch_front _ k (s.coreEntry k op w) _ (by rw [hc]) (by rw [hc]; exact h10) (by rw [hc]; exact h11)
      (by rw [hc]; exact h9) (by rw [hc]; exact h13) (by rw [hc, hk']; exact hn) hl hq ?_
    rw [hc, hs3]
    show (match runCtl (s.coreTookFront k) k (s.coreEntry k op w) with
      | .ran t i => some (t.mapCore k fun c => c.advance i)
      | .jumped t => some t
      | .stall => none
      | .illegal => some ((s.coreTookFront k).illegal k .front (s.coreEntry k op w))) = none
    rw [hr]
  show pump k 12 _ = s.setCore k { s.core k with stream := [s.coreEntry k op w] }
  generalize hs1 : (s.setCore k { s.core k with stream := [s.coreEntry k op w] }) = s1 at *
  have b1 : (s1.core k).heldSignals = [] := by rw [← hs1, State.core_setCore_same]; exact h9
  have q1 : ∀ q, (s1.core k).queue q = [] := by
    intro q
    rw [← hs1, State.core_setCore_same]
    cases q
    · exact h2
    · exact h3
    · exact h4
    · rfl
  refine pump_stop k 11 s1 (pumpRound_eq s1 k (s1, false) (s1, false) (s1, false) (s1, false) b1 ?_ ?_ ?_ ?_)
  · rw [issueHead_empty s1 k .array (q1 _)]
  · rw [issueHead_empty s1 k .vector (q1 _)]
  · rw [issueHead_empty s1 k .transfer (q1 _)]
  · rw [hdisp]


theorem exec_front (i : Instr) (s : State) (k : Site) (op : CoreOp) (w : BitVec 56) (t : State) (h : s.coreFront k op w = true)
    (hi : exec i s = onUnit k.ok s fun s => s.fetched k op w) (ht : s.fetched k op w = t) : exec i s = .next (t.withQueueOf s) := by
  rw [exec_unit i s (fun s => s.fetched k op w) hi ((s.coreFront_iff k op w).mp h).1, ht]

/-! ### BARR, DTAG and DBRK -/


theorem cores_guyControl (s : State) (l : Nat) (b : Block) : (s.guyControl l b).cores = s.cores := by
  unfold State.guyControl
  repeat (first | rfl | split)

theorem cores_foldl {α : Type} (f : State → α → State) (h : ∀ (s : State) (x : α), (f s x).cores = s.cores) (l : List α) (s : State) :
    (l.foldl f s).cores = s.cores := by
  induction l generalizing s with
  | nil => rfl
  | cons x r ih => exact (ih _).trans (h s x)

theorem cores_sendLosses (s : State) : s.sendLosses.cores = s.cores := by
  unfold State.sendLosses
  split
  · rfl
  · exact cores_foldl _ (fun s x => cores_foldl _ (fun s l => cores_guyControl ..) _ _) _ _

theorem cores_sendMarker (s : State) (l a b c : Nat) : (s.sendMarker l a b c).cores = s.cores := rfl

theorem cores_sendMarkers (s : State) (ls : List Nat) (a b c : Nat) : (ls.foldl (fun s l => s.sendMarker l a b c) s).cores = s.cores :=
  cores_foldl _ (fun _ _ => cores_sendMarker ..) _ _

theorem cores_markDone (s : State) : s.markDone.cores = s.cores := by
  unfold State.markDone
  generalize 2 ^ 64 - 1 = n
  split
  · rfl
  · split
    · exact (cores_foldl (fun u l => u.sendMarker l 1 0 u.tick.n) (fun _ _ => cores_sendMarker ..) _ _).trans (cores_sendLosses s)
    · split
      · exact cores_sendMarkers ..
      · rfl

theorem cores_freezeSettle (s : State) : s.freezeSettle.cores = s.cores := by
  unfold State.freezeSettle
  split <;> rfl

theorem cores_lateStage (s : State) (g p : Nat) : (s.lateStage g p).cores = s.cores := by
  unfold State.lateStage
  split
  · rfl
  · split <;> rfl

theorem cores_placeHold (s : State) (n : Nat) : (s.placeHold n).cores = s.cores := by
  unfold State.placeHold
  split <;> rfl

theorem State.core_of_cores (s t : State) (k : Site) (h : t.cores = s.cores) : t.core k = s.core k := by
  unfold State.core
  rw [h]

theorem core_coreDone (s : State) (k : Site) :
    (s.coreDone k).core k = { s.core k with atBarrier := true, guardTouched := [] } := by
  have h : ((s.mapCore k fun c => { c with atBarrier := true }).closeMarks k).core k = { s.core k with atBarrier := true, guardTouched := [] } := by
    refine (State.core_setCore_same (s.mapCore k fun c => { c with atBarrier := true }) k _).trans ?_
    rw [State.core_mapCore_same]
  unfold State.coreDone
  extract_lets s1
  rw [← h]
  split
  · rfl
  · split
    · refine State.core_of_cores _ _ _ ?_
      rw [cores_freezeSettle, cores_markDone, cores_lateStage]
    · rfl

theorem tookFront_drained (s : State) (k : Site) (h : (s.core k).rest = true) (hi : (s.core k).inflight = none) :
    ((s.coreTookFront k).core k).drained = true := by
  obtain ⟨h1, h2, h3, h4, h5, h6, h7, h8, h9, h10, h11, h12, h13⟩ := (Core.rest_iff _).mp h
  rw [State.coreTookFront_core]
  simp [Core.drained, Core.quiet, h2, h3, h4, h6, h9, h10, hi]

theorem cores_freezeNow (s : State) : s.freezeNow.cores = s.cores := rfl

theorem requestFreeze_cores (s : State) (src : FreezeSource) (b : Bool) : (s.requestFreeze src b).cores = s.cores := by
  have key : ∀ (t : State) (f : FreezeState), (match f with
      | .frozen | .dead => t
      | .pending => if b then t.freezeNow else t
      | .running => if b then t.freezeNow else
        ({ t.placeHold 4 with freeze := { (t.placeHold 4).freeze with state := .pending } } : State).freezeSettle).cores = t.cores := by
    intro t f
    cases f
    · dsimp only
      split
      · rfl
      · exact (cores_freezeSettle _).trans (cores_placeHold t 4)
    · dsimp only; split <;> rfl
    · rfl
    · rfl
  unfold State.requestFreeze
  exact key _ _

theorem dtag_only (m rd sl : Nat) (l : List Nat) (c : Core) (n : Nat) :
    (l.foldl (fun c i => match dtagSlot m rd (c.tagOf (sl + i)) with
          | some t => c.setTag (sl + i) t
          | none => { c with tags := delK c.tags (sl + i) }) c) =
      { c with tags := (l.foldl (fun c i => match dtagSlot m rd (c.tagOf (sl + i)) with
          | some t => c.setTag (sl + i) t
          | none => { c with tags := delK c.tags (sl + i) }) c).tags } ∧
    l.foldl (fun c i => match dtagSlot m rd (c.tagOf (sl + i)) with
          | some t => c.setTag (sl + i) t
          | none => { c with tags := delK c.tags (sl + i) }) { c with idx := n } =
      { l.foldl (fun c i => match dtagSlot m rd (c.tagOf (sl + i)) with
          | some t => c.setTag (sl + i) t
          | none => { c with tags := delK c.tags (sl + i) }) c with idx := n } := by
  induction l generalizing c with
  | nil => exact ⟨rfl, rfl⟩
  | cons x r ih =>
    simp only [List.foldl_cons]
    have e : (Core.tagOf { c with idx := n } (sl + x)) = c.tagOf (sl + x) := rfl
    rw [e]
    cases hd : dtagSlot m rd (c.tagOf (sl + x)) with
    | some t =>
      obtain ⟨h1, h2⟩ := ih (c.setTag (sl + x) t)
      exact ⟨h1, h2⟩
    | none =>
      obtain ⟨h1, h2⟩ := ih { c with tags := delK c.tags (sl + x) }
      exact ⟨h1, h2⟩

end Sys2Proof.Machine
end

