-- ==== Sys2Proof/Laws/Rings.lean ====
section
/-! SUPPORT. Laws of the control rings: what a control command does with the descriptor at its ring's head. -/

namespace Sys2Proof.Machine

/-- The head of a control ring and what a control command does with it, by the state once reserved kinds are refused. -/
theorem ctrlHead_eq (s : State) (f kind : Nat) (t : State) (h : State.refuseKinds f ((s.fn f).ring 4).waiting s = t) :
    s.ctrlHead f kind = (t.ctrl f kind).map (fun c => (c, t)) ∧ ∀ g, s.ctrlPeek f kind g = match t.ctrl f kind with
      | none => t
      | some c => g c t := by
  refine ⟨?_, fun g => ?_⟩
  · unfold State.ctrlHead
    rw [h]
  · unfold State.ctrlPeek
    rw [h]
    all_goals rfl

/-- With a descriptor of its kind at the head a control command acts on it. -/
theorem ctrlPeek_some (s : State) (f kind : Nat) (g : Ctrl → State → State) (c : Ctrl) (u : State) (h : s.ctrlHead f kind = some (c, u)) :
    s.ctrlPeek f kind g = g c u := by
  generalize ht : State.refuseKinds f ((s.fn f).ring 4).waiting s = t
  obtain ⟨h1, h2⟩ := ctrlHead_eq s f kind t ht
  rw [h2]
  rw [h1] at h
  cases hc : t.ctrl f kind with
  | none => rw [hc] at h; cases h
  | some c' => rw [hc] at h; cases h; rfl

/-- Without one it only refuses what is reserved. -/
theorem ctrlPeek_none (s : State) (f kind : Nat) (g : Ctrl → State → State) (h : s.ctrlHead f kind = none) :
    s.ctrlPeek f kind g = State.refuseKinds f ((s.fn f).ring 4).waiting s := by
  generalize ht : State.refuseKinds f ((s.fn f).ring 4).waiting s = t
  obtain ⟨h1, h2⟩ := ctrlHead_eq s f kind t ht
  rw [h2]
  rw [h1] at h
  cases hc : t.ctrl f kind with
  | none => rfl
  | some c' => rw [hc] at h; cases h

/-- A control command with its descriptor at the head. -/
theorem ctrl_exec (i : Instr) (s : State) (f kind : Nat) (g : Ctrl → State → State) (c : Ctrl) (u t : State) (hf : fnOk f)
    (h : s.ctrlHead f kind = some (c, u)) (hi : exec i s = onUnit (fnOk f) s fun s => s.ctrlPeek f kind g) (hg : g c u = t) :
    exec i s = .next (t.withQueueOf s) := by
  rw [exec_unit i s (fun s => s.ctrlPeek f kind g) hi hf, ctrlPeek_some s f kind g c u h, hg]

/-- A weight operation whose first checks pass (R373). -/
theorem weight_exec (i : Instr) (s : State) (kind : Nat) (fields : List (Nat × Nat)) (needs : Bool) (g : Ctrl → State → State) (c : Ctrl) (u t : State)
    (h : s.ctrlHead 0 kind = some (c, u)) (hi : exec i s = onUnit (fnOk 0) s fun s => s.weightOp 0 kind fields needs g)
    (hd : descClear c.bs fields = true) (hn : needs = true → (u.ctrlNext 0).loaded ≠ none ∧ (u.ctrlNext 0).weights.op = .none) (hg : g c (u.ctrlNext 0) = t) :
    exec i s = .next (t.withQueueOf s) := by
  refine ctrl_exec i s 0 kind _ c u t (by decide) h hi ?_
  dsimp only
  rw [if_neg (by rw [hd]; decide), if_neg (by decide)]
  cases needs with
  | false => exact hg
  | true =>
    obtain ⟨h1, h2⟩ := hn rfl
    have h1' : (u.ctrlNext 0).loaded.isNone = false := by
      cases hh : (u.ctrlNext 0).loaded with
      | none => exact absurd hh h1
      | some => rfl
    have h2' : ((u.ctrlNext 0).weights.op != .none) = false := by rw [h2]; rfl
    rw [if_neg (by rw [h1']; decide), if_neg (by rw [h2']; decide)]
    exact hg

/-- A command of a unit that there is. -/
theorem ou {ok : Prop} [Decidable ok] {s t : State} {f : State → State} (h : ok) (hf : f s = t) :
    onUnit ok s f = .next (t.withQueueOf s) := by
  rw [onUnit_next h, hf]

/-- One that does nothing. -/
theorem ou_same {ok : Prop} [Decidable ok] {s : State} {f : State → State} (h : ok) (hf : f s = s) :
    onUnit ok s f = .next s := ou h hf

/-- A command of the module whose effect is `f`. -/
theorem exec_next (i : Instr) (s : State) (t : State) (f : State → State) (hi : exec i s = onUnit True s f) (hf : f s = t) :
    exec i s = .next (t.withQueueOf s) := by
  rw [hi, onUnit_next trivial, hf]

/-- One that has none. -/
theorem exec_same (i : Instr) (s : State) (f : State → State) (hi : exec i s = onUnit True s f) (hf : f s = s) :
    exec i s = .next s := exec_next i s s f hi hf

end Sys2Proof.Machine
end

