-- ==== Sys2Proof/Tests/Slice0.lean ====
section
/-! SUPPORT. Tests: the well-formedness checks refuse what they should, one step of commands on small states, and for every
statement states and operands that meet its hypotheses. -/

open Sys2Proof Sys2Proof.Machine

namespace Sys2Proof.Tests

set_option Elab.async false

/-! ### Small states -/

/-- An instruction word's operand bits from (lowest bit, value) pairs. -/
def word (fs : List (Nat × Nat)) : BitVec 56 := BitVec.ofNat 56 (fs.foldl (fun n f => n + f.2 * 2 ^ f.1) 0)

def k0 : Site := ⟨0, 0, 0⟩
def assign0 : Assign := { stage := 0, region := 0, index := 0, cores := 1, kind := 0, sset := 0 }
def panelUp : PanelState :=
  { dom := Vector.replicate 4 { on := true }, retention := false, pstate := .full, ready := true }
def coreUp : Core := { tab := { assign := some assign0, wTop := 2 ^ 24 } }

/-- The module with one core that has a core kind assigned, at rest. -/
def coreState (c : Core) : State := { cores := [(k0, c)], panels := [(0, panelUp)] }
def up : State := coreState coreUp

def serving0 : Serving :=
  { scan := 0, ln := 2, trees := [0, 1, 2, 3], chunkMax := 64, chunkMin := 1, preMin := 1, draftMax := 4, match_ := 0
    vocab := 100, goals := [] }
def package0 : Package :=
  { debugOk := true, chained := false, guard := false, tMin := 2000, tMax := 4000, slack := 0, rows := 8, init := 0, body := 0
    sat := 0, qrep := 0, drep := 0, image := 0, digest := 0, kinds := [], plans := [], trees := ⟨[], []⟩
    kv := { kv4 := false, minPages := 0, blkCap := 1, appCap := 1, ltSlot := 0, stride := 0, groups := [] }
    rations := none, serving := serving0, manifest := ⟨[], 0, 0, [], []⟩ }
def loaded0 : Loaded :=
  { pkg := package0, planIdx := 0, plan := ⟨1, [], []⟩, t := 2000, rows := 8, debug := false, started := true, func := 0
    ringIdx := 0, utag := 0 }

/-! ### Hypotheses met: a core's instructions -/

theorem test_core_issues : ∀ op ∈ [CoreOp.vadd, .vsub, .vmul, .vfma, .vmax, .vmin, .vuna, .vsel, .vred, .vcmp, .vcvt, .vexp2,
    .vrcp, .vrsq, .vlog2, .vbcst], up.coreIssues k0 op 0 = true := by decide

theorem test_broadcast_source : up.coreIssues k0 .vbcst (word [(36, 1), (0, 0xFFFFFFFF)]) = true ∧
    legalWord .vbcst (word [(5, 1)]) = false ∧ legalWord .vbcst (word [(35, 1), (36, 1)]) = false := by decide

theorem test_vmem_ok : up.coreIssues k0 .vld 0 = true ∧ up.vmemOk k0 .vld 0 ∧ up.coreIssues k0 .vst 0 = true ∧
    up.vmemOk k0 .vst 0 := ⟨by decide, ⟨by decide, by decide⟩, by decide, ⟨by decide, by decide⟩⟩

/-- The last partial-sum line, and the line beyond it. -/
def lineCore (n : Nat) : Core := { coreUp with a := coreUp.a.set 0 (BitVec.ofNat 32 n) }
theorem test_vmem_edge : (coreState (lineCore 2047)).vmemOk k0 .vld (word [(32, 1)]) ∧
    (lineCore 2048).inWindow 2 (2048 * 256) 256 = false := ⟨⟨by decide, by decide⟩, by decide⟩

/-- VQNT: with DYN, with a preset scale of 1.0, and with one that clips under a package whose SAT is 0. -/
def quantCore : Core := { coreUp with act := Mem.write [] 0 [0x80#8, 0x3F#8], psum := Mem.write [] 0 [0#8, 0#8, 0x80#8, 0x7E#8] }
theorem test_quant_dyn : up.coreIssues k0 .vqnt (word [(24, 1)]) = true ∧ vqntAligned (up.coreEntry k0 .vqnt (word [(24, 1)])) = true ∧
    (up.core k0).inWindow (vqntSrc (up.coreEntry k0 .vqnt (word [(24, 1)]))).1 (vqntSrc (up.coreEntry k0 .vqnt (word [(24, 1)]))).2 256 = true := by
  decide
theorem test_quant_preset : (coreState quantCore).coreIssues k0 .vqnt 0 = true ∧ a8Legal (leNat (quantCore.rd 0 0 2)) = true ∧
    (quantBlock (ofBF16 (BitVec.ofNat 16 (leNat (quantCore.rd 0 0 2)))) 127 (wordsOf (quantCore.rd 2 0 256) 64)).2.2 = 1 ∧
    1 ≤ (coreState quantCore).satLimit := by decide
theorem test_quant_clips : ({ coreState quantCore with loaded := some loaded0 } : State).coreIssues k0 .vqnt 0 = true ∧
    ({ coreState quantCore with loaded := some loaded0 } : State).satLimit = 0 ∧
    ({ coreState quantCore with loaded := some loaded0 } : State).quantMayReplay k0 = false := by decide
theorem test_deq_split : (coreState quantCore).coreIssues k0 .vdeq 0 = true ∧ up.coreIssues k0 .vsplt 0 = true := by decide

theorem test_rotate : up.coreIssues k0 .vrot 0 = true ∧ ((up.coreEntry k0 .vrot 0).sReg 0).toNat ≤ 65535 ∧
    up.coreIssues k0 .vrope 0 = true ∧ (up.core k0).freqs 0 32 = some (List.replicate 32 0#32) := by decide

/-- Transfers of one unit; and a fill that ends at the last byte of the partial-sum store. -/
def unitCore (n a : Nat) : Core :=
  { coreUp with s := coreUp.s.set 0 (BitVec.ofNat 32 n), a := coreUp.a.set 0 (BitVec.ofNat 32 a) }
theorem test_transfers : (coreState (unitCore 1 0)).coreIssues k0 .xmov 0 = true ∧ unitCount 1 = true ∧
    (coreState (unitCore 1 0)).coreIssues k0 .xfill 0 = true ∧ xfillCount ((coreState (unitCore 1 0)).coreEntry k0 .xfill 0) = 1 ∧
    xmovCount ((coreState (unitCore 1 0)).coreEntry k0 .xmov 0) = 1 := by decide
theorem test_fill_edge : (unitCore 1 (2 ^ 19 - 32)).inWindow 2 (2 ^ 19 - 32) 32 = true ∧
    (unitCore 1 (2 ^ 19)).inWindow 2 (2 ^ 19) 32 = false ∧ unitCount 0 = false ∧ unitCount 65535 = true ∧
    xfillDst ((coreState (unitCore 1 (2 ^ 19 - 32))).coreEntry k0 .xfill (word [(36, 2)])) = (2, 2 ^ 19 - 32) ∧
    (coreState (unitCore 1 (2 ^ 19 - 32))).coreIssues k0 .xfill (word [(36, 2)]) = true := by decide
theorem test_splice : up.coreIssues k0 .xtw (word [(30, 1)]) = true ∧ xtwLegal (up.coreEntry k0 .xtw (word [(30, 1)])) = true ∧
    (up.core k0).inWindow 1 (xtwDst (up.coreEntry k0 .xtw (word [(30, 1)]))) 512 = true ∧
    xtwBlock (up.coreEntry k0 .xtw (word [(30, 3), (37, 1)])) = true ∧
    xtwLegal (up.coreEntry k0 .xtw (word [(30, 3), (37, 1)])) = true := by decide

/-! ### Hypotheses met: the array -/

def qe (op : CoreOp) (w : BitVec 56) : QEntry := up.coreEntry k0 op w
def tile0 : Tile := mkTile .w2 0 [] []
def flying : Flight := ⟨qe .aload (word [(18, 1)]), 0, .w2, none⟩

theorem test_aload : up.coreIssues k0 .aload 0 = true ∧ (up.core k0).inflight = none ∧
    (up.core k0).inWindow 1 (2 ^ 24 - 512) 512 = true ∧ (up.core k0).inWindow 1 (2 ^ 24) 512 = false := by decide

/-- A tile on its way: to a free shadow position, to a taken one, and one whose source the loader refuses (a ternary cell of
code 2). -/
def flightState (c : Core) : State := coreState { c with inflight := some flying }
theorem test_tile_arrives : (flightState coreUp).coreRuns k0 = true ∧ ((flightState coreUp).core k0).badIn 1 0 512 = none ∧
    (loadTile .w2 0 (((flightState coreUp).core k0).rd 1 0 512)).isSome = true ∧ wSE flying.entry.word = false := by decide
theorem test_tile_idle : ((flightState { coreUp with shadow := some tile0 }).core k0).idle ∧
    ((flightState { coreUp with shadow := some tile0 }).core k0).shadow.isSome = true := ⟨⟨rfl, rfl, rfl, rfl, rfl⟩, rfl⟩
theorem test_tile_refused : loadTile .t158 0 (({ coreUp with wgt := Mem.write [] 0 [0xAA#8] } : Core).rd 1 0 512) = none := by decide +kernel
theorem test_adrain : up.coreIssues k0 .adrain (word [(40, 3)]) = true := by decide

/-- One row of zeros streamed on line 2047 with unit scales, by a tile in the shadow position; and a complex row by two. -/
def streamCore : Core := { unitCore 1 0 with shadow := some tile0 }
def streamWord : BitVec 56 := word [(4, 1), (18, 2047), (16, 3)]
theorem test_stream : (coreState streamCore).coreIssues k0 .astrm streamWord = true ∧
    streamLegal ((coreState streamCore).coreEntry k0 .astrm streamWord) = true ∧ fld streamWord 28 18 + 1 ≤ 2048 ∧
    (streamCore.streamRow ((coreState streamCore).coreEntry k0 .astrm streamWord) 0).2.isSome = true ∧
    rowFails tile0 (streamCore.streamRow ((coreState streamCore).coreEntry k0 .astrm streamWord) 0).1 = false := by decide +kernel
def pairCore : Core := { streamCore with inflight := some { flying with tile := some tile0 } }
def pairWord : BitVec 56 := word [(4, 1), (18, 2046), (16, 2)]
theorem test_pair : (coreState pairCore).coreIssues k0 .astrc pairWord = true ∧
    streamLegal ((coreState pairCore).coreEntry k0 .astrc pairWord) = true ∧ fld pairWord 28 18 + 2 * 1 ≤ 2048 ∧
    tile0.mode = .w2 ∧ pairFails tile0 tile0 (pairCore.streamRow ((coreState pairCore).coreEntry k0 .astrc pairWord) 2).1 = false := by
  decide +kernel

/-! ### Hypotheses met: sends, receives and fused commands -/

def netCore : Core := { coreUp with tab := { assign := some assign0, wTop := 2 ^ 24, dest := [⟨0, k0, 5⟩], mcSource := [7]
                                             roots := [⟨0, k0, 1, false⟩] } }
theorem test_fsend : (coreState netCore).coreIssues k0 .fsend (word [(23, 1)]) = true ∧
    (coreState netCore).fsendDst k0 ((coreState netCore).coreEntry k0 .fsend (word [(23, 1)])) = some (0, k0, 5) ∧
    (coreState netCore).fsendDst k0 ((coreState netCore).coreEntry k0 .fsend (word [(23, 64), (36, 1), (30, 7)])) = some (1, k0, 7) := by
  decide
theorem test_fsend_kv4 : (netCore.rd 0 0 4).any (fun b => b.getLsbD 7) = false ∧
    fsendTag ((coreState netCore).coreEntry k0 .fsend (word [(23, 1), (19, 3)])) = 3 := by decide
theorem test_fred_fmrg : (coreState netCore).coreIssues k0 .fred (word [(31, 64)]) = true ∧ redLines 0 64 ≤ 2048 ∧
    (netCore.tab.root 0).isSome = true ∧ (coreState netCore).coreIssues k0 .fmrg (word [(31, 64)]) = true ∧
    ∀ i < 64, (netCore.rd 0 0 512).getD (8 * i + 7) 0#8 = 0#8 := by decide +kernel

/-- A receive posted anew, and one whose step runs again. -/
theorem test_frecv : (coreState netCore).coreIssues k0 .frecv (word [(14, 1)]) = true ∧ recvNf (word [(14, 1)]) = 1 ∧
    fld (word [(14, 1)]) 41 40 < 2 ∧ netCore.rep.memo.find? (fun m => m.1 == 0) = none ∧
    (coreState { netCore with rep := { memo := [(0, ⟨none, []⟩)] } }).coreIssues k0 .frecv (word [(14, 1)]) = true := by decide
/-- A whole reduction message of one flit at its root. -/
def rootCore : Core := { netCore with rootIn := [netCore.redFlit 0 0 1 0 k0 0] }
theorem test_root : (coreState rootCore).coreIssues k0 .frecv (word [(40, 2), (14, 1)]) = true ∧
    firstMessage (rootCore.rootFlits 0) = some [netCore.redFlit 0 0 1 0 k0 0] ∧
    badCount 1 [netCore.redFlit 0 0 1 0 k0 0] = none ∧ rOp (netCore.redFlit 0 0 1 0 k0 0) = 0 ∧
    pNan (netCore.redFlit 0 0 1 0 k0 0) = false ∧ pOvf (netCore.redFlit 0 0 1 0 k0 0) = false ∧
    ((coreState rootCore).redNumber k0 0).1 = false := by decide +kernel
/-- A landed message of one flit and the receive posted for it. -/
def posted0 : Posted := { kind := 0, chan := 5, sdst := 0, dst := 0, tag := 0, asc := 0, nf := 1, entry := qe .frecv (word [(14, 1)]), nth := 0
                          got := none }
def flit0 : Flit := ⟨0, 0, false⟩
def landCore : Core := { netCore with posted := [posted0], landing := [⟨0, 5, [flit0], true⟩] }
theorem test_landed : (coreState landCore).coreRuns k0 = true ∧ landCore.nextLanding = some (0, 0) ∧
    (∃ t < 4, ({ posted0 with tag := t } : Posted).fault [flit0] = none) ∧ (coreState landCore).debug = false := by decide

/-- Descriptors in the activation store. -/
def descCore (ws : List (Nat × Nat)) : Core :=
  { netCore with act := ws.foldl (fun m w => Mem.write m w.1 (natLe 4 w.2)) [] }
def attendCore : Core := descCore [(0, 1 * 256 + 1 * 524288), (0x28, 65536)]
theorem test_attend : (coreState attendCore).coreIssues k0 .attend 0 = true ∧ fusedAligned ((coreState attendCore).coreEntry k0 .attend 0) = true ∧
    (attendDesc (attendCore.rd 0 0 128)).2 = true ∧ (attendCore.freqs 0 32).isSome = true ∧
    attendCore.attendFrames (attendDesc (attendCore.rd 0 0 128)).1 = [] := by decide
def gateCore : Core := descCore [(4, 1 + 1 * 8192 + 1 * 4194304)]
theorem test_gate : (coreState gateCore).coreIssues k0 .gate 0 = true ∧ (gateDesc (gateCore.rd 0 0 64)).2 = true ∧
    (gateDesc (gateCore.rd 0 0 64)).1.psl + 1 * 1 ≤ 2048 := by decide
theorem test_feed : (coreState (descCore [(4, 1 * 8192), (12, 1)])).coreIssues k0 .sampleFeed 0 = true ∧
    (feedDesc ((descCore [(4, 1 * 8192), (12, 1)]).rd 0 0 64)).2 = true ∧
    (feedDesc ((descCore [(4, 1 + 1 * 8192), (12, 1)]).rd 0 0 64)).2 = true ∧
    (feedDesc ((descCore [(4, 1 + 1 * 8192), (12, 1)]).rd 0 0 64)).1.nr = 1 := by decide

/-! ### Hypotheses met: control and debug instructions -/

theorem test_scalar : up.coreFront k0 .seti 0 = true ∧ (∀ fn < 13, up.coreFront k0 .sop (word [(45, fn)]) = true) := by decide
theorem test_sop_reserved : legalWord .sop (word [(45, 12)]) = true ∧ legalWord .sop (word [(45, 13)]) = false := by decide
def tickUp : State := { up with tick := { up.tick with running := true } }
theorem test_tparm : up.coreFront k0 .tparm 0 = true ∧ tickUp.coreFront k0 .tparm (word [(46, 6)]) = true := by decide
theorem test_loop : up.coreFront k0 .loop (word [(20, 1)]) = true ∧ up.coreFront k0 .loop (word [(55, 1), (34, 1), (20, 16383)]) = true := by
  decide
theorem test_loop_runs : let c : Core := { coreUp with loops := [⟨1, 2, 1⟩], idx := 1 }
    (fun c : Core => c.advance c.idx)^[4] c = { c with loops := [], idx := 3 } := by rfl
theorem test_barr_step : up.coreFront k0 .barr 0 = true ∧ up.coreFront k0 .step 0 = true ∧ (up.core k0).inflight = none := by decide
theorem test_tok : up.coreFront k0 .tok (word [(55, 1)]) = true ∧ up.coreFront k0 .tok (word [(55, 1), (39, 0x8000)]) = true ∧
    bitOf (fld (word [(55, 1), (39, 0x8000)]) 54 39) 15 = true ∧ (up.core k0).tok 15 = 0 ∧
    up.coreFront k0 .tok (word [(39, 0xFFFF)]) = true ∧ (∀ i < 16, (up.core k0).tok i < 255) := by decide
def debugUp : State := { up with loaded := some { loaded0 with debug := true } }
theorem test_debug : up.debug = false ∧ up.coreFront k0 .dtag (word [(37, 1)]) = true ∧ up.coreFront k0 .dtrace 0 = true ∧
    up.coreFront k0 .dbrk 0 = true ∧ debugUp.debug = true ∧ debugUp.coreFront k0 .dtag (word [(37, 1)]) = true ∧
    debugUp.coreFront k0 .dtrace 0 = true ∧ debugUp.coreFront k0 .dbrk (word [(55, 1)]) = true := by decide
theorem test_illegal : up.coreRuns k0 = true ∧ (up.core k0).rest = true ∧ up.kindWords k0 = [] ∧ legalWord .barr 1 = false := by decide

/-! ### Hypotheses met: routers, duplication, guards -/

def k1 : Site := ⟨0, 1, 1⟩
/-- A flit of one LAST word to a site: MODE, CLASS, CHAN, OP, payload. -/
def flitTo (mode cls : Nat) (dst : Site) (chan op pay : Nat) : Flit := ⟨0, sideTo mode cls dst chan op true pay, false⟩
def side (cls : BitVec 2) (f : Flit) : Sideband := ⟨cls, false, checkBits f⟩
def netState (r : Router) (ws : List Wire) : State := { up with routers := [(k1, r)], transit := { wires := ws } }

theorem test_router_full : (netState { inq := List.replicate 4 ⟨.north, 0, flitTo 0 0 k0 0 0 0⟩ } []).routerRuns k1 = true ∧
    inputDepth k1 .north (rMode (flitTo 0 0 k0 0 0 0)) = 4 ∧ inputDepth k0 .west 0 = 16 := by decide
theorem test_router_unicast : routeOk (flitTo 0 0 k1 0 0 0) (side 0 (flitTo 0 0 k1 0 0 0)) = true ∧
    rMode (flitTo 0 0 k1 0 0 0) = 0 ∧ siteG k1 = rCol (flitTo 0 0 k1 0 0 0) ∧ siteH k1 = rRow (flitTo 0 0 k1 0 0 0) ∧
    siteG k1 ≠ rCol (flitTo 0 0 k0 0 0 0) ∧ routeOk (flitTo 0 0 ⟨0, 0, 0⟩ 0 2 0) (side 0 (flitTo 0 0 k0 0 2 0)) = false := by decide
theorem test_router_path : ((netState {} [⟨k1, .north, 0, flitTo 0 0 k0 0 0 0, [⟨⟨0, 0, 1⟩, false⟩]⟩]).takeWire k1 .north (flitTo 0 0 k0 0 0 0)).2 =
    some [⟨⟨0, 0, 1⟩, false⟩] ∧ ((netState {} []).takeWire k1 .north (flitTo 0 0 k0 0 0 0)).2 = none := by decide +kernel
theorem test_router_trees : routeOk (flitTo 1 0 k0 63 0 0) (side 0 (flitTo 1 0 k0 63 0 0)) = true ∧
    ((netState { mcast := [(63, 1)] } []).router k1).mcast.find? (fun m => m.1 = 63) = some (63, 1) ∧
    routeOk (flitTo 2 1 k0 9 5 0) (side 1 (flitTo 2 1 k0 9 5 0)) = true ∧
    ((netState { red := [⟨9, 3, .east⟩] } []).router k1).entry 9 = some ⟨9, 3, .east⟩ ∧
    (⟨9, 3, .east⟩ : RedEntry).ports = [.here, .north] := by decide

/-- Both inputs of a tree's entry hold their flit, or their one-flit list. -/
def treeRouter (mode : Nat) : Router :=
  { red := [⟨9, 3, .east⟩], inq := [⟨.here, 2, flitTo mode 1 k0 9 0 (1 * 1024)⟩, ⟨.north, 2, flitTo mode 1 k0 9 0 (1 * 1024)⟩] }
theorem test_combine : ([Port.here, .north].map fun p => (treeRouter 2).headOf p 9) = [flitTo 2 1 k0 9 0 1024, flitTo 2 1 k0 9 0 1024].map some ∧
    ([Port.here, .north].map fun p => (treeRouter 3).listOf p 9) = [[flitTo 3 1 k0 9 0 1024], [flitTo 3 1 k0 9 0 1024]].map some ∧
    (netState (treeRouter 2) []).routerRuns k1 = true := by decide +kernel
theorem test_router_death : up.routerRuns k1 = true ∧ ({ up with errors := { up.errors with dying := [k1] } } : State).errors.dying = [k1] ∧
    (netState { dead := true } []).routerRuns k1 = false := by decide
theorem test_no_death : ∀ x, State.reset.deadAt x = false := fun _ => rfl
theorem test_grid_corner : siteG ⟨95, 12, 11⟩ = 155 ∧ siteH ⟨95, 12, 11⟩ = 95 := by decide

def dup0 : DupMsg :=
  { src := k1, entry := qe .vcmp 0, operands := [], psel := 0, mask := 0, old := [], oldP := 0, results := [], resultP := 0, cohort := 0 }
def dupGood : DupMsg := { dup0 with resultP := dup0.recompute.2 }
def dupBad : DupMsg := { dup0 with results := [Vector.replicate 64 0#32] }
theorem test_dup : (coreState { coreUp with dupIn := [dupGood, dupBad] }).coreRuns k0 = true ∧ coreUp.vq = [] ∧
    dupGood.recompute = (dupGood.results, dupGood.resultP) := ⟨rfl, rfl, rfl⟩
theorem test_dup_differs : dupBad.recompute ≠ (dupBad.results, dupBad.resultP) :=
  fun h => by cases (Prod.mk.inj h).1
/-- The last byte of a core's last frame. -/
def kvCore : Core := { coreUp with tab := { assign := some assign0, kvBytes := pageTableBytes + 2 * frameBytes } }
theorem test_guard : 1 < kvCore.tab.frames ∧ kvCore.tab.frames = 2 ∧ (frameBytes - 1) + [1#8].length ≤ frameBytes ∧
    kvCore.tab.frameAddr 1 + (frameBytes - 1) + 1 ≤ 2 ^ 24 ∧ k0.ok ∧ k1.ok := by decide
theorem test_close_marker : [(k0, 3), (k1, 0)] ∈ ({ up with guardMap := [[(k0, 3), (k1, 0)]] } : State).guardMap ∧
    (∃ x ∈ [(k1, 0)], x.1 = k1) := ⟨List.mem_cons_self, ⟨_, List.mem_cons_self, rfl⟩⟩

/-! ### Hypotheses met: ticks, cohorts, Lanterns -/

/-- A tick of 2,000 ns that runs since 0; its time; its host and power as in service. -/
def tickState (now : Nat) : State :=
  { up with loaded := some loaded0, tick := { running := true }, time := now, power := { up.power with state := .running } }
theorem test_release_time : (tickState 2000).mayRelease = true ∧ (tickState 1999).mayRelease = false ∧
    (tickState 1999).tickStuck = false ∧ (tickState 2000).unloading = none := by decide
theorem test_release_chained : ({ tickState 2000 with loaded := some { loaded0 with pkg := { package0 with chained := true } } } : State).mayRelease = true := by
  decide
def lifted (t : Nat) : State := { tickState 2000 with tick := { (tickState 2000).tick with lastLift := some (t, 7) } }
theorem test_release_lift : (lifted 1760).mayRelease = true ∧ (lifted 1761).mayRelease = false := by decide
theorem test_first_release : ({ tickState 2000 with tick := {}, loaded := some { loaded0 with started := false } } : State).mayRelease = true := by
  decide
theorem test_due_work : (tickState 2000).dueWork.mayRelease = true ∧ (tickState 2000).dueWork.tick.running = true ∧
    ({ tickState 2000 with mgmt := { (tickState 2000).mgmt with opHold := true } } : State).dueWork.mayRelease = false := by decide
theorem test_cohort : (tickState 0).serve.built = none ∧ (tickState 0).clocksStopped = false ∧ (tickState 0).latency.linkUp = true ∧
    (tickState 0).latency.power.state = .running ∧ ({ tickState 0 with linkUp := false } : State).latency.linkUp = false := by decide

def samp0 : Sampling :=
  { temp := 0, topp := one32, minp := 0, rep := one32, freq := 0, topk := 64, genOnly := false, pwin := 0, seed := 0, bias := []
    auto := 0, autoEn := false, start := 0, maxNew := 1, stops := [] }
def request0 : Request :=
  { func := 0, ring := 0, idx := 0, utag := 0, cls := 0, keep := false, epany := false, prog := false, prompt := [1], samp := samp0
    oaddr := 0, osize := 0, deadline := 0, epoch := 0, cont := none, cancelled := false }
def seq0 : Seq :=
  { slot := 0, req := request0, cls := 0, state := .decode, was := .decode, reason := .host, base := 0, len := 1, history := []
    next := 1, promptEnd := 1, epoch := none, rebuildTo := 0, rebuildFrom := 0, auto := 0, emitted := 0, tokenReady := true
    lastRow := 0, order := 0, pausedAt := 0, lastDrafts := 0, clipMark := false, clipSeen := false, lateSeen := false, finish := 0
    kvLost := false, silent := false }
def row0 : Row :=
  { slot := 0, pos := 0, kind := .decode, app := true, starved := false, token := 1, len := 1, draws := true, discard := false
    clipped := false, drawn := false }
def list0 : List Cand × Bool := ([⟨one32, 7⟩], false)
def lanternState : State :=
  { tickState 0 with serve := { (tickState 0).serve with
      seqs := [seq0], cohorts := [⟨5, 0, [row0], false⟩], lanterns := Vector.replicate 4 { accepting := [⟨5, [list0]⟩] } } }
theorem test_lantern_draw : lanternState.serving.isSome = true ∧ lanternState.cohortNum 5 = some ⟨5, 0, [row0], false⟩ ∧
    0 % serving0.lanterns = 0 ∧ lanternState.seqAt 0 = some seq0 ∧ seq0.state.terminal = false ∧
    (lanternState.lantern 0).accepting.find? (fun y => y.cohort == 5) = some ⟨5, [list0]⟩ := by decide
theorem test_lantern_list : (lanternState.lantern 3).accepting.findIdx? (fun c => c.cohort % 256 == pCohort (flitTo 3 1 k0 0 0 5)) = some 0 ∧
    (∀ c ∈ (lanternState.lantern 3).accepting, c.cohort % 256 ≠ pCohort (flitTo 3 1 k0 0 0 6)) := by decide
theorem test_lantern_drawn : ∃ d ∈ ({ lanternState with serve := { lanternState.serve with drawn := [⟨0, 5, 0, 7, one32, false, false, false⟩] } } :
    State).serve.drawn, d.cohort = 5 ∧ d.row = 0 := ⟨_, List.mem_cons_self, rfl, rfl⟩
theorem test_best_candidate : drawable (lanternState.drawIn ⟨5, 0, [row0], false⟩ seq0 0 row0) list0.1 = [⟨one32, 7⟩] ∧
    (ofF32 samp0.temp).cmp (Fp.ofInt 0) = 0 ∧ drawable (lanternState.drawIn ⟨5, 0, [row0], false⟩ seq0 0 row0) [] = [] := by decide

/-- A probe of the one core, first answered and then without progress. -/
def lateState (c : Core) : State := { coreState c with loaded := some loaded0, tick := { running := true }, time := 10 ^ 9 }
theorem test_probe : (lateState coreUp).probeAt 2000 ≤ 10 ^ 9 ∧ (lateState coreUp).probed = [(k0, assign0)] ∧
    (lateState coreUp).clocksStopped = false ∧ (lateState { coreUp with lastProbe := some 0 }).probed ≠ [] ∧
    (lateState { coreUp with atBarrier := true }).probed = [] := by decide
/-- The hold of reason 2 with a dead core whose row has a spare, and with nothing to do. -/
def darnState (e : Errors) : State := { lateState coreUp with holds := [⟨2, 0⟩], errors := e }
theorem test_darning : (darnState {}).held 2 = true ∧ (darnState {}).fetching .darn = false ∧
    (darnState { deadCores := [k0] }).held 2 = true ∧ ((darnState { deadCores := [k0] }).panel 0).wentDark = false := by decide
theorem test_darned : ((((darnState { darned := some (5, 6) }).settleSources State.loadFails).liftHold 2).endCode 0x0A0A).errors.darned = some (5, 6) ∧
    ((darnState { darned := some (5, 6) }).settleSources State.loadFails).holds.find? (fun h => h.reason == 2) = some ⟨2, 0⟩ ∧
    (darnState { darned := some (5, 6) }).darnRows = [] := by decide

/-! ### Hypotheses met: the control ring -/

/-- Function 0 with one control descriptor waiting, its bytes at 0 of host memory, after `f` has changed the state. -/
def ctrlFn : Fn := { rings := (Vector.replicate 7 {}).set 4 { en := true, lsize := 6, own := 0, seen := 1 }, autos := 1 }
def inMem (bs : List Byte) (s : State) : State := { s with hostMem := Mem.write s.hostMem 0 bs }
def ctrlOf (bs : List Byte) (s : State) : State := inMem bs { s with linkUp := true, fns := [(0, ctrlFn)] }
/-- Does the descriptor of a kind stand at function 0's ring head with a condition that holds of it? -/
def headed (s : State) (kind : Nat) (p : Ctrl → State → Bool) : Bool := (s.ctrlHead 0 kind).any fun r => p r.1 (r.2.ctrlNext 0)
def zip0 : Zip :=
  { id := 1, owner := .host 0, entries := [], phase := .open_, touched := 0, full := false, failed := none, validEnd := 0, close := none }
def okZip (r : Except Nat Zip) : Bool := match r with
  | .ok _ => true
  | .error _ => false

theorem test_no_head : up.ctrlHead 0 3 = none ∧ (ctrlOf [3#8] up).ctrlHead 0 4 = none ∧ up.loadPending = none := by
  refine ⟨?_, ?_, rfl⟩ <;> rfl
theorem test_reserved_kind : (ctrlOf [0x7F#8] up).ctrlHead 0 3 = none := by rfl
theorem test_zip_open : headed (ctrlOf [3#8] up) 3 (fun c t => descClear c.bs [] && (t.openZip 0).isNone && decide (t.hostZips < 64)) = true ∧
    headed (ctrlOf [3#8] { up with zips := [zip0] }) 3 (fun c t => descClear c.bs [] && (t.openZip 0).isSome) = true := by
  constructor <;> decide +kernel
theorem test_zip_stage : headed (ctrlOf ([4#8, 0, 0, 0, 1] ++ List.replicate 11 0#8 ++ [1#8]) { up with zips := [zip0] }) 4 (fun c t =>
    descClear c.bs [(4, 16), (8, 64), (0x10, 13)] && bitsOf (fieldAt c.bs 0x10 4) 12 0 == 1 && fieldAt c.bs 8 8 % 16 == 0 &&
      okZip (t.namedZip 0 (fieldAt c.bs 4 2))) = true ∧
    headed (ctrlOf ([4#8, 0, 0, 0, 1] ++ List.replicate 11 0#8 ++ [0#8, 0x10#8]) { up with zips := [zip0] }) 4 (fun c t =>
    descClear c.bs [(4, 16), (8, 64), (0x10, 13)] && bitsOf (fieldAt c.bs 0x10 4) 12 0 == 4096 &&
      okZip (t.namedZip 0 (fieldAt c.bs 4 2))) = true := by constructor <;> decide +kernel
theorem test_zip_close : headed (ctrlOf [5#8, 0, 0, 0, 1] { up with zips := [zip0] }) 5 (fun c t =>
    descClear c.bs [(4, 16)] && okZip (t.namedZip 0 (fieldAt c.bs 4 2))) = true := by decide +kernel
theorem test_zip_validation : (({ up with zips := [{ zip0 with phase := .closed, validEnd := 320 }] } : State).zips.filter
      fun z => z.phase == .closed).head? = some { zip0 with phase := .closed, validEnd := 320 } := by decide
theorem test_zip_expiry : ({ up with zips := [zip0], time := 10 ^ 9 } : State).zips.find?
      (fun x => x.id == 1 && x.phase == .open_ && decide (x.touched + 1000000000 ≤ 10 ^ 9)) = some zip0 ∧
    (∀ x ∈ ({ up with zips := [zip0], time := 10 ^ 9 - 1 } : State).zips, x.id = 1 → x.phase = .open_ → 10 ^ 9 - 1 < x.touched + 1000000000) := by
  decide

/-- CANCEL of descriptor 0 of ring 0: queued, ended, unknown; fetched already. -/
def cancelBytes : List Byte := [6#8]
def cancelState (sv : Serve) : State :=
  ctrlOf cancelBytes { tickState 0 with serve := sv }
def cancelMet (s : State) (live : Bool) : Bool := headed s 6 fun c _ => descClear c.bs [(4, 3), (8, 32)] && s.begun &&
  decide (((s.fn 0).ring 0).waiting ≤ (2 ^ 32 - ((s.fn 0).ring 0).own) % 2 ^ 32) &&
  ((s.serve.seqs.any fun x => x.req.is 0 0 0 && !x.state.terminal && x.state != .kept) || s.serve.queued.any fun r => r.is 0 0 0) == live
theorem test_cancel : cancelMet (cancelState { queued := [request0] }) true = true ∧ cancelMet (cancelState { seqs := [seq0] }) true = true ∧
    cancelMet (cancelState { ended := [(0, 0, 0)] }) false = true ∧ cancelMet (cancelState {}) false = true := by
  refine ⟨?_, ?_, ?_, ?_⟩ <;> decide +kernel
/-- An automaton of one state and one edge to itself, its image at 64. -/
def autoBytes : List Byte := [9#8] ++ List.replicate 7 0#8 ++ [64#8] ++ List.replicate 7 0#8 ++ [32#8] ++ List.replicate 47 0#8 ++
  [1#8, 0, 0, 0, 1] ++ List.replicate 11 0#8 ++ [0#8, 0, 0x40] ++ List.replicate 13 0#8
theorem test_automaton : headed (ctrlOf autoBytes (tickState 0)) 9 (fun c t =>
    descClear c.bs [(4, 6), (8, 64), (0x10, 64)] && fieldAt c.bs 8 8 == 64 && (t.fn 0).autos.getLsbD 0 && t.serving.isSome &&
      fieldAt c.bs 0x10 8 == 32 && (readAutomaton (t.hostRead 64 32) serving0.vocab).any fun a => a.records ≤ 4194304) = true := by
  decide +kernel
/-- EVICT of a paused sequence without pages; RESTORE of one without rows in a package without KV groups. -/
def pausedState (bs : List Byte) (n : Nat) : State :=
  ctrlOf bs { tickState 0 with serve := { seqs := [{ seq0 with state := .paused, len := n }] } }
def okSeq (r : Except Nat Seq) : Bool := match r with
  | .ok _ => true
  | .error _ => false
theorem test_evict : ((pausedState [7#8] 1).ctrlHead 0 7).any (fun r => okSeq (r.2.pausedSeq 0 r.1) &&
    (r.2.imageFrames 0).length == 0 && (r.2.fn 0).moved == 0) = true := by decide +kernel
theorem test_restore : ((pausedState [8#8] 0).ctrlHead 0 8).any (fun r => okSeq (r.2.pausedSeq 0 r.1) &&
    (match r.2.readImages { seq0 with state := .paused, len := 0 } 0 0 with
      | .ok is => is.length == 0 && (r.2.mapAll { seq0 with state := .paused, len := 0 } 0).isSome
      | .error _ => false)) = true := by decide +kernel

/-! ### Hypotheses met: load, unload and weights -/

theorem test_load : headed (ctrlOf [1#8] up) 1 (fun c _ =>
    descClear c.bs [(8, 64), (0x10, 64), (0x18, 32), (0x1C, 14)] && fieldAt c.bs 8 8 % 4096 == 0) = true := by decide +kernel
theorem test_unload : headed (ctrlOf [2#8] (tickState 0)) 2 (fun c t => descClear c.bs [] && t.loaded.isSome && t.tick.running && !t.errors.fatal) = true ∧
    headed (ctrlOf [2#8] { tickState 0 with tick := {} }) 2 (fun c t => descClear c.bs [] && t.loaded.isSome && !t.tick.running) = true ∧
    (ctrlOf [2#8] (tickState 0)).loadPending = none := by refine ⟨?_, ?_, rfl⟩ <;> decide +kernel

/-- A manifest of one set and one shard of 64 bytes, at 64 of host memory. -/
def manifestBytes : List Byte :=
  [0x59#8, 0x58, 0x57, 0x33, 1, 0, 0, 0, 1, 0, 0, 0, 1, 0, 0, 0] ++ List.replicate 8 0#8 ++ [1#8] ++ List.replicate 39 0#8 ++
    [1#8, 0, 0, 0, 0, 0, 0, 0, 0, 0, 2, 0, 1, 0, 0, 0] ++ List.replicate 16 0#8 ++ [64#8] ++ List.replicate 47 0#8
def shard0 : ShardRec := { set := 0, layer := 0, index := 0, offset := 0, size := 64, packed := 0, dest := 0, digest := 0 }
def manifest0 : Manifest := ⟨[], 0, 1, [⟨1, 0, 2 ^ 17, true⟩], [{ shard0 with digest := 1 }]⟩
def weighed : Loaded := { loaded0 with plan := ⟨1, [⟨0, 1, 0, 0⟩], [⟨1, 0, 0, 0⟩]⟩ }
def weighState (bs : List Byte) (op : WeightOp) : State := ctrlOf (bs ++ List.replicate (64 - bs.length) 0#8 ++ manifestBytes)
  { tickState 0 with loaded := some weighed, weights := { held := some manifest0, areas := [⟨0, 0, 0, none⟩], op := op } }
def okManifest (r : Except Nat Manifest) (p : Manifest → Bool) : Bool := match r with
  | .ok m => p m
  | .error _ => false
theorem test_source : headed (ctrlOf [0x20#8] up) 0x20 (fun c _ => descClear c.bs [(4, 6), (8, 64), (0x10, 64)] && bitsOf (fieldAt c.bs 4 4) 2 1 == 0) = true ∧
    headed (ctrlOf [0x20#8, 0, 0, 0, 2, 0, 0, 0, 0, 0x10] up) 0x20 (fun c _ => descClear c.bs [(4, 6), (8, 64), (0x10, 64)] &&
      bitsOf (fieldAt c.bs 4 4) 2 1 == 1 && fieldAt c.bs 8 8 == 4096) = true ∧
    headed (ctrlOf [0x20#8, 0, 0, 0, 0x3D] up) 0x20 (fun c _ => descClear c.bs [(4, 6), (8, 64), (0x10, 64)] &&
      bitsOf (fieldAt c.bs 4 4) 2 1 == 2 && bitsOf (fieldAt c.bs 4 4) 5 3 == 7) = true := by refine ⟨?_, ?_, ?_⟩ <;> decide +kernel
theorem test_serve : headed (ctrlOf [0x21#8, 0, 0, 0, 0xFF] up) 0x21 (fun c _ => descClear c.bs [(4, 8)]) = true := by decide +kernel
theorem test_replace : headed (weighState ([0x22#8, 0, 0, 0, 0, 0, 0, 0, 64] ++ List.replicate 7 0#8 ++ [144#8]) .none) 0x22 (fun c t =>
    descClear c.bs [(8, 64), (0x10, 32), (0x14, 32)] && t.loaded.isSome && t.weights.op == .none && okManifest (t.newManifest c) fun m =>
      t.weights.held.any fun old => decide (t.weights.epoch + (changedLayers old m).length ≤ 0xFFFFFFFE) && changedLayers old m == [0]) = true := by
  decide +kernel
theorem test_copy_build : headed (weighState ([0x23#8, 0, 0, 0, 0xFF, 0, 0, 0, 64] ++ List.replicate 7 0#8 ++ [144#8]) .none) 0x23 (fun c t =>
    descClear c.bs [(4, 8), (8, 64), (0x10, 32)] && t.loaded.isSome && t.weights.op == .none && okManifest (t.newManifest c) fun m =>
      t.namedStages c == [0] && t.setsOf 0 == [0] && ((m.sets[0]?).map (·.copy)).getD false && t.currentArea 0 == some 0 &&
        (t.weights.areas.all fun x => !(x.stage == 0 && x.area == 1)) && t.weights.copies.isEmpty) = true := by decide +kernel
theorem test_copy_discard : headed (weighState [0x24#8] .none) 0x24 (fun c t => descClear c.bs [(4, 8)] && t.loaded.isSome &&
    t.weights.op == .none && t.namedStages c == [0]) = true := by decide +kernel
theorem test_drain : (weighState [] (.replace manifest0 (some 5) [0] false 0)).weights.op = .replace manifest0 (some 5) [0] false 0 ∧
    (weighState [] (.replace manifest0 (some 5) [0] false 0)).time = 0 := by decide

/-- A fetch over link 0 of the one shard, its digest that of 64 zero bytes. -/
def zeros64 : List Byte := List.replicate 64 0#8
def fetch0 : Fetch := ⟨0, k0, 0, digestOf zeros64, 0, 0, .load, false⟩
def fetchState : State :=
  { up with weights := { held := some manifest0, fetches := [fetch0], src := Vector.replicate 2 (.guy 0) } }
theorem test_fetch : k0.ok ∧ fetchState.fetchOf 0 k0 = some fetch0 ∧ fetchState.sourceNow fetch0.tries0 fetch0.tries1 = some (false, .guy 0) ∧
    fetchState.fetchRec fetch0 = some { shard0 with digest := digestOf zeros64 } := by refine ⟨by decide, ?_, ?_, ?_⟩ <;> rfl
theorem test_fetch_whole : zeros64.length = shard0.size ∧ expandShard (shard0.packed / 410) zeros64 = .ok zeros64 ∧ ([] : List Byte).length ≠ shard0.size := by
  refine ⟨rfl, rfl, by decide⟩
/-- A held shard whose digest is that of what the core holds. -/
def heldShard0 : HeldShard := ⟨0, k0, 0, digestOf ((up.core k0).carried { shard0 with digest := 1 } 0), 0⟩
def scrubState (h : HeldShard) : State := { tickState 0 with
  tick := { running := true, limits := Vector.replicate 8 1 }, weights := { held := some manifest0, shards := [h] } }
theorem test_scrub : (scrubState heldShard0).tick.running = true ∧ (scrubState heldShard0).rationOk 0 ratScrub = true ∧
    (scrubState heldShard0).weights.shards.find? (fun h => h.shard == 0 && h.core == k0 && (scrubState heldShard0).scrubbed h) = some heldShard0 ∧
    (scrubState heldShard0).recOfHeld heldShard0 = some { shard0 with digest := 1 } ∧
    digestOf (((scrubState heldShard0).core k0).carried { shard0 with digest := 1 } heldShard0.area) = heldShard0.digest := by
  refine ⟨rfl, by decide, rfl, rfl, rfl⟩
theorem test_scrub_bad : (scrubState { heldShard0 with digest := 0 }).weights.shards.find? (fun h => h.shard == 0 && h.core == k0 &&
      (scrubState { heldShard0 with digest := 0 }).scrubbed h) = some { heldShard0 with digest := 0 } ∧
    (leNat (sha256 (((scrubState heldShard0).core k0).carried shard0 0)) == 0) = false := by
  constructor
  · rfl
  · decide +kernel

/-! ### Hypotheses met: the host port -/

/-- Function 0 with one descriptor waiting in ring 0: a request of one token with a sampling record at 64, a continuation of
slot 0, and a request whose prompt is empty. -/
def subFn : Fn := { rings := (Vector.replicate 7 {}).set 0 { en := true, lsize := 6, own := 0, seen := 1 } }
def subBytes (kind plen : Byte) : List Byte :=
  [kind, 0x17, 0, 0, plen, 0, 0, 0, 0, 1, 0, 0, 0, 0, 0, 0, 64] ++ List.replicate 15 0#8 ++ [64#8] ++ List.replicate 31 0#8 ++
    [0#8, 0, 0, 0, 0, 0, 0x80, 0x3F, 0, 0, 0, 0, 0, 0, 0x80, 0x3F] ++ List.replicate 32 0#8 ++ [1#8]
def subState (kind plen : Byte) : State := inMem (subBytes kind plen) { tickState 0 with
  fns := [(0, subFn)], tick := { running := true, limits := Vector.replicate 8 1 }, serve := { seqs := [{ seq0 with state := .kept }] } }
def subMet (s : State) (kind : Nat) (good : Bool) : Bool :=
  let r := (s.fn 0).ring 0
  s.headKind 0 0 == kind && s.mayFetch 0 0 && good == match (s.mapRing 0 0 fun r => { r with own := 1 }).readRequest 0 0 0 (s.ringEntry r r.own) with
    | .ok _ => true
    | .error _ => false
theorem test_submission : subMet (subState 1 1) 1 true = true ∧ subMet (subState 2 1) 2 true = true ∧ subMet (subState 1 0) 1 false = true ∧
    (subState 1 1).headKind 0 0 ≠ 2 ∧ ({ subState 1 1 with linkUp := false } : State).mayFetch 0 0 = false := by
  refine ⟨?_, ?_, ?_, ?_, ?_⟩ <;> decide +kernel

/-- A doorbell line held, one being read; a vector that waits; a ring at entry 0 of 64 with one entry seen. -/
def doorState (x : Fn) : State := { up with fns := [(0, x)] }
theorem test_doorbell : (doorState { readOut := true }).linkUp = true ∧ ((doorState { readOut := true }).fn 0).readOut = true ∧
    (doorState {}).cacheUsed = false ∧ (doorState {}).linkUp = true ∧ ({ doorState {} with linkUp := false } : State).linkUp = false ∧
    ({ doorState {} with regs := { (doorState {}).regs with cacheEn := true, cacheNeg := true } } : State).cacheUsed = true := by decide
theorem test_moderation : (getK ((doorState { vectors := [(3, { waiting := true })] }).fn 0).vectors 3 {}).waiting = true ∧
    vectorFree (doorState { vectors := [(3, { waiting := true })] }) 0 { waiting := true } = true := by decide
def ring0 : Ring := { en := true, lsize := 6, own := 0, seen := 1 }
theorem test_index_sub : (0 < 5 ∧ ¬(ring0.size < 64 ∨ 64 < ring0.waiting)) ∧ ring0.size < 65 ∧
    (({ ring0 with seen := 2 } : Ring).size < 1 ∨ 1 < ({ ring0 with seen := 2 } : Ring).waiting) := by decide
theorem test_index_completion : ¬ring0.size < (2 ^ 32 - (2 ^ 32 - 64) + 0) % 2 ^ 32 ∧ ring0.size < (2 ^ 32 - (2 ^ 32 - 65) + 0) % 2 ^ 32 := by decide
theorem test_index_ignored : ({ ring0 with stopped := true } : Ring).stopped = true ∧ ({} : Ring).en = false := by decide

/-- The link lost and back with a write and a message held. -/
theorem test_link : up.linkUp = true ∧ ({ up with linkUp := false } : State).perstLow = false ∧
    ({ up with perstLow := true } : State).perstLow = true := by decide
theorem test_flr : fnOk 24 ∧ 24 ≠ 0 ∧ up.loaded = none ∧ (tickState 0).loaded ≠ none ∧ (tickState 0).errors.fatal = false ∧
    (∃ x ∈ ({ up with serve := { seqs := [seq0] } } : State).serve.seqs, x.req.func = 0) :=
  ⟨by decide, by decide, by decide, by decide, by decide, ⟨seq0, List.mem_cons_self, rfl⟩⟩

/-! ### Hypotheses met: guy links -/

/-- A frame of a type with its SEQ, blocks, CHAN, sealed with its CRC. -/
def frameOf (t seq chan : Nat) (bs : List Block) : Frame :=
  sealFrame (BitVec.ofNat 64 (t + seq * 2 ^ 4 + bs.length * 2 ^ 29 + 2 ^ 36 + chan * 2 ^ 37)) bs
/-- Link 0 up with `n` blocks granted per class. -/
def guyUp (n : Nat) (s : State) : State := { s with guys := s.guys.set 0 { width := 8, training := .none, granted := Vector.replicate 3 n } }
/-- Is the frame taken at link 0, with a condition on the state then and the first block? -/
def taken (s : State) (f : Frame) (p : State → Bool) : Bool := (s.rxFrame 0 f).2 && p (s.rxFrame 0 f).1

theorem test_frame_taken : crcOk (frameOf 4 0 0 []) = true ∧ headerOk (frameOf 4 0 0 []) = true ∧ taken (guyUp 0 up) (frameOf 4 0 0 []) (fun _ => true) = true ∧
    taken (guyUp 1 up) (frameOf 1 0 0 [0]) (fun _ => true) = true ∧ ((guyUp 1 up).guy 0).up = true := by
  refine ⟨?_, ?_, ?_, ?_, ?_⟩ <;> decide +kernel
theorem test_frame_refused : crcOk { frameOf 1 0 0 [0] with trailer := 0 } = false ∧ headerOk (frameOf 5 0 0 []) = false ∧
    crcOk (frameOf 5 0 0 []) = true ∧ (up.guy 0).up = false := by refine ⟨?_, ?_, ?_, ?_⟩ <;> decide +kernel
theorem test_frame_order : (fSeq (frameOf 1 2047 0 [0]) + 4096 - 0) % 4096 = 2047 ∧ (fSeq (frameOf 1 2048 0 [0]) + 4096 - 0) % 4096 = 2048 ∧
    (((guyUp 0 up).rxHeader 0 (frameOf 1 0 0 [0])).guy 0).granted.toList.getD 0 0 < 1 ∧ headerOk (frameOf 1 2048 0 [0]) = true ∧
    fSeq (frameOf 1 1 0 [0]) ≠ ((guyUp 0 up).guy 0).expect := by refine ⟨?_, ?_, ?_, ?_, ?_⟩ <;> decide +kernel

/-- A running chained package whose group is link 0, identifier 5, at tick 10. -/
def grouped : State := guyUp 4 { tickState 0 with
  tick := { running := true, n := 10 }, loaded := some { loaded0 with pkg := { package0 with chained := true } }
  regs := { up.regs with groupIn := some (1, 5, []) } }
theorem test_frames : taken grouped (frameOf 1 0 9 [7]) (fun _ => true) = true ∧
    taken grouped (frameOf 3 0 2 [BitVec.ofNat 512 (1 + 99 * 2 ^ 64)]) (fun _ => true) = true ∧
    taken ({ grouped.setGuy 0 { grouped.guy 0 with requests := [⟨2, 99⟩] } with time := 0 } : State) (frameOf 3 0 2 [3]) (fun t =>
      ((t.guy 0).requests.find? fun r => r.chan == 2).isSome) = true ∧
    taken grouped (frameOf 2 0 0 [1]) (fun _ => true) = true := by refine ⟨?_, ?_, ?_, ?_⟩ <;> decide +kernel
theorem test_group_messages : taken grouped (frameOf 2 0 0 [BitVec.ofNat 512 (2 + 12 * 2 ^ 32 + 5 * 2 ^ 160)]) (fun t =>
      t.chained && t.gid == 5 && t.power.state == .running && t.power.groupStop.isNone) = true ∧
    taken ({ grouped with power := { grouped.power with state := .bivouac } } : State) (frameOf 2 0 0 [BitVec.ofNat 512 (3 + 2 ^ 8 + 5 * 2 ^ 160)])
      (fun t => t.chained && t.gid == 5 && t.mayWake) = true ∧
    taken grouped (frameOf 2 0 0 [BitVec.ofNat 512 (4 + 8 * 2 ^ 64)]) (fun t => t.chained && t.errors.cohortsLost.isEmpty) = true := by
  refine ⟨?_, ?_, ?_⟩ <;> decide +kernel
/-- Markers of the tick in progress, the next, one beyond, and the last; tick and held. -/
def markerOf (kind t : Nat) : Frame := frameOf 4 0 0 [BitVec.ofNat 512 (kind + t * 2 ^ 32)]
theorem test_markers : ∀ t ∈ [9, 10, 11, 12], taken grouped (markerOf 1 t) (fun u => u.chained && u.groupLinks.contains 0 && u.tick.markers.isEmpty &&
    u.tick.early.isEmpty && u.markerTick == (10 : Int)) = true ∧ taken grouped (markerOf 2 t) (fun _ => true) = true := by decide +kernel
theorem test_marker_outside : taken (guyUp 4 (tickState 0)) (markerOf 1 0) (fun u => !u.chained) = true := by decide +kernel
def markerLink (s : State) : State := s.setGuy 0 { s.guy 0 with marker := some (1, 0, 10) }
theorem test_marker_repeat : ((markerLink { grouped with time := 2000 }).guy 0).marker = some (1, 0, 10) ∧ ((markerLink grouped).guy 0).up = true ∧
    signed64 ((markerLink grouped).guy 0).partnerAck < signed64 10 ∧ ((markerLink grouped).guy 0).markerAt = 0 := by decide +kernel
theorem test_marker_timeout : grouped.chained = true ∧ grouped.tick.running = true ∧ grouped.groupLinks.contains 0 = true ∧ grouped.tick.markers = [] ∧
    grouped.tick.heldSeen = [] ∧ (grouped.guy 0).lostMarker = false ∧ grouped.deadlineAt + 5000000 ≤ 10 ^ 7 := by decide +kernel

theorem test_ack_timeout : ((guyUp 0 { up with time := 4000 }).guy 0).lastAckAt + 4000 ≤ 4000 ∧
    (({ (guyUp 0 up).guy 0 with retry := [⟨0, frameOf 1 0 0 [0], 0⟩], owesAck := true } : Guy).retry ≠ []) ∧ (guyUp 0 up).linkUp = true := by
  decide +kernel
theorem test_hello : fType (markerOf 3 0) = 4 ∧ fNb (markerOf 3 0) = 1 ∧ ((markerOf 3 0).blocks.head?.getD 0).toNat % 256 = 3 ∧
    crcOk (markerOf 3 0) = true ∧ headerOk (markerOf 3 0) = true ∧ ({} : Guy).training ≠ .none ∧ (tickState 0).power.state ≠ .standby ∧
    up.power.state = .standby := by refine ⟨?_, ?_, ?_, ?_, ?_, ?_, ?_, ?_⟩ <;> decide +kernel
theorem test_lanes : (0x01#8).toNat % 16 ≠ 0 ∧ (0x10#8 : Byte) ≠ 0 ∧ (0x10#8).toNat % 16 = 0 ∧ ((guyUp 0 up).guy 0).width = 8 := by decide

/-! ### Hypotheses met: power -/

/-- Panel 0 changed. -/
def panelState (f : PanelState → PanelState) : State := { up with panels := [(0, f panelUp)] }
theorem test_droop : ((up.panel 0).dom.get VLOG).on = true ∧ ((panelState fun x => { x with riseAt := some 0 }).panel 0).riseAt = some 0 ∧
    ((({} : State).panel 0).dom.get VLOG).on = false ∧ (up.panel 0).riseAt = none := by decide
def senseState (e : Option (Bool × Nat)) : State := panelState fun x => { x with dom := x.dom.set 1 { on := true, setpoint := 20, errSince := e } }
theorem test_sense : domOk 1 ∧ (((senseState (some (true, 0))).panel 0).dom.toList.getD 1 {}).errSince = some (true, 0) ∧
    (((senseState none).panel 0).dom.toList.getD 1 {}).on = true ∧ ((({} : State).panel 0).dom.toList.getD 1 {}).on = false ∧
    ((senseState none).panel 0).riseAt = none ∧ 5 ∉ (((senseState none).panel 0).dom.toList.getD 1 {}).bond := by decide

theorem test_cell : ((up.panel 0).dom.toList.getD 0 {}).failed = [] ∧ ((up.panel 0).dom.toList.getD 0 {}).on = true ∧
    (up.power.pending.any fun y => y.1 == 0) = false ∧
    (({ up with power := { up.power with pending := [(0, .whole)] } } : State).power.pending.any fun y => y.1 == 0) = true ∧ 31 < 32 := by decide
def failedState (d n : Nat) : State := panelState fun x => { x with dom := x.dom.setIfInBounds d { on := true, failed := List.range n } }
theorem test_ladder : (∀ n ∈ [4, 5, 8, 9], ((failedState 0 n).panel 0).failedIn 0 = n) ∧ (∀ n ∈ [2, 3], ((failedState 1 n).panel 0).failedIn 1 = n) ∧
    ((failedState 0 4).panel 0).wentDark = false := by decide
def poweredIn (st : PowerState) : State := { up with power := { up.power with state := st } }
theorem test_converter : (poweredIn .running).power.convFailed = [] ∧ (poweredIn .running).power.state ≠ .standby := by decide
theorem test_panel_ready : ({ up with power := { up.power with pending := [(0, .whole)] } } : State).power.pending.find? (fun x => x.1 == 0) = some (0, .whole) ∧
    up.power.pending.find? (fun x => x.1 == 0) = none := by decide

theorem test_governor : up.powered = true ∧ up.power.state = .standby ∧ (poweredIn .running).power.state ≠ .standby ∧
    (poweredIn .running).freeze.state = .running ∧ ({ up with powered := false } : State).powered = false := by decide
/-- E at 60 W and a demand of 60 W: the demand is followed. -/
theorem test_governor_follows : up.power.e ≤ 60 * 1000 + up.power.dn ∧ 60 * 1000 ≤ up.power.e + up.power.up ∧ 60 ≤ up.powerCap 4000 ∧
    ({ up with power := { up.power with pin := 60, vin := 4000, iin := 0, sectors := [], cap := up.powerCap 4000 } } : State).powerFloor ≤ 60 := by
  decide

theorem test_power_enable : up.power.pwrEn = false ∧ ({ up with power := { up.power with pwrEn := true, startAt := some 0 } } : State).power.startAt = some 0 ∧
    up.resetLow = false ∧ ({ up with resetLow := true } : State).resetLow = true ∧ (poweredIn .stopping).tick.running = false := by decide
theorem test_power_disable_stuck : ({ tickState 0 with holds := [⟨5, 0⟩], errors := { fatal := true }, power := { up.power with state := .stopping } } : State).tick.running = true ∧
    ({ tickState 0 with errors := { fatal := true }, power := { up.power with state := .stopping } } : State).tickStuck = true := by decide
theorem test_power_commands : (poweredIn .running).power.state = .running ∧ (poweredIn .bivouac).mayWake = true := by decide

/-! ### Hypotheses met: cooling, calibration, tests -/

/-- Panel 0's sensor 3 over a limit since 0. -/
def hotState (now : Nat) (f : PanelState → PanelState) : State :=
  { panelState f with time := now, power := { up.power with state := .running } }
def warmSample (t : Int) : ThermSample := { forecasts := [(0, 100)], sensors := [(0, 3, t)], power := 1000 }
/-- The state in which a sample's fourth check stands: what is over 115 °C, and since when. -/
def heated (s : State) (t : ThermSample) : State :=
  let a := t.sensors.foldl (fun (s : State) r => s.mapPanel r.1 fun x => { x with temps := putK x.temps r.2.1 r.2.2 }) s
  { a with
    thermal := { a.thermal with hot := min (t.forecasts.foldl (fun m f => max m (f.2 / 4).toNat) 0) 255 }
    panels := a.panels.map fun e => (e.1, { e.2 with
      overSince := aboveSince a.time e.2.overSince ((e.2.live.filter fun r => 460 < r.2).map (·.1))
      tripSince := aboveSince a.time e.2.tripSince ((e.2.live.filter fun r => 420 < r.2).map (·.1)) }) }
def burning (s : State) : List (Nat × Nat) :=
  s.panels.flatMap fun e => (e.2.overSince.filter fun r => decide (r.2 + 100000 ≤ s.time)).map fun r => (e.1, r.1)
def tripping (s : State) : List (Nat × Nat) :=
  s.panels.flatMap fun e => (e.2.tripSince.filter fun r => decide (r.2 + 1000000 ≤ s.time)).map fun r => (e.1, r.1)
def stepped (s : State) (t : ThermSample) : State :=
  ((t.forecasts.foldl (fun (s : State) f => s.step2 f.1 f.2) (s.step1 t.forecasts t.power)).step3 t.forecasts).step3Idle
theorem test_burn : burning (heated (hotState 100000 fun x => { x with overSince := [(3, 0)] }) (warmSample 461)) = [(0, 3)] ∧
    burning (heated (hotState 99999 fun x => { x with overSince := [(3, 0)] }) (warmSample 461)) = [] := by decide +kernel
theorem test_trip : burning (heated (hotState 1000000 fun x => { x with tripSince := [(3, 0)] }) (warmSample 421)) = [] ∧
    (stepped (heated (hotState 1000000 fun x => { x with tripSince := [(3, 0)] }) (warmSample 421)) (warmSample 421)).thermal.trip = false ∧
    tripping (stepped (heated (hotState 1000000 fun x => { x with tripSince := [(3, 0)] }) (warmSample 421)) (warmSample 421)) = [(0, 3)] := by
  refine ⟨?_, ?_, ?_⟩ <;> decide +kernel
theorem test_cool : tripping (stepped (heated (hotState 0 id) (warmSample 100)) (warmSample 100)) = [] ∧
    (∀ e ∈ (stepped (heated (hotState 0 id) (warmSample 359)) (warmSample 359)).panels, ∀ r ∈ e.2.live, r.2 < 360) ∧
    (stepped (heated { hotState 10 id with thermal := { trip := true, tripClear := some 4 } } (warmSample 359)) (warmSample 359)).thermal.trip = true ∧
    (stepped (heated { hotState 10 id with thermal := { trip := true, tripClear := some 4 } } (warmSample 359)) (warmSample 359)).thermal.tripClear = some 4 ∧
    ¬(∀ e ∈ (stepped (heated (hotState 0 id) (warmSample 360)) (warmSample 360)).panels, ∀ r ∈ e.2.live, r.2 < 360) := by
  refine ⟨?_, ?_, ?_, ?_, ?_⟩ <;> decide +kernel

/-- A coolant report of SEQ 1: inlet, outlet and flow of 1, 2 and 3, all valid. -/
theorem test_coolant : (7 * 2 ^ 64 + 3 * 2 ^ 48 + 2 * 2 ^ 32 + 1 * 2 ^ 16 + 1 * 2 ^ 8 + 1 : BitVec 72) |> fun m =>
    up.reportOk m.toNat true = true ∧ up.reportOk m.toNat false = false ∧ bitsOf m.toNat 7 0 = 1 ∧ bitsOf (0 : BitVec 72).toNat 7 0 ≠ 1 := by decide +kernel
theorem test_coolant_lost : ({ up with time := 10 ^ 9 } : State).thermal.coolAt + 1000000000 ≤ 10 ^ 9 ∧ up.thermal.coolLost = false ∧
    up.thermal.coolant = none ∧ ({ up with thermal := { coolant := some (1, 2, 3) } } : State).thermal.coolant = some (1, 2, 3) := by decide
theorem test_operator_key : bitsOf (2 : BitVec 272).toNat 7 0 = 2 ∧ up.flash.opKey = none ∧ ({ up with mgmt := { running := true } } : State).mgmt.running = true ∧
    up.mgmt.running = false ∧ ({ up with flash := { opKey := some 1 } } : State).flash.opKey ≠ none ∧ bitsOf (0 : BitVec 272).toNat 7 0 ≠ 2 := by decide +kernel

/-- Canopy temperatures drifted by 1.5 °C and by 12 °C, and not at all. -/
def calState (c : Calib) : State := { poweredIn .running with calib := c }
theorem test_calibration_due : (calState {}).calMay = true ∧ up.calMay = false ∧ (calState { temps := [0, 0, 0, 0] }).calDrift.all (· < 24) = true ∧
    (calState { temps := [48, 0, 0, 0] }).calDrift.any (48 ≤ ·) = true ∧ (calState { due := some 0 }).calib.due = some 0 ∧
    ({ tickState 0 with calib := { due := some 0, defer := 1 } } : State).time < 0 + 1 * 1000000 := by decide
theorem test_calibration_ready : (calState { scheduled := true }).calReady = true ∧ (calState {}).calReady = false ∧ refvOk [12000, 12000, 12000, 12000] = true ∧
    refvOk [11760, 11820] = true ∧ refvOk [11759] = false ∧ refvOk [11760, 11821] = false ∧ (calState { running := some 0 }).calib.running ≠ none := by decide
def observedState (now : Nat) : State := { up with time := now, errors := { observed := [⟨k0, false, 0⟩], testWaits := [((k0, true), 0)] } }
theorem test_unit_tests : up.deadAt k0 = false ∧ up.errors.testWaits.find? (fun w => w.1 = (k0, false)) = none ∧
    (observedState 0).errors.testWaits.find? (fun w => w.1 = (k0, true)) = some ((k0, true), 0) ∧
    (observedState 0).errors.observed.find? (fun o => o.unit = k0 ∧ o.isRouter = false) = some ⟨k0, false, 0⟩ ∧
    up.errors.observed.find? (fun o => o.unit = k0 ∧ o.isRouter = false) = none ∧
    ({ up with routers := [(k0, { dead := true })] } : State).deadAt k0 = true := by decide
def testers0 : List Site := [⟨0, 1, 0⟩, ⟨0, 0, 1⟩]
theorem test_votes : (testers0.eraseDups.filter fun t => (testers0.map fun t => (⟨t, k0, false⟩ : Vote)).any fun v =>
    v.tester == t && v.unit == k0 && v.loopback == false).length = 2 ∧ testers0 ≠ [] := by decide
theorem test_darn_ovr : bitsOf (11 * 8 + 11 * 2 ^ 14) 6 3 ≤ 11 ∧ bitsOf (11 * 8 + 11 * 2 ^ 14) 17 14 ≤ 11 ∧ 11 < bitsOf (12 * 8) 6 3 := by decide

/-! ### Hypotheses met: Viumond -/

def session0 : Session := { id := 1, key := 7, lastReq := 0, lastReqId := none, cached := none, unsigned := false }
/-- The controller runs, with one session open. -/
def viuState : State := { tickState 0 with mgmt := { running := true, sessions := [session0] } }
/-- A request of a type, tagged under the session's key. -/
def ask (typ : Byte) (body : List Byte) : Datagram := datagramOf 0 typ 0 5 1 0 0 7 body
theorem test_tag (typ : Byte) (key : BitVec 256) (body : List Byte) :
    (datagramOf 0 typ 0 5 1 0 0 key body).tag = tagOf key (datagramOf 0 typ 0 5 1 0 0 key body) := by
  simp only [datagramOf, tagOf, headOf]
/-- Every request of the session whose body fits is one the module takes up. -/
theorem test_request (typ : Byte) (body : List Byte) (h : body.length ≤ 4032) : viuState.requestOf typ.toNat (ask typ body) session0 := by
  refine ⟨rfl, rfl, ?_, rfl, rfl, test_tag typ 7 body, ?_, ?_⟩
  · have e : (BitVec.ofNat 16 body.length).toNat = body.length := by rw [BitVec.toNat_ofNat, Nat.mod_eq_of_lt (by omega)]
    simp [datagramOk, ask, datagramOf, e, h]
  · intro m hm
    exact nomatch hm
  · intro hu
    exact nomatch hu
theorem test_request_refused : viuState.mgmt.sessions.find? (fun y => y.id == (2 : DWord)) = none ∧ datagramOk { ask 5 [] with ver := 2 } = false ∧
    typeKnown 5 = true ∧ up.mgmt.running = false ∧ (5 : Word).toNat < 6 := by decide
theorem test_tag_wrong (t : BitVec 256) (h : t ≠ tagOf 7 (ask 5 [])) :
    ({ ask 5 [] with tag := t } : Datagram).tag ≠ tagOf 7 { ask 5 [] with tag := t } := by
  have e : tagOf 7 { ask 5 [] with tag := t } = tagOf 7 (ask 5 []) := by simp only [tagOf, headOf]
  rw [e]
  exact h

theorem test_read_reg : bodyOk (ask 2 ([0#8, 0, 0, 0] ++ [4, 0, 0, 0] ++ [1, 0])) 10 [(0, 9), (32, 32), (64, 9)] = true ∧
    2 ^ 16 < 0xFFFC + 4 * 2 ∧ ¬2 ^ 16 < 0xFFFC + 4 * 1 ∧ bitsOf (leNat ([0#8, 0, 0, 0, 4, 0, 0, 0, 1, 0])) 72 64 = 1 := by decide +kernel
theorem test_write_reg : bodyOk (ask 3 (List.replicate 16 0#8)) 16 [(0, 9), (32, 32), (64, 32), (96, 32)] = true ∧ gpOf 0 = none ∧
    gpOf 0x4068 = some (0x4068, false) ∧ gpOf 0x4868 = some (0x4068, true) ∧ (0 : Nat) < 2 ^ 16 := by decide +kernel
/-- A core's location: panel 0, physical column and row 0, unit kind 3. -/
def coreLoc0 : List Byte := [0, 0, 0x0E, 0, 0, 0, 0, 0]
theorem test_read_mem : bodyOk (ask 4 (coreLoc0 ++ [2, 0, 0, 0, 0, 0, 0, 0, 1, 0])) 18 [(0, 64), (64, 2), (96, 32), (128, 16)] = true ∧
    viuState.siteOfLoc (leNat coreLoc0) = some k0 ∧ bitsOf (leNat coreLoc0) 20 18 = 3 ∧ ((viuState.panel 0).dom.get VMEM).on = true ∧
    viuState.siteOfLoc (12 * 4) = none ∧ ((({} : State).panel 0).dom.get VMEM).on = false ∧ 1 ≤ storeSize 2 := by decide +kernel
theorem test_events : bodyOk (ask 5 [0, 0, 1]) 3 [(0, 16), (16, 8)] = true ∧ bitsOf (leNat [0#8, 0, 1]) 23 16 = 1 ∧ bitsOf (leNat [0#8, 0, 60]) 23 16 = 60 ∧
    60 < bitsOf (leNat [0#8, 0, 61]) 23 16 := by decide +kernel
theorem test_trace : bodyOk (ask 18 coreLoc0) 8 [(0, 64)] = true ∧ viuState.siteOfLoc (bitsOf (leNat coreLoc0) 63 0) = some k0 := by decide +kernel
theorem test_scan : bodyOk (ask 19 (coreLoc0 ++ [0, 0, 0, 0, 0, 0, 0, 0, 1, 0])) 18 [(0, 64), (64, 16), (96, 32), (128, 16)] = true ∧
    viuState.freeze.state ≠ .frozen ∧ viuState.freeze.state ≠ .dead ∧ ({ viuState with freeze := { state := .frozen } } : State).freeze.state = .frozen := by
  decide +kernel
theorem test_hold : bodyOk (ask 8 [0]) 1 [(0, 1)] = true ∧ bodyOk (ask 8 [1]) 1 [(0, 1)] = true ∧ ((ask 8 [1]).body.getD 0 0#8).getLsbD 0 = true ∧
    viuState.loaded ≠ none ∧ ({ viuState with loaded := none } : State).loaded = none := by decide +kernel
theorem test_freeze : bodyOk (ask 9 [1]) 1 [(0, 1)] = true ∧ viuState.power.state ≠ .standby ∧ viuState.power.state ≠ .pitching ∧ up.power.state = .standby ∧
    bodyOk (ask 10 []) 0 [] = true ∧ viuState.freeze.state = .running ∧ viuState.freeze.waitPitch = none ∧
    ({ viuState with freeze := { waitPitch := some false } } : State).freeze.waitPitch ≠ none ∧ bodyOk (ask 11 []) 0 [] = true ∧
    bodyOk (ask 12 [1]) 1 [(0, 2)] = true ∧ ((ask 12 [3]).body.getD 0 0#8).toNat % 4 = 3 := by decide +kernel

theorem test_quote : bodyOk (ask 15 (List.replicate 32 0)) 32 [(0, 256)] = true ∧ (viuState.signNext false).isSome = true ∧
    ({ viuState with flash := { keyIndex := keyTotal } } : State).signNext true = none ∧
    ({ viuState with flash := { keyIndex := keyTotal } } : State).signNext false = none := by refine ⟨?_, ?_, ?_, ?_⟩ <;> decide +kernel
theorem test_rotate_key : bodyOk (ask 16 [0]) 1 [(0, 1)] = true ∧ viuState.mgmt.successor = none ∧
    ({ viuState with mgmt := { successor := some (3, 0) } } : State).mgmt.successor = some (3, 0) ∧ bodyOk (ask 20 (List.replicate 32 0)) 32 [(0, 256)] = true := by
  refine ⟨?_, ?_, ?_, ?_⟩ <;> decide +kernel
theorem test_collectors : bodyOk (ask 17 [0, 0]) (collectorsLeast 0) (collectorsLayout 0) = true ∧
    bodyOk (ask 17 (5 :: List.replicate 127 0)) (collectorsLeast 5) (collectorsLayout 5) = true := by constructor <;> decide +kernel
def stageBody : List Byte := [0, 0, 0, 0, 1, 0, 0, 0, 1, 0, 0, 0, 0, 0, 0, 0, 0x55]
theorem test_stage : bodyOk (ask 13 stageBody) (fwStageLeast (leNat stageBody)) (fwStageLayout (leNat stageBody)) = true ∧
    (bytesAt (ask 13 stageBody).body 16 1).length = 1 ∧ bitsOf (leNat stageBody) 63 32 = 1 ∧ 48 * 2 ^ 20 < 48 * 2 ^ 20 + 1 := by decide +kernel
theorem test_activate : bodyOk (ask 14 []) 0 [] = true ∧ viuState.slotOk (viuState.slotOf false) = true ∧ viuState.slotOk (viuState.slotOf true) = false := by
  refine ⟨?_, ?_, ?_⟩ <;> decide +kernel

theorem test_session_open : datagramOk (ask 1 []) = true ∧ (ask 1 []).typ = 1 ∧ viuState.flash.opKey = none ∧
    ({ viuState with flash := { opKey := some 7 } } : State).flash.opKey = some 7 := by decide +kernel
theorem test_session_tag : (ask 1 []).tag = tagOf 7 (ask 1 []) := test_tag 1 7 []
def collector0 : Collector := { addr := 0, port := 0, session := 1, key := 7, nextReq := 0, unacked := [] }
theorem test_event_ack : ({ viuState with mgmt := { running := true, collectors := [collector0] } } : State).mgmt.collectors.find?
      (fun c => c.session == (ask 7 [0, 0]).session) = some collector0 ∧ (ask 7 [0, 0]).tag = tagOf collector0.key (ask 7 [0, 0]) ∧
    bodyOk (ask 7 [0, 0]) 2 [(0, 16)] = true ∧ viuState.mgmt.collectors = [] := by
  refine ⟨?_, test_tag 7 7 [0, 0], ?_, rfl⟩ <;> decide +kernel
theorem test_supervisor : some (mix viuState.mgmt.challenge) = some (mix 0) ∧ (none : Option Word) ≠ some (mix viuState.mgmt.challenge) ∧
    viuState.mgmt.lastGood + 1000000000 ≤ ({ viuState with time := 10 ^ 9 } : State).mclock ∧ viuState.mclock < viuState.mgmt.lastGood + 1000000000 := by
  decide +kernel
theorem test_controller_start : up.powered = true ∧ up.mgmt.running = false ∧ up.mgmt.heldInReset = false ∧ up.slotOk (up.slotOf up.flash.preferB) = true ∧
    ({ up with flash := { preferB := true } } : State).slotOk {} = false ∧
    ({ up with flash := { fwA := {} } } : State).slotOk (({ up with flash := { fwA := {} } } : State).slotOf true) = false := by decide +kernel
theorem test_trial : ({ viuState with mgmt := { trialSince := some 0 } } : State).mgmt.trialSince = some 0 ∧ viuState.mgmt.trialSince = none := by decide
theorem test_freeze_expiry : ({ viuState with freeze := { state := .frozen }, time := 10 ^ 8 } : State).freeze.since + 100000000 ≤ 10 ^ 8 ∧
    viuState.resetLow = false ∧ ({ viuState with freeze := { state := .frozen } } : State).time < 0 + 100000000 := by decide

/-! ### Hypotheses met: registers, the queue, the memories -/

/-- A first half of RATION0 made at 0. -/
def half0 : GpHalf := { off := 0x2100, isComplement := false, value := 5, at_ := 0, sel := 0 }
def halfState (now : Nat) : State := { up with time := now, regs := { halves := [half0] } }
theorem test_guarded : gpOf 0x2100 = some (0x2100, false) ∧ gpOf 0x2900 = some (0x2100, true) ∧ gpOf 0x2104 = some (0x2104, false) ∧ gpOf 0x10 = none ∧
    (halfState 1279).expireHalves.regs.halves.find? (fun h => h.off == 0x2100) = some half0 ∧ half0.value = ~~~(0xFFFFFFFA : Word) ∧
    (halfState 1279).gpOk 0x2100 5 = true ∧ up.expireHalves.regs.halves.find? (fun h => h.off == 0x2100) = none ∧
    (halfState 1280).regs.halves.find? (fun h => h.off == 0x2100) = some half0 ∧ half0.at_ + 1280 ≤ (halfState 1280).time := by decide +kernel
theorem test_guarded_tenant : gpOf 0x1104 = some (0x1104, false) ∧ gpOf 0x1914 = some (0x1114, true) := by decide +kernel
theorem test_ring_control : (0x61 : Word).getLsbD 0 = true ∧ bitsOf (0x0C : Word).toNat 4 1 = 6 ∧ bitsOf (0x20 : Word).toNat 4 1 = 0 ∧
    bitsOf (0x0A : Word).toNat 4 1 = 5 ∧ ((up.fn 0).ring 6).en = false ∧ (((doorState { rings := Vector.replicate 7 ring0 }).fn 0).ring 6).en = true := by
  decide +kernel
theorem test_sequence : (0x00050000 : Word).toNat / 2 ^ 16 = ((doorState { seq := 5 }).fn 0).seq := by decide
/-- One KV frame on core 0 of panel 0, loaded; the first four states of its record. -/
def ptState (v : Byte) : State :=
  { tickState 0 with cores := [(k0, { coreUp with tab := { coreUp.tab with kvBytes := pageTableBytes + frameBytes }, wgt := Mem.write [] 0 [v] })] }
theorem test_page_table : (ptState 0).ptSite = some (k0, 0) ∧ up.ptSite = none ∧
    (∀ v ∈ [0, 1, 2, 3], (((ptState (BitVec.ofNat 8 v)).core k0).frameRec 0).st = v) := by refine ⟨?_, ?_, ?_⟩ <;> decide +kernel
theorem test_register_offsets : gpOf 0x3000 = none ∧ gpOf 0x301C = none ∧ gpOf 0x3020 = none ∧ gpOf 0x4064 = none ∧ gpOf 0x4068 ≠ none ∧ fnOk 24 := by
  decide +kernel

theorem test_queue : ({ up with pending := [.pwrEnAssert, .doorbellSnoop 511, .doorbellSnoop 512] } : State).pending =
      [.pwrEnAssert, .doorbellSnoop 511] ++ [.doorbellSnoop 512] ∧ (Instr.doorbellSnoop 511).wf ∧ ¬(Instr.doorbellSnoop 512).wf ∧ Instr.pwrEnAssert.wf :=
  ⟨rfl, (show 511 < 512 by decide), (show ¬(512 < 512) by decide), trivial⟩
theorem test_queue_ok : QueueOk { up with pending := [.pwrEnAssert] } := by
  intro c hc
  cases hc with
  | head => trivial
  | tail _ h => exact nomatch h
theorem test_canonical : Canonical up := by
  refine ⟨by decide, fun k st hst => ?_⟩
  have hc : (up.core k) = coreUp ∨ up.core k = {} := by
    simp only [up, coreState, State.core]
    by_cases h : k0 = k
    · left
      simp [getK, h]
    · right
      simp [getK, h]
  rcases hc with h | h <;> rw [h] <;> interval_cases st <;> decide

/-! ### Well-formedness refuses what names no unit -/

theorem test_wf_site : ¬(Instr.vadd ⟨384, 0, 0⟩ 0).wf ∧ ¬(Instr.vadd ⟨0, 13, 0⟩ 0).wf ∧ ¬(Instr.vadd ⟨0, 0, 12⟩ 0).wf ∧ (Instr.vadd ⟨383, 12, 11⟩ 0).wf := by
  simp only [Instr.wf]
  decide
theorem test_wf_panel : ¬(Instr.panelReady 384).wf ∧ (Instr.panelReady 383).wf := by
  simp only [Instr.wf]
  decide
theorem test_wf_function : ¬(Instr.load 512).wf ∧ ¬(Instr.request 0 4).wf ∧ (Instr.request 511 3).wf ∧ ¬(Instr.ringEnable 0 7 0).wf := by
  simp only [Instr.wf]
  decide
theorem test_wf_link : ¬(Instr.guyAckTimeout 8).wf ∧ (Instr.guyAckTimeout 7).wf ∧ ¬(Instr.lanternDraw 4 0 0).wf := by
  simp only [Instr.wf]
  decide
theorem test_wf_power : ¬(Instr.senseSample 0 4 0 0 0).wf ∧ ¬(Instr.converterFailure 24).wf ∧ ¬(Instr.sectorLimitCheck 8 0 0).wf ∧
    ¬(Instr.lugImbalanceCheck 0 0 0 0).wf ∧ ¬(Instr.lugImbalanceCheck 3 0 0 0).wf := by
  simp only [Instr.wf]
  decide
theorem test_no_such_unit : exec (.panelReady 384) up = .fault .noSuchUnit := by rfl

/-! ### One step -/

/-- What a field of the state is after one command on a state. -/
def after {α : Type} (i : Instr) (s : State) (f : State → α) : Option α := match step { s with pending := [i] } with
  | .next t => some (f t)
  | _ => none

/-- R202: SOP FN 1 with an immediate, s1 := s2 − 3, wraps; FN 8 shifts by B mod 32, here −8 by 33. -/
theorem test_sop : after (.sop k0 (word [(50, 1), (45, 1), (44, 1), (38, 2), (0, 3)])) up (fun t => (t.core k0).sreg 1) = some 0xFFFFFFFD ∧
    after (.sop k0 (word [(50, 1), (45, 8), (44, 1), (38, 2), (0, 33)])) (coreState { coreUp with s := coreUp.s.set 2 0xFFFFFFF8 })
      (fun t => (t.core k0).sreg 1) = some 0xFFFFFFFC := by constructor <;> decide +kernel
/-- R164: VBCST writes its immediate to an active lane of v3. -/
theorem test_vbcst : after (.vbcst k0 (word [(37, 3), (36, 1), (0, 0x12345678)])) up (fun t => lane ((t.core k0).vreg 3) 63) = some 0x12345678 := by
  decide +kernel
/-- R328: a ring of 64 entries enabled. -/
theorem test_ring_enable : after (.ringEnable 3 0 0x0D) up (fun t => ((t.fn 3).ring 0).en && ((t.fn 3).ring 0).lsize == 6) = some true := by decide +kernel
/-- R331: a snoop of a held doorbell line leaves it being read. -/
theorem test_snoop : after (.doorbellSnoop 0) (doorState { lineHeld := true }) (fun t => ((t.fn 0).lineHeld, (t.fn 0).readOut)) = some (false, true) := by
  decide +kernel
/-- R529: both halves of a pair within 256 cycles put RATION0 in force; a complement that does not agree is a guard fault. -/
theorem test_pair_step : after (.guardedPair 0x2900 0xFFFFFFFA) (halfState 100) (fun t => (t.regs.rations.get 0, t.regs.halves.length)) = some (5, 0) ∧
    after (.guardedPair 0x2900 0xFFFFFFFB) (halfState 100) (fun t => (t.regs.rations.get 0, t.regs.guardCount)) = some (0, 1) := by
  constructor <;> decide +kernel
/-- R409: a droop of 30 mV takes 1,900 MHz to 1,425 MHz. -/
theorem test_droop_step : after (.droopTrip 0 7 300) up (fun t => (t.panel 0).clock) = some 57 := by decide +kernel
/-- An empty queue: one nanosecond passes (notes/assumptions/1). -/
theorem test_idle : (match step up with
    | .next t => t.time
    | _ => 0) = 1 := by decide +kernel

end Sys2Proof.Tests
end

section
/-! SUPPORT and SETTLED. The queue of commands: what a command answers, what a step takes off the queue, how a run goes. -/

namespace Sys2Proof.Machine

/-! ### What a command answers (R16, R21, R323, R327, R404, R415) -/

/-- Every command has one shape: if the units it names exist it has an effect on all but the queue; else the machine stops. -/
theorem exec_eq_onUnit (c : Instr) (s : State) :
    ∃ (d : Decidable c.wf) (f : State → State), exec c s = @onUnit c.wf d s f := by
  cases c <;> (dsimp only [exec]; exact ⟨_, _, rfl⟩)

theorem exec_next_of_wf {c : Instr} (s : State) (h : c.wf) : ∃ t, exec c s = .next t ∧ t.pending = s.pending := by
  obtain ⟨_, f, hf⟩ := exec_eq_onUnit c s
  exact ⟨(f s).withQueueOf s, hf.trans (onUnit_next h s f), rfl⟩

theorem exec_fault_of_not_wf {c : Instr} (s : State) (h : ¬c.wf) : exec c s = .fault .noSuchUnit := by
  obtain ⟨_, f, hf⟩ := exec_eq_onUnit c s
  exact hf.trans (if_neg h)

/-- Settles O3: every command is guarded by the existence of its units. -/
theorem commandOutcomes : Obligations.CommandOutcomes :=
  fun _ s => ⟨exec_next_of_wf s, exec_fault_of_not_wf s⟩

/-! ### What a step takes off the queue (R9; that an empty queue idles is the model's choice, notes/assumptions/1) -/

theorem step_of_pending_cons {s : State} {c : Instr} {rest : List Instr} (h : s.pending = c :: rest) :
    step s = exec c { s with pending := rest } := by
  rw [step, h]

theorem step_of_pending_nil {s : State} (h : s.pending = []) : step s = .next s.idle := by
  rw [step, h]

/-- Settles O1: the two cases of a step. -/
theorem stepRunsFront : Obligations.StepRunsFront :=
  ⟨fun _ _ _ => step_of_pending_cons, fun _ => step_of_pending_nil⟩

theorem step_next_of_front_wf {s : State} {c : Instr} {rest : List Instr} (h : s.pending = c :: rest) (hc : c.wf) :
    ∃ t, step s = .next t ∧ t.pending = rest := by
  rw [step_of_pending_cons h]
  exact exec_next_of_wf _ hc

theorem step_fault_of_front_not_wf {s : State} {c : Instr} {rest : List Instr} (h : s.pending = c :: rest) (hc : ¬c.wf) :
    step s = .fault .noSuchUnit := by
  rw [step_of_pending_cons h, exec_fault_of_not_wf _ hc]

theorem step_next_of_queueOk {s : State} (h : QueueOk s) : ∃ t, step s = .next t ∧ t.pending = s.pending.tail := by
  cases hq : s.pending with
  | nil => exact ⟨s.idle, step_of_pending_nil hq, hq⟩
  | cons c rest => exact step_next_of_front_wf hq (h c (by simp [hq]))

theorem queueOk_of_pending_tail {s t : State} (h : QueueOk s) (ht : t.pending = s.pending.tail) : QueueOk t :=
  fun c hc => h c (List.mem_of_mem_tail (ht ▸ hc))

/-- Settles O4: from such a queue the step's one answer leaves the queue's tail. -/
theorem queueInvariant : Obligations.QueueInvariant := by
  refine ⟨fun s t h ht => ?_, fun s h => ?_⟩
  · obtain ⟨u, hu, htail⟩ := step_next_of_queueOk h
    obtain rfl : t = u := Host.Outcome.next.inj (ht.symm.trans hu)
    exact ⟨queueOk_of_pending_tail h htail, htail⟩
  · obtain ⟨t, ht, _⟩ := step_next_of_queueOk h
    exact ⟨t, ht⟩

/-! ### Runs -/

theorem runs_unique {n : Nat} {s t u : State} (ht : Runs n s t) (hu : Runs n s u) : u = t := by
  induction n generalizing s with
  | zero => exact hu.symm.trans ht
  | succ n ih =>
    obtain ⟨a, ha, hat⟩ := ht
    obtain ⟨b, hb, hbu⟩ := hu
    obtain rfl : a = b := Host.Outcome.next.inj (ha.symm.trans hb)
    exact ih hat hbu

theorem runs_add {m n : Nat} {s t u : State} (hm : Runs m s t) (hn : Runs n t u) : Runs (m + n) s u := by
  induction m generalizing s with
  | zero => rw [Nat.zero_add, show s = t from hm]; exact hn
  | succ m ih =>
    obtain ⟨a, ha, hat⟩ := hm
    rw [Nat.succ_add]
    exact ⟨a, ha, ih hat⟩

/-- As many steps as commands at the front name units take exactly these off the queue. -/
theorem runs_of_front_wf {s : State} {cs rest : List Instr} (hq : s.pending = cs ++ rest) (hwf : ∀ c ∈ cs, c.wf) :
    ∃ t, Runs cs.length s t ∧ t.pending = rest := by
  induction cs generalizing s with
  | nil => exact ⟨s, rfl, hq⟩
  | cons c cs ih =>
    obtain ⟨hc, hcs⟩ := List.forall_mem_cons.mp hwf
    obtain ⟨u, hu, huq⟩ := step_next_of_front_wf hq hc
    obtain ⟨t, ht, htq⟩ := ih huq hcs
    exact ⟨t, ⟨u, hu, ht⟩, htq⟩

/-- The state after `n` nanoseconds in which nothing is commanded: module time wraps with the first of them (R9). -/
def State.idleFor (s : State) (n : Nat) : State := { s with time := if n = 0 then s.time else (s.time + n) % 2 ^ 64 }

theorem State.idleFor_zero (s : State) : s.idleFor 0 = s := rfl

theorem State.idle_idleFor (s : State) (n : Nat) : s.idle.idleFor n = s.idleFor (n + 1) := by
  have htime : (if n = 0 then (s.time + 1) % 2 ^ 64 else ((s.time + 1) % 2 ^ 64 + n) % 2 ^ 64) = (s.time + (n + 1)) % 2 ^ 64 := by
    split <;> omega
  simp only [State.idleFor, State.idle, htime, Nat.add_one_ne_zero, if_false]

theorem runs_idleFor {s : State} (hq : s.pending = []) (n : Nat) : Runs n s (s.idleFor n) := by
  induction n generalizing s with
  | zero => exact s.idleFor_zero.symm
  | succ n ih => exact ⟨s.idle, step_of_pending_nil hq, s.idle_idleFor n ▸ ih hq⟩

/-- Settles O5, by induction on the commands that name units; what follows them is one step or a run of idle ones. -/
theorem queueRuns : Obligations.QueueRuns := by
  intro s cs rest hq hwf
  obtain ⟨t, hrun, ht⟩ := runs_of_front_wf hq hwf
  refine ⟨t, hrun, ht, fun u hu => runs_unique hrun hu, fun c r hr hc => ?_, fun hr n => ?_⟩
  · exact step_fault_of_front_not_wf (ht.trans hr) hc
  · exact runs_add hrun (runs_idleFor (ht.trans hr) n)

end Sys2Proof.Machine
end

section
/-! SUPPORT and SETTLED. Routers that die, and unicast paths inside a canopy (R42, R47 to R50). -/

namespace Sys2Proof.Machine

/-! ### Death (R47, R49, R50) -/

theorem router_foldl {α : Type} (f : State → α → State) (k : Site) (h : ∀ (s : State) (x : α), (f s x).router k = s.router k)
    (l : List α) (s : State) : (l.foldl f s).router k = s.router k := by
  induction l generalizing s with
  | nil => rfl
  | cons x r ih => exact (ih _).trans (h s x)

/-- A fence is a mark of panels: it leaves every router as it is. -/
theorem router_fencePanel (s : State) (p : Nat) (k : Site) : (s.fencePanel p).router k = s.router k := by
  unfold State.fencePanel
  refine (router_foldl _ k (fun s i => ?_) _ _).trans rfl
  dsimp only
  split <;> rfl

theorem router_killRouter (s : State) (k : Site) : (s.killRouter k).router k = { s.router k with dead := true, inq := [] } := by
  unfold State.killRouter
  dsimp only
  split
  · exact State.router_mapRouter_same ..
  · rw [router_fencePanel, State.router_mapRouter_same]

theorem deadAt_killRouter (s : State) (k : Site) : (s.killRouter k).deadAt k = true := by
  rw [State.deadAt, router_killRouter, Bool.true_or]

/-! ### Straight lines of hops (R42) -/

/-- How far apart two coordinates are. -/
def lineGap (a b : Nat) : Nat := (b - a) + (a - b)

theorem lineGap_self (a : Nat) : lineGap a a = 0 := by
  unfold lineGap; omega

theorem lineGap_toward {a b : Nat} (h : a ≠ b) : lineGap a b = lineGap (toward a b) b + 1 := by
  unfold lineGap toward
  split
  · omega
  · split <;> omega

/-- The hops that lead coordinate `a` one by one to `b`, `f` giving the site at a coordinate. -/
def straightHops (f : Nat → Site) (a b : Nat) : List Hop :=
  (List.range (lineGap a b)).map fun i => ⟨f ((toward · b)^[i + 1] a), false⟩

theorem straightHops_self (f : Nat → Site) (a : Nat) : straightHops f a a = [] := by
  rw [straightHops, lineGap_self]; rfl

theorem straightHops_step (f : Nat → Site) {a b : Nat} (h : a ≠ b) :
    straightHops f a b = ⟨f (toward a b), false⟩ :: straightHops f (toward a b) b := by
  simp only [straightHops, lineGap_toward h, List.range_succ_eq_map, List.map_cons, List.map_map, Function.comp_def,
    Function.iterate_succ_apply, Function.iterate_zero_apply]

/-! ### Paths in a canopy without dead routers -/

/-- One hop of a path whose next router, on the row first and then on the column, is not dead. -/
theorem pathIn_step {s : State} {can : Nat} (hlive : ∀ g h, s.deadAt (siteAt can g h) = false) {n g h dg dh : Nat}
    (hne : ¬(g = dg ∧ h = dh)) :
    s.pathIn can false (n + 1) g h dg dh =
      if g = dg then ⟨siteAt can g (toward h dh), false⟩ :: s.pathIn can false n g (toward h dh) dg dh
      else ⟨siteAt can (toward g dg) h, false⟩ :: s.pathIn can false n (toward g dg) h dg dh := by
  rw [State.pathIn, if_neg hne]
  by_cases hg : g = dg <;> simp [hg, hlive]

theorem pathIn_column {s : State} {can : Nat} (hlive : ∀ g h, s.deadAt (siteAt can g h) = false) {n g h dh : Nat}
    (hn : lineGap h dh ≤ n) : s.pathIn can false n g h g dh = straightHops (siteAt can g) h dh := by
  induction n generalizing h with
  | zero =>
    obtain rfl : h = dh := by unfold lineGap at hn; omega
    rw [straightHops_self]; rfl
  | succ n ih =>
    by_cases hd : h = dh
    · subst hd; rw [straightHops_self, State.pathIn, if_pos ⟨rfl, rfl⟩]
    · have hle : lineGap (toward h dh) dh ≤ n := by have := lineGap_toward hd; omega
      rw [pathIn_step hlive (fun e => hd e.2), if_pos rfl, ih hle, ← straightHops_step _ hd]

theorem pathIn_live {s : State} {can : Nat} (hlive : ∀ g h, s.deadAt (siteAt can g h) = false) {n g h dg dh : Nat}
    (hn : lineGap g dg + lineGap h dh ≤ n) :
    s.pathIn can false n g h dg dh = straightHops (siteAt can · h) g dg ++ straightHops (siteAt can dg) h dh := by
  induction n generalizing g with
  | zero =>
    obtain rfl : g = dg := by unfold lineGap at hn; omega
    rw [straightHops_self, List.nil_append, pathIn_column hlive (by omega)]
  | succ n ih =>
    by_cases hg : g = dg
    · subst hg; rw [straightHops_self, List.nil_append, pathIn_column hlive (by omega)]
    · have hle : lineGap (toward g dg) dg + lineGap h dh ≤ n := by have := lineGap_toward hg; omega
      rw [pathIn_step hlive (fun e => hg e.1), if_neg hg, ih hle, straightHops_step _ hg, List.cons_append]

/-- Dead routers and fences of other canopies do not bend a path inside a canopy: its rows and columns take at most 250 hops. -/
theorem path_live {s : State} {k : Site} (hlive : ∀ g h, s.deadAt (siteAt (siteCanopy k) g h) = false) {dg dh : Nat}
    (hg : siteG k ≤ 155) (hh : siteH k ≤ 95) (hdg : dg ≤ 155) (hdh : dh ≤ 95) :
    s.path k (siteCanopy k) dg dh =
      straightHops (siteAt (siteCanopy k) · (siteH k)) (siteG k) dg ++ straightHops (siteAt (siteCanopy k) dg) (siteH k) dh := by
  have hfuel : lineGap (siteG k) dg + lineGap (siteH k) dh ≤ 600 := by unfold lineGap; omega
  rw [State.path, if_pos rfl, pathIn_live hlive hfuel]

/-- Settles O29: a death is a mark of the router and, with fences, of panels; a path by induction on its two legs. -/
theorem routesAroundDeath : Obligations.RoutesAroundDeath := by
  refine ⟨fun s k hk => ⟨fun hr => ?_, router_killRouter s k, deadAt_killRouter s k, fun hr hd => ?_⟩,
    fun s k dg dh hlive hg hh hdg hdh => path_live (fun _ _ => hlive _) hg hh hdg hdh⟩
  · refine ou hk (if_pos ?_)
    simpa using hr
  · refine ou_same hk (if_neg ?_)
    simp [hr, hd]

end Sys2Proof.Machine
end

section
/-! SUPPORT and SETTLED. What a router does with a flit that arrives, and with those a tree's inputs hold (R36 to R66). What a
wire carries on, what an input holds and the bits a check covers are the model's choices (notes/assumptions/11, 14, 60). -/

namespace Sys2Proof.Machine

/-! ### A flit taken off its link -/

/-- The virtual channel a sideband names (R35). -/
def channelOf (sb : Sideband) : Nat := 2 * sb.cls.toNat + (if sb.detour then 1 else 0)

/-- Flits a router's input holds on a virtual channel. -/
def Router.heldOn (r : Router) (p : Port) (vc : Nat) : Nat := (r.inq.filter fun h => h.port = p ∧ h.vc = vc).length

theorem takeWire_transit (s : State) (k : Site) (p : Port) (f : Flit) : ∃ tr, (s.takeWire k p f).1 = { s with transit := tr } := by
  unfold State.takeWire
  split
  · exact ⟨s.transit, rfl⟩
  · exact ⟨_, rfl⟩

@[simp] theorem core_takeWire (s : State) (k : Site) (p : Port) (f : Flit) (j : Site) : (s.takeWire k p f).1.core j = s.core j := by
  obtain ⟨tr, h⟩ := takeWire_transit s k p f
  rw [h]; rfl

@[simp] theorem router_takeWire (s : State) (k : Site) (p : Port) (f : Flit) (j : Site) : (s.takeWire k p f).1.router j = s.router j := by
  obtain ⟨tr, h⟩ := takeWire_transit s k p f
  rw [h]; rfl

@[simp] theorem routerRuns_takeWire (s : State) (k : Site) (p : Port) (f : Flit) (j : Site) :
    (s.takeWire k p f).1.routerRuns j = s.routerRuns j := by
  obtain ⟨tr, h⟩ := takeWire_transit s k p f
  rw [h]; rfl

/-! ### Arrival, by what R36, R37, R40 and R42 look at in turn -/

/-- Where a flit of a legal route word goes, by its mode, with what was left of its path (R42, R46, R59). -/
def State.routeFlit (s : State) (k : Site) (p : Port) (vc : Nat) (f : Flit) (path : Option (List Hop)) : State :=
  match rMode f with
  | 0 =>
    if siteCanopy k = rCan f ∧ siteG k = rCol f ∧ siteH k = rRow f then s.deliverLocal k p vc f
    else
      match path with
      | some (h :: r) => s.sendHop k f (h :: r)
      | _ => s.sendHop k f (s.path k (rCan f) (rCol f) (rRow f))
  | 1 =>
    match (s.router k).mcast.find? (fun m => m.1 = rChan f) with
    | some m =>
      if m.2 = 0 then s.fabricFormat k p f
      else (allPorts.filter fun q => m.2.getLsbD (portNum q)).foldl (fun s q => s.outPort k p vc q f) s
    | none => s.fabricFormat k p f
  | _ => s.treeArrival k p vc f

section
variable {s : State} {k : Site} {p : Port} {f : Flit} {sb : Sideband}

theorem linkCheck_sound (hcheck : checkBits f = sb.check) : s.linkCheck k p f sb = (s, f) := if_pos hcheck

theorem flitArrival_no_room (hrun : s.routerRuns k = true)
    (hfull : inputDepth k p (rMode f) ≤ (s.router k).heldOn p (channelOf sb)) (hpath : (s.takeWire k p f).2 = none) :
    s.flitArrival k p f sb = (s.takeWire k p f).1.raise
      { code := 0x0101, cls := .fatal, kind := 1, loc := physLoc k, arg0 := portNum p + channelOf sb * 8 } := by
  unfold Router.heldOn channelOf at hfull
  unfold State.flitArrival channelOf
  extract_lets vc full t u
  have hfull' : full = true := decide_eq_true hfull
  have hu : u.routerRuns k = true := (routerRuns_takeWire ..).trans hrun
  rw [if_neg (by simp [t, hpath]), if_neg (by simp [hu]), if_pos hfull']

theorem flitArrival_room (hrun : s.routerRuns k = true)
    (hroom : (s.router k).heldOn p (channelOf sb) < inputDepth k p (rMode f)) (hcheck : checkBits f = sb.check) :
    s.flitArrival k p f sb = if routeOk f sb then (s.takeWire k p f).1.routeFlit k p (channelOf sb) f (s.takeWire k p f).2
      else (s.takeWire k p f).1.fabricFormat k p f := by
  unfold Router.heldOn channelOf at hroom
  unfold State.flitArrival channelOf
  extract_lets vc full t u x v g
  have hfull : full = false := decide_eq_false (Nat.not_le.mpr hroom)
  have hu : u.routerRuns k = true := (routerRuns_takeWire ..).trans hrun
  have hx : x = (u, f) := linkCheck_sound hcheck
  have hv : v = u := congrArg Prod.fst hx
  have hg : g = f := congrArg Prod.snd hx
  rw [if_neg (by simp [hfull]), if_neg (by simp [hu]), if_neg (by simp [hfull])]
  rw [hv, hg]
  cases routeOk f sb with
  | false => rw [if_pos (by rfl), if_neg Bool.false_ne_true]
  | true =>
    rw [if_neg (by simp), if_pos rfl]
    unfold State.routeFlit
    generalize rMode f = mode
    rfl

end

/-! ### Where a flit goes -/

section
variable {s : State} {k : Site} {p : Port} {vc : Nat} {f : Flit} {path : Option (List Hop)}

theorem routeFlit_here (hmode : rMode f = 0) (hhere : siteCanopy k = rCan f ∧ siteG k = rCol f ∧ siteH k = rRow f) :
    s.routeFlit k p vc f path = s.deliverLocal k p vc f := by
  simp only [State.routeFlit, hmode, if_pos hhere]

theorem routeFlit_on (hmode : rMode f = 0) (hhere : ¬(siteCanopy k = rCan f ∧ siteG k = rCol f ∧ siteH k = rRow f))
    (h : Hop) (r : List Hop) : s.routeFlit k p vc f (some (h :: r)) = s.sendHop k f (h :: r) := by
  simp only [State.routeFlit, hmode, if_neg hhere]

theorem routeFlit_first (hmode : rMode f = 0) (hhere : ¬(siteCanopy k = rCan f ∧ siteG k = rCol f ∧ siteH k = rRow f)) :
    s.routeFlit k p vc f none = s.sendHop k f (s.path k (rCan f) (rCol f) (rRow f)) := by
  simp only [State.routeFlit, hmode, if_neg hhere]

theorem routeFlit_multicast (hmode : rMode f = 1) {m : Nat × BitVec 6}
    (hm : (s.router k).mcast.find? (fun m => m.1 = rChan f) = some m) (hports : m.2 ≠ 0) :
    s.routeFlit k p vc f path =
      (allPorts.filter fun q => m.2.getLsbD (portNum q)).foldl (fun s q => s.outPort k p vc q f) s := by
  simp only [State.routeFlit, hmode, hm, if_neg hports]

theorem routeFlit_tree (hmode : 2 ≤ rMode f) : s.routeFlit k p vc f path = s.treeArrival k p vc f := by
  unfold State.routeFlit
  split
  · omega
  · omega
  · rfl

theorem treeArrival_expected {e : RedEntry} (he : (s.router k).entry (rChan f) = some e) (hb : rChan f ∉ (s.router k).broken)
    (hp : e.mask.getLsbD (portNum p) = true) :
    s.treeArrival k p vc f = if e.ports.length = 1 then s.outPort k p vc e.out f
      else s.mapRouter k fun r => { r with inq := r.inq ++ [{ port := p, vc := vc, flit := f }] } := by
  simp only [State.treeArrival, if_neg hb, he, hp, Bool.not_true, Bool.false_eq_true, if_false]
  rfl

end

/-! ### A root that got no flits is not woken (R189) -/

theorem rootWake_same {s t : State} {k : Site} (h : (t.core k).rootIn = (s.core k).rootIn) : s.rootWake t k = t := by
  rw [State.rootWake, h]
  simp

theorem rootIn_land {c d : Core} {f : Flit} (h : c.land f = some d) : d.rootIn = c.rootIn := by
  unfold Core.land at h
  dsimp only at h
  split at h
  · cases h; rfl
  · split at h <;> cases h
    rfl

/-- Unicast and multicast flits go to the landing buffers, not to the root. -/
theorem rootIn_deliverLocal {s : State} {k : Site} {p : Port} {vc : Nat} {f : Flit} (hmode : rMode f < 2) :
    ((s.deliverLocal k p vc f).core k).rootIn = (s.core k).rootIn := by
  unfold State.deliverLocal
  split
  · rfl
  split
  · rfl
  rw [if_neg (by omega)]
  split
  · next hland => rw [State.core_setCore_same, rootIn_land hland]
  · rfl

theorem core_sendHop (s : State) (k : Site) (f : Flit) (path : List Hop) (j : Site) : (s.sendHop k f path).core j = s.core j := by
  cases path <;> rfl

/-! ### Trees (R59 to R66) -/

theorem firstDiff_const {xs : List Nat} {a : Nat} (h : ∀ x ∈ xs, x = a) : firstDiff xs = none := by
  cases xs with
  | nil => rfl
  | cons x r =>
    obtain ⟨rfl, hr⟩ := List.forall_mem_cons.mp h
    have hnone : r.find? (· ≠ x) = none := List.find?_eq_none.mpr fun y hy => by simpa using hr y hy
    simp only [firstDiff, hnone, Option.map_none]

/-- A list of inputs is not empty, and no input of it is missing. -/
theorem inputs_all {α : Type} {ports : List Port} {g : Port → Option α} {xs : List α} (hne : ports ≠ []) (h : ports.map g = xs.map some) :
    (ports.map g).filterMap id = xs ∧ xs.length = (ports.map g).length ∧ xs ≠ [] := by
  refine ⟨by rw [h]; simp, by rw [h, List.length_map], fun hx => hne ?_⟩
  rwa [hx, List.map_nil, List.map_eq_nil_iff] at h

/-- Heads of one INDEX and OP at every expected input are taken, combined and sent on (R60, R61). -/
theorem reduceCombine_heads {s : State} {k : Site} {tree : Nat} {e : RedEntry} {fs : List Flit} {i op : Nat} (hrun : s.routerRuns k = true)
    (he : (s.router k).entry tree = some e) (hne : e.ports ≠ []) (hfs : (e.ports.map fun p => (s.router k).headOf p tree) = fs.map some)
    (hsame : ∀ f ∈ fs, rMode f = 2 ∧ pIndex f = i ∧ rOp f = op) :
    s.reduceCombine k tree = (s.mapRouter k fun r => (e.ports.zip fs).foldl (fun r x => r.takeOut x.1 [x.2]) r).outPort k .here 2
      e.out (combineFlits fs) := by
  obtain ⟨hall, hlen, hfull⟩ := inputs_all hne hfs
  have hmode : (fs.any fun f => decide (rMode f ≠ 2)) = false := by
    simpa using fun f hf => (hsame f hf).1
  have hindex : firstDiff (fs.map pIndex) = none := firstDiff_const (a := i) (by simpa using fun f hf => (hsame f hf).2.1)
  have hop : firstDiff (fs.map rOp) = none := firstDiff_const (a := op) (by simpa using fun f hf => (hsame f hf).2.2)
  have hempty : fs.isEmpty = false := by simpa using hfull
  simp only [State.reduceCombine, he, hrun, hall, hlen, hmode, hempty, hindex, hop, ne_eq, not_true_eq_false, decide_false, Bool.not_true,
    Bool.or_false, Bool.false_eq_true, if_false]
  rfl

/-- Complete lists of one K and COHORT at every expected input are taken, merged and their best K sent on (R65, R66). -/
theorem mergeCombine_lists {s : State} {k : Site} {tree : Nat} {e : RedEntry} {ls : List (List Flit)} {f : Flit} (hrun : s.routerRuns k = true)
    (he : (s.router k).entry tree = some e) (hne : e.ports ≠ []) (hls : (e.ports.map fun p => (s.router k).listOf p tree) = ls.map some)
    (hf : (ls.filterMap (·.head?)).head? = some f)
    (hsame : ∀ g ∈ ls.filterMap (·.head?), pK g = pK f ∧ pCohort g = pCohort f) :
    s.mergeCombine k tree = (listFlits (rCan f) (rCol f) (rRow f) tree (pK f) (pCohort f)
        (topK (pK f) (ls.flatMap fun l => (l.flatMap flitCands).take (pK f)))).foldl (fun s o =>
      s.outPort k .here 2 e.out { o with
        poisoned := ls.any fun l => l.any (·.poisoned)
        side := if ls.any fun l => l.any pNan then o.side ||| 0x200#64 else o.side })
      (s.mapRouter k fun r => (e.ports.zip ls).foldl (fun r x => r.takeOut x.1 x.2) r) := by
  obtain ⟨hall, hlen, hfull⟩ := inputs_all hne hls
  have hempty : ls.isEmpty = false := by simpa using hfull
  obtain ⟨heads, hheads⟩ : ∃ r, ls.filterMap (·.head?) = f :: r := List.head?_eq_some_iff.mp hf
  rw [hheads] at hsame
  have hk : firstDiff ((f :: heads).map pK) = none := firstDiff_const (a := pK f) fun x hx => by
    obtain ⟨g, hg, rfl⟩ := List.mem_map.mp hx
    exact (hsame g hg).1
  have hcohort : firstDiff ((f :: heads).map pCohort) = none := firstDiff_const (a := pCohort f) fun x hx => by
    obtain ⟨g, hg, rfl⟩ := List.mem_map.mp hx
    exact (hsame g hg).2
  simp only [State.mergeCombine, he, hrun, hall, hlen, hempty, hheads, hk, hcohort, ne_eq, not_true_eq_false, decide_false, Bool.not_true,
    Bool.or_false, Bool.false_eq_true, if_false]
  rfl

/-! ### The commands -/

theorem exec_arrival {s t : State} {k : Site} {p : Port} {f : Flit} {sb : Sideband} (hk : k.ok) (h : s.flitArrival k p f sb = t) :
    exec (.routerFlitArrival k p f sb) s = .next ((s.rootWake t k).withQueueOf s) :=
  ou (f := fun s => s.rootWake (s.flitArrival k p f sb) k) hk (congrArg (s.rootWake · k) h)

/-- An arrival that leaves the root's flits as they are does no more than the router does. -/
theorem exec_arrival_asleep {s t : State} {k : Site} {p : Port} {f : Flit} {sb : Sideband} (hk : k.ok) (h : s.flitArrival k p f sb = t)
    (hroot : (t.core k).rootIn = (s.core k).rootIn) : exec (.routerFlitArrival k p f sb) s = .next (t.withQueueOf s) := by
  rw [exec_arrival hk h, rootWake_same hroot]

/-- Settles O28: an arrival by room, check, route word and mode; a combination by what the expected inputs hold. -/
theorem routerWork : Obligations.RouterWork := by
  refine ⟨fun s k p f sb hk hrun => ⟨fun hfull hpath => ?_, fun hroom hcheck => ?_⟩,
    fun s k tree e hk hrun he hne => ⟨fun fs i op hfs hsame => ?_, fun ls f hls hf hsame => ?_⟩⟩
  · exact exec_arrival_asleep hk (flitArrival_no_room hrun hfull hpath) (by rw [State.raise_core, core_takeWire])
  · have harrive := flitArrival_room hrun hroom hcheck
    refine ⟨fun hbad => ?_, fun hgood => ?_⟩
    · rw [if_neg (by simp [hbad])] at harrive
      exact exec_arrival_asleep hk harrive (by rw [State.fabricFormat, State.raise_core, core_takeWire])
    rw [if_pos hgood] at harrive
    refine ⟨fun hmode hhere => ?_, fun hmode hhere h r hpath => ?_, fun hmode hhere hpath => ?_,
      fun m hmode hm hports => ?_, fun e hmode he hb hp => ?_⟩
    · refine exec_arrival_asleep hk (harrive.trans (routeFlit_here hmode hhere)) ?_
      rw [rootIn_deliverLocal (by omega), core_takeWire]
    · rw [hpath, routeFlit_on hmode hhere] at harrive
      exact exec_arrival_asleep hk harrive (by rw [core_sendHop, core_takeWire])
    · rw [hpath, routeFlit_first hmode hhere] at harrive
      exact exec_arrival_asleep hk harrive (by rw [core_sendHop, core_takeWire])
    · exact exec_arrival hk (harrive.trans (routeFlit_multicast hmode hm hports))
    · exact exec_arrival hk (harrive.trans ((routeFlit_tree hmode).trans (treeArrival_expected he hb hp)))
  · exact ou (f := fun s => s.rootWake (s.reduceCombine k tree) k) hk
      (congrArg (s.rootWake · k) (reduceCombine_heads hrun he hne hfs hsame))
  · exact ou (f := fun s => s.mergeCombine k tree) hk (mergeCombine_lists hrun he hne hls hf hsame)

end Sys2Proof.Machine
end

section
/-! SUPPORT and SETTLED. Receives: one posted, one that lays its bytes again, one at a reduce root, and a landed message
copied to its receive (R64, R126, R127, R185 to R189). That a root waits for its whole message and that a copy does not wait
for earlier receives are the model's choices (notes/assumptions/67, 72). -/

namespace Sys2Proof.Machine

theorem State.coreTook_rep (s : State) (k : Site) : ((s.coreTook k).core k).rep = (s.core k).rep := by
  rw [State.coreTook_core]

theorem State.coreTook_rootFlits (s : State) (k : Site) (tree : Nat) :
    ((s.coreTook k).core k).rootFlits tree = (s.core k).rootFlits tree := by
  rw [State.coreTook_core]; rfl

theorem took_settled (s : State) (k : Site) (h : (s.core k).rest = true) :
    ((s.coreTook k).core k).idle ∧ ((s.coreTook k).core k).settled = true := by
  obtain ⟨hstream, haq, hvq, htq, hsettled, hheld, _⟩ := (Core.calm_iff _ _).mp (calm_took s k h)
  exact ⟨⟨hstream, haq, hvq, htq, hheld⟩, hsettled⟩

/-- A queue's instruction that leaves its queue and completes later, from its command. -/
theorem exec_later (s : State) (k : Site) (op : CoreOp) (w : BitVec 56) (i : Instr) (t : State) (h : s.coreIssues k op w = true)
    (hi : exec i s = onUnit k.ok s fun s => s.fetched k op w) (hq : op.queue ≠ .front)
    (hrun : runOp (s.coreTook k) k (s.coreEntry k op w) false = .later t) (hkept : (s.coreTook k).kept t k) :
    exec i s = .next (t.withQueueOf s) := by
  obtain ⟨hidle, hsettled⟩ := kept_settled _ _ _ hkept (took_settled s k (s.coreIssues_rest k op w h))
  rw [hi, onUnit_next (s.coreIssues_ok k op w h),
    fetched_acts s k op w t h hq (by rw [hrun]; rfl) hidle (State.promote_settled _ _ hsettled)]

/-! ### Receives of the landing buffers (R186, R188, R463) -/

/-- Store and address a receive copies to (R188). -/
def recvStore (e : QEntry) : Nat := if flag e.word 33 then 1 else 0
def recvAddr (e : QEntry) : Nat :=
  if recvStore e = 1 then (e.aReg (recvAdst e.word)).toNat else actAddr (e.aReg (recvAdst e.word))

/-- The receive that an FRECV posts as the `nth` of its step. -/
def recvPosted (e : QEntry) (nth : Nat) : Posted :=
  { kind := fld e.word 41 40, chan := recvChan e.word, sdst := recvStore e, dst := recvAddr e, tag := fld e.word 28 25
    asc := actAddr (e.aReg (fld e.word 24 21)), nf := recvNf e.word, entry := e, nth := nth, got := none }

/-- A core that goes on to its next receive. -/
def Core.nextRecv (c : Core) (nth : Nat) : Core := { c with rep := { c.rep with recvPos := nth + 1 } }

theorem takeLanded_empty (s : State) (k : Site) (n : Nat) (h : (s.core k).landing = []) : s.takeLanded k n = s := by
  cases n with
  | zero => rfl
  | succ n =>
    have hnext : (s.core k).nextLanding = none := by simp [Core.nextLanding, h]
    rw [State.takeLanded, hnext]
    split <;> rfl

section
variable {s : State} {k : Site} {e : QEntry} (hkind : fld e.word 41 40 < 2) (halign : recvStore e = 1 → recvAddr e % 64 = 0)
  (hwin : (s.core k).inWindow (recvStore e) (recvAddr e) (64 * recvNf e.word) = true)
include hkind halign hwin

theorem opFrecv_posts (hmemo : (s.core k).rep.memo.find? (fun m => m.1 == (s.core k).rep.recvPos) = none)
    (hposted : (s.core k).posted = []) (hland : (s.core k).landing = []) :
    opFrecv s k e false = .later (s.mapCore k fun c =>
      { c.nextRecv (s.core k).rep.recvPos with posted := [recvPosted e (s.core k).rep.recvPos] }) := by
  unfold recvAddr recvStore at halign hwin
  unfold opFrecv
  extract_lets c w nth sdst a dst p r t
  rw [if_neg (Nat.ne_of_lt hkind), if_neg (fun h => h.2 (halign h.1)), if_neg (by rw [hwin]; decide), hmemo]
  dsimp only
  have ht : t = s.mapCore k fun c => { c.nextRecv nth with posted := [recvPosted e nth] } := by
    show s.setCore k _ = s.setCore k _
    rw [hposted]
    rfl
  have hland' : (t.core k).landing = [] := by rw [ht, State.core_mapCore_same]; exact hland
  rw [if_neg (by simp [c, hposted]), takeLanded_empty _ _ _ hland', ht]

theorem opFrecv_again {m : Nat × RecvMemo} (hmemo : (s.core k).rep.memo.find? (fun m => m.1 == (s.core k).rep.recvPos) = some m)
    (herror : m.2.error = none) :
    opFrecv s k e false = .ok ((s.recvWrite k (s.core k).rep.recvPos (m.2.writes.map fun j => (j.store, j.addr, j.bytes))
      none).mapCore k fun c => c.nextRecv (s.core k).rep.recvPos) := by
  unfold recvAddr recvStore at halign hwin
  unfold opFrecv
  extract_lets c w nth sdst a dst p r t
  rw [if_neg (Nat.ne_of_lt hkind), if_neg (fun h => h.2 (halign h.1)), if_neg (by rw [hwin]; decide), hmemo]
  simp only [replayRecv, herror]
  rfl

end

theorem kept_nextRecv (s : State) (k : Site) (nth : Nat) : s.kept (s.mapCore k fun c => c.nextRecv nth) k :=
  State.kept_mapCore _ _ _ ⟨rfl, rfl, rfl, rfl, rfl, rfl, rfl, rfl⟩

/-! ### Receives at a reduce root (R64, R189) -/

/-- The first message of the tree that an FRECV names is whole at the root and as the FRECV expects it, no flit poisoned or
flagged. -/
structure Core.RootMessage (c : Core) (w : BitVec 56) (m : List Flit) : Prop where
  first : firstMessage (c.rootFlits (recvChan w)) = some m
  length : m.length = recvNf w
  op : ∀ f ∈ m, rOp f = fld w 13 11
  sound : ∀ f ∈ m, f.poisoned = false
  count : badCount (((c.tab.root (recvChan w)).map (·.contributors)).getD 0) m = none
  unflagged : ∀ f ∈ m, pNan f = false ∧ pOvf f = false

/-- The state with a message of the tree taken from the root's flits and written. -/
def State.rootTaken (s : State) (k : Site) (e : QEntry) (m : List Flit) : State :=
  (((s.redNumber k (recvChan e.word)).2.mapCore k fun c => { c with
    rootIn := c.rootIn.filter (fun f => !(rMode f == 2 && rChan f == recvChan e.word)) ++
      ((s.core k).rootFlits (recvChan e.word)).drop m.length }).recvWrite k (s.core k).rep.recvPos
        (m.map (redWrite (e.aReg (recvAdst e.word)).toNat (fld e.word 13 11))) none).mapCore k fun c =>
          c.nextRecv (s.core k).rep.recvPos

theorem kept_rootTaken (s : State) (k : Site) (e : QEntry) (m : List Flit) : s.kept (s.rootTaken k e m) k :=
  State.kept_trans (kept_redNumber ..)
    (State.kept_trans (State.kept_mapCore _ _ _ ⟨rfl, rfl, rfl, rfl, rfl, rfl, rfl, rfl⟩)
      (State.kept_trans (kept_recvWrite ..) (kept_nextRecv ..)))

theorem opFrecvRoot_whole {s : State} {k : Site} {e : QEntry} {m : List Flit}
    (hfit : (e.aReg (recvAdst e.word)).toNat + redLines (fld e.word 13 11) (recvNf e.word) ≤ 2048)
    (hmemo : (s.core k).rep.memo.find? (fun m => m.1 == (s.core k).rep.recvPos) = none)
    (honce : (s.redNumber k (recvChan e.word)).1 = false) (hm : (s.core k).RootMessage e.word m) :
    opFrecvRoot s k e false = .ok (s.rootTaken k e m) := by
  have hops : m.findIdx? (fun f => rOp f != fld e.word 13 11) = none := by
    simpa [List.findIdx?_eq_none_iff] using hm.op
  have hpoison : (m.any fun f => f.poisoned) = false := by simpa using hm.sound
  have hunflagged : (m.filter fun f => pNan f || pOvf f).length = 0 := by simpa using hm.unflagged
  unfold opFrecvRoot
  extract_lets c w tree op nf line nth fs n want
  have hwant : badCount want m = none := hm.count
  rw [if_neg (Nat.not_lt.mpr hfit), hmemo, hm.first]
  simp only [n, tree, w, honce, Bool.false_eq_true, if_false, List.append_nil, List.length_nil, List.drop_zero, Bool.false_and]
  rw [if_neg (by simp [nf, w, hm.length]), hops]
  simp only [hpoison, Bool.false_eq_true, if_false, hwant, hunflagged, if_true, Option.map_none]
  rfl

/-! ### FRECV, from its command -/

section
variable {s : State} {k : Site} {w : BitVec 56} (hissue : s.coreIssues k .frecv w = true)
include hissue

section
variable (hkind : fld w 41 40 < 2)
  (halign : recvStore (s.coreEntry k .frecv w) = 1 → recvAddr (s.coreEntry k .frecv w) % 64 = 0)
  (hwin : (s.core k).inWindow (recvStore (s.coreEntry k .frecv w)) (recvAddr (s.coreEntry k .frecv w)) (64 * recvNf w) = true)
include hkind halign hwin

theorem exec_frecv_posts (hmemo : (s.core k).rep.memo.find? (fun m => m.1 == (s.core k).rep.recvPos) = none) :
    exec (.frecv k w) s = .next (((s.coreTook k).mapCore k fun c => { c.nextRecv (s.core k).rep.recvPos with
      posted := [recvPosted (s.coreEntry k .frecv w) (s.core k).rep.recvPos] }).withQueueOf s) := by
  obtain ⟨-, -, -, -, -, hposted, hland, -⟩ := (Core.rest_iff _).mp (s.coreIssues_rest k .frecv w hissue)
  refine exec_later s k .frecv w _ _ hissue rfl (by decide) ?_ (State.kept_mapCore _ _ _ ⟨rfl, rfl, rfl, rfl, rfl, rfl, rfl, rfl⟩)
  rw [← State.coreTook_rep]
  exact opFrecv_posts hkind halign ((s.coreTook_inWindow ..).trans hwin) (by rw [State.coreTook_rep]; exact hmemo)
    (by rw [State.coreTook_core]; exact hposted) (by rw [State.coreTook_core]; exact hland)

theorem exec_frecv_again {m : Nat × RecvMemo} (hmemo : (s.core k).rep.memo.find? (fun m => m.1 == (s.core k).rep.recvPos) = some m)
    (herror : m.2.error = none) :
    exec (.frecv k w) s = .next (((((s.coreTook k).recvWrite k (s.core k).rep.recvPos
      (m.2.writes.map fun j => (j.store, j.addr, j.bytes)) none).mapCore k fun c => c.nextRecv (s.core k).rep.recvPos).complete
        k .transfer w).withQueueOf s) := by
  refine exec_queue s k .frecv w _ _ hissue rfl (by decide) ?_ (calm_of_kept s k _ (s.coreIssues_rest k .frecv w hissue)
    (State.kept_trans (kept_recvWrite ..) (kept_nextRecv ..)))
  rw [← State.coreTook_rep]
  exact opFrecv_again hkind halign ((s.coreTook_inWindow ..).trans hwin) (by rw [State.coreTook_rep]; exact hmemo) herror

end

theorem exec_frecv_root {m : List Flit} (hkind : fld w 41 40 = 2)
    (hfit : ((s.core k).areg (recvAdst w)).toNat + redLines (fld w 13 11) (recvNf w) ≤ 2048)
    (hmemo : (s.core k).rep.memo.find? (fun m => m.1 == (s.core k).rep.recvPos) = none)
    (honce : ((s.coreTook k).redNumber k (recvChan w)).1 = false) (hm : (s.core k).RootMessage w m) :
    exec (.frecv k w) s =
      .next ((((s.coreTook k).rootTaken k (s.coreEntry k .frecv w) m).complete k .transfer w).withQueueOf s) := by
  refine exec_queue s k .frecv w _ _ hissue rfl (by decide) ?_
    (calm_of_kept s k _ (s.coreIssues_rest k .frecv w hissue) (kept_rootTaken ..))
  refine (if_pos hkind).trans (opFrecvRoot_whole hfit ?_ honce ?_)
  · rw [State.coreTook_rep]; exact hmemo
  · rw [State.coreTook_core]; exact ⟨hm.first, hm.length, hm.op, hm.sound, hm.count, hm.unflagged⟩

end

/-! ### A landed message (R126, R185, R186) -/

/-- The state with a landed message copied to its receive and its buffer free. -/
def State.copied (s : State) (k : Site) (i : Nat) (m : Landing) (p : Posted) : State :=
  (s.mapCore k fun c => { c with landing := c.landing.eraseIdx i }).recvWrite k p.nth (p.writes m.flits) none

/-- Then the receive has its message, and the router delivers what it held for a free buffer. -/
def State.landed (s : State) (k : Site) (i : Nat) (m : Landing) (p : Posted) : State :=
  ((s.copied k i m p).mapCore k fun c => { c with posted := [{ p with got := some none }] }).drainHeld k

theorem waits_copied (s : State) (k : Site) (i : Nat) (m : Landing) (p : Posted) : s.waits (s.copied k i m p) k :=
  State.waits_trans (State.waits_mapCore _ _ _ ⟨⟨rfl, rfl, rfl, rfl, rfl, rfl, rfl, rfl⟩, rfl, rfl⟩) (waits_recvWrite ..)

theorem kept_landed (s : State) (k : Site) (i : Nat) (m : Landing) (p : Posted) : s.kept (s.landed k i m p) k :=
  State.kept_trans (waits_copied s k i m p).1
    (State.kept_trans (State.kept_mapCore _ _ _ ⟨rfl, rfl, rfl, rfl, rfl, rfl, rfl, rfl⟩) (waits_drainHeld ..).1)

theorem posted_landed (s : State) (k : Site) (i : Nat) (m : Landing) (p : Posted) :
    ((s.landed k i m p).core k).posted = [{ p with got := some none }] := by
  obtain ⟨-, hposted, -⟩ := waits_drainHeld ((s.copied k i m p).mapCore k fun c => { c with posted := [{ p with got := some none }] }) k
  rw [State.landed, hposted, State.core_mapCore_same]

/-- The one receive that has its message completes. -/
theorem completePosted_one {s : State} {k : Site} {p : Posted} (n : Nat) (h : (s.core k).posted = [p]) (hgot : p.got = some none) :
    s.completePosted k (n + 1) = (s.mapCore k fun c => { c with posted := [] }).complete k .transfer p.entry.word := by
  have hnone : (((s.mapCore k fun c => { c with posted := [] }).complete k .transfer p.entry.word).core k).posted = [] := by
    rw [posted_complete, State.core_mapCore_same]
  rw [State.completePosted]
  dsimp only
  rw [h]
  dsimp only
  rw [hgot]
  exact completePosted_none _ _ _ hnone

theorem takeLanding_one {s : State} {k : Site} {m : Landing} {p : Posted} {i : Nat} (hposted : (s.core k).posted = [p])
    (hd : s.debug = false) (hm : (s.core k).landing[i]? = some m) (hfault : p.fault m.flits = none)
    (hsound : m.flits.any (·.poisoned) = false) : s.takeLanding k i 0 = s.landed k i m p := by
  have hgot : ((s.copied k i m p).core k).posted.modify 0 (fun p => { p with got := some none }) = [{ p with got := some none }] := by
    obtain ⟨-, hkeep, -⟩ := waits_copied s k i m p
    rw [hkeep, hposted]
    rfl
  rw [takeLanding_ok s k m p i 0 hd hm (by rw [hposted]; rfl) hfault hsound]
  exact congrArg (fun l => ((s.copied k i m p).setCore k { (s.copied k i m p).core k with posted := l }).drainHeld k) hgot

/-- A landed message of the one posted receive is copied, the receive completes, and nothing more can move. -/
theorem takeLanded_one {s : State} {k : Site} {m : Landing} {p : Posted} {i : Nat} (n : Nat) (hposted : (s.core k).posted = [p])
    (hd : s.debug = false) (hstop : QueueId.transfer ∉ (s.core k).stopped) (hnext : (s.core k).nextLanding = some (i, 0))
    (hm : (s.core k).landing[i]? = some m) (hfault : p.fault m.flits = none) (hsound : m.flits.any (·.poisoned) = false) :
    s.takeLanded k (n + 1) = ((s.landed k i m p).mapCore k fun c => { c with posted := [] }).complete k .transfer p.entry.word := by
  rw [State.takeLanded, if_neg hstop, hnext]
  dsimp only
  rw [takeLanding_one hposted hd hm hfault hsound, completePosted_one 16 (posted_landed s k i m p) rfl]
  refine takeLanded_none _ _ _ ?_
  rw [posted_complete, State.core_mapCore_same]

theorem exec_messageLanded_one {s : State} {k : Site} {m : Landing} {p : Posted} {i : Nat} (hk : k.ok) (hrun : s.coreRuns k = true)
    (hidle : (s.core k).idle) (hposted : (s.core k).posted = [p]) (hd : s.debug = false) (hstop : QueueId.transfer ∉ (s.core k).stopped)
    (hnext : (s.core k).nextLanding = some (i, 0)) (hm : (s.core k).landing[i]? = some m) (hfault : p.fault m.flits = none)
    (hsound : m.flits.any (·.poisoned) = false) (htok : wSE p.entry.word = true → (s.core k).tok (wST p.entry.word) < 255) :
    exec (.messageLanded k) s = .next ((((s.landed k i m p).mapCore k fun c => { c with posted := [] }).complete k .transfer
      p.entry.word).withQueueOf s) := by
  have hkept : s.kept ((s.landed k i m p).mapCore k fun c => { c with posted := [] }) k :=
    State.kept_trans (kept_landed s k i m p) (State.kept_mapCore _ _ _ ⟨rfl, rfl, rfl, rfl, rfl, rfl, rfl, rfl⟩)
  obtain ⟨hstream, haq, hvq, htq, hheld, ht, -, -⟩ := hkept
  obtain ⟨istream, iaq, ivq, itq, iheld⟩ := hidle
  refine ou (f := fun s => if s.coreRuns k then (s.takeLanded k 5).pumpCore k else s) hk ((if_pos hrun).trans ?_)
  rw [takeLanded_one 4 hposted hd hstop hnext hm hfault hsound]
  refine pumpCore_idle _ k (idle_complete _ k _ _
    ⟨hstream.trans istream, haq.trans iaq, hvq.trans ivq, htq.trans itq, hheld.trans iheld⟩ fun hse => ?_)
  have hcount : (((s.landed k i m p).mapCore k fun c => { c with posted := [] }).core k).tok (wST p.entry.word) =
      (s.core k).tok (wST p.entry.word) := by simp only [Core.tok, ht]
  exact hcount.trans_lt (htok hse)

/-- Settles O20: FRECV by what its step's memo holds and by its kind; a landed message copied, its receive completed. -/
theorem receivesAndLanding : Obligations.ReceivesAndLanding := by
  refine ⟨⟨fun s k w hissue hkind halign hwin => ⟨?_, fun m hmemo herror => ?_⟩,
    fun s k w m hissue hkind hfit hmemo honce hmsg hlen hop hsound hcount hflags => ?_⟩,
    fun s k m p i hk hrun hidle hd hstop hposted hnext hm hfault hsound htok => ?_⟩
  · exact exec_frecv_posts hissue hkind halign hwin
  · exact exec_frecv_again hissue hkind halign hwin hmemo herror
  · have hexec := exec_frecv_root hissue hkind hfit hmemo honce ⟨hmsg, hlen, hop, hsound, hcount, hflags⟩
    unfold State.rootTaken at hexec
    rwa [State.coreTook_rep, State.coreTook_rootFlits] at hexec
  · exact exec_messageLanded_one hk hrun hidle hposted hd hstop hnext hm hfault hsound htok

end Sys2Proof.Machine
end

section
/-! SUPPORT and SETTLED. Rotations: VROT by an angle index, VROPE by a row's position (R97, R128 to R131, R172, R173, R270,
R271). -/

namespace Sys2Proof.Machine

/-! ### Blocks of registers (R128) -/

theorem Core.setVs_eq (c : Core) (v : Nat) (rs : List VReg) : ∃ u, c.setVs v rs = { c with v := u } := by
  unfold Core.setVs
  generalize rs.zipIdx = l
  induction l generalizing c with
  | nil => exact ⟨c.v, rfl⟩
  | cons x r ih => exact ih (c.setV (v + x.2) x.1)

theorem Core.calm_setVs {c d : Core} (v : Nat) (rs : List VReg) (h : c.calm d = true) : c.calm (d.setVs v rs) = true := by
  obtain ⟨u, hu⟩ := d.setVs_eq v rs
  rw [hu]
  exact h

theorem regsOf_succ (n : Nat) (xs : List Word) : regsOf (n + 1) xs = vregOf (xs.take 64) :: regsOf n (xs.drop 64) := by
  simp only [regsOf, List.range_succ_eq_map, List.map_cons, List.map_map, Nat.mul_zero, List.drop_zero]
  refine congrArg _ (List.map_congr_left fun i _ => ?_)
  simp only [Function.comp, List.drop_drop, Nat.succ_eq_add_one, Nat.mul_succ, Nat.add_comm]

theorem vregOf_getD (xs : List Word) {i : Nat} (h : i < 64) : (vregOf xs).toList.getD i 0#32 = xs.getD i 0#32 := by
  simp [vregOf, h]

/-- Words laid into registers read back as the block they came from. -/
theorem blockOf_regsOf_getD (n : Nat) (xs : List Word) (h : xs.length ≤ 64 * n) (i : Nat) :
    (blockOf (regsOf n xs)).getD i 0#32 = xs.getD i 0#32 := by
  induction n generalizing xs i with
  | zero => rw [List.eq_nil_of_length_eq_zero (by omega : xs.length = 0)]; rfl
  | succ n ih =>
    rw [regsOf_succ, blockOf, List.flatMap_cons]
    by_cases hi : i < 64
    · rw [List.getD_append _ _ _ _ (by simpa using hi), vregOf_getD _ hi]
      simp [List.getD_eq_getElem?_getD, hi]
    · rw [List.getD_append_right _ _ _ _ (by simpa using hi)]
      refine (ih (xs.drop 64) (by rw [List.length_drop]; omega) _).trans ?_
      simp only [Vector.length_toList, List.getD_eq_getElem?_getD, List.getElem?_drop]
      rw [Nat.add_sub_cancel' (by omega)]

/-- A rotary code reads its frequencies one by one (R271). -/
theorem rope_freqs_congr {fs gs : List Word} (h : ∀ i, gs.getD i 0#32 = fs.getD i 0#32) (inv lay : Bool) (hd n : Nat)
    (xs : List Word) : rope inv lay hd n gs xs = rope inv lay hd n fs xs := by
  simp only [rope, h]

/-! ### What VROT and VROPE do, and what their buddy recomputes (R172, R173, R472) -/

theorem State.coreTook_vregs (s : State) (k : Site) (v n : Nat) : ((s.coreTook k).core k).vregs v n = (s.core k).vregs v n := by
  rw [State.coreTook_core]; rfl

theorem State.coreTook_freqs (s : State) (k : Site) (a n : Nat) : ((s.coreTook k).core k).freqs a n = (s.core k).freqs a n := by
  rw [State.coreTook_core]; rfl

theorem State.coreTook_rowPos (s : State) (k : Site) (lt row : Nat) :
    ((s.coreTook k).core k).rowPos lt row = (s.core k).rowPos lt row := by
  rw [State.coreTook_core]; rfl

theorem State.coreTook_ltAddr (s : State) (k : Site) : (s.coreTook k).ltAddr = s.ltAddr := rfl

theorem Core.rowPos_lt (c : Core) (lt row : Nat) : c.rowPos lt row < 2 ^ 21 := Nat.mod_lt _ (Nat.two_pow_pos _)

theorem Core.freqs_length {c : Core} {a n : Nat} {fs : List Word} (h : c.freqs a n = some fs) : fs.length = n := by
  unfold Core.freqs at h
  dsimp only at h
  split at h
  · cases h
  · cases h; simp [wordsOf]

theorem opVrot_ok (s : State) (k : Site) (w : BitVec 56) (h : ((s.coreEntry k .vrot w).sReg (fld w 23 19)).toNat ≤ 65535) :
    ∃ m : DupMsg, m.agrees k ∧ opVrot (s.coreTook k) k (s.coreEntry k .vrot w) = .ok (((s.coreTook k).mapCore k fun c =>
      c.setVs (fld w 41 37) (rotRegs w (s.coreEntry k .vrot w) (c.vregs (fld w 36 32) (spanOf (fld w 31 30))))).dupNote k m) :=
  ⟨_, ⟨rfl, rfl⟩, if_neg (Nat.not_lt.mpr h)⟩

/-- A VROPE's message carries its position and frequencies, from which its buddy rotates again. -/
theorem DupMsg.recompute_vrope {m : DupMsg} {pos : Nat} {fs : List Word} (hop : m.entry.op = .vrope)
    (hold : m.old = vregOf [BitVec.ofNat 32 pos] :: regsOf 2 fs) (hpos : pos < 2 ^ 32) (hlen : fs.length ≤ 64 * 2) :
    m.recompute = (ropeRegs m.entry.word pos fs m.operands, 0) := by
  have hlane : (lane (vregOf [BitVec.ofNat 32 pos]) 0).toNat = pos := by
    rw [lane, vregOf_getD _ (by decide)]
    exact Nat.mod_eq_of_lt hpos
  simp only [DupMsg.recompute, hop, hold, List.getD_cons_zero, hlane, List.drop_one, List.tail_cons, ropeRegs,
    rope_freqs_congr (blockOf_regsOf_getD 2 fs hlen)]

theorem opVrope_ok (s : State) (k : Site) (w : BitVec 56) (fs : List Word) (hcode : fld w 22 21 < 3)
    (h : (s.core k).freqs (actAddr ((s.coreEntry k .vrope w).aReg (fld w 31 28))) (headSize (fld w 22 21) / 2) = some fs) :
    ∃ m : DupMsg, m.agrees k ∧ opVrope (s.coreTook k) k (s.coreEntry k .vrope w) = .ok (((s.coreTook k).mapCore k fun c =>
      c.setVs (fld w 41 37) (ropeRegs w ((s.core k).rowPos s.ltAddr ((s.coreEntry k .vrope w).sReg (fld w 27 23)).toNat) fs
        (c.vregs (fld w 36 32) (spanOf (fld w 22 21))))).dupNote k m) := by
  have hlen : fs.length ≤ 64 * 2 := by
    rw [Core.freqs_length h, headSize]
    have : 2 ^ fld w 22 21 ≤ 2 ^ 2 := Nat.pow_le_pow_right (by decide) (by omega)
    omega
  have hpos := (s.core k).rowPos_lt s.ltAddr ((s.coreEntry k .vrope w).sReg (fld w 27 23)).toNat
  have hword : (s.coreEntry k .vrope w).word = w := rfl
  unfold opVrope
  simp only [hword, State.coreTook_freqs, h, State.coreTook_rowPos, State.coreTook_ltAddr]
  exact ⟨_, ⟨rfl, DupMsg.recompute_vrope rfl rfl (Nat.lt_trans hpos (by decide)) hlen⟩, rfl⟩

/-- The words VROPE has name a head of one, two or four registers (R173). -/
theorem legalWord_vrope_code {w : BitVec 56} (h : legalWord .vrope w = true) : fld w 22 21 < 3 := by
  simp only [legalWord, regRange, Bool.and_eq_true, decide_eq_true_eq] at h
  exact h.2.1.1.1.1.1

theorem calm_mapCore_setVs (s : State) (k : Site) (v : Nat) (f : Core → List VReg) (h : (s.core k).rest = true) :
    (s.core k).calm (((s.coreTook k).mapCore k fun c => c.setVs v (f c)).core k) = true := by
  rw [State.core_mapCore_same]
  exact Core.calm_setVs _ _ (calm_took s k h)

/-- Settles O13: VROT and VROPE write the rotated registers, and their messages recompute to what they wrote. -/
theorem vectorRotate : Obligations.VectorRotate := by
  refine ⟨fun s k w h hangle => ?_, fun s k w fs h hfreqs => ?_⟩
  · exact endsAs_of_op s k .vrot w _ _ h rfl rfl (calm_mapCore_setVs s k _ _ (s.coreIssues_rest k _ w h)) (opVrot_ok s k w hangle)
  · obtain ⟨-, -, -, -, -, hlegal⟩ := (s.coreReady_iff k .vrope w).mp (s.coreIssues_ready k _ w h)
    exact endsAs_of_op s k .vrope w _ _ h rfl rfl (calm_mapCore_setVs s k _ _ (s.coreIssues_rest k _ w h))
      (opVrope_ok s k w fs (legalWord_vrope_code hlegal) hfreqs)

end Sys2Proof.Machine
end

section
/-! SUPPORT and SETTLED. Stores and host memory in canonical form: writes of a core, posted writes and event records keep
them so, and with them VST, XFILL and XMOV (R72, R73, R76, R168, R177, R178, R349). -/

namespace Sys2Proof.Machine

/-! ### VST, XFILL and XMOV as the writes they make (R168, R177, R178) -/

theorem stored_vst (s : State) (k : Site) (w : BitVec 56) (st a : Nat) (bs : List Byte) :
    (s.coreTook k).stored (if (s.core k).laneMask w = 0#64 then s.coreTook k else (s.coreTook k).jwrite k st a bs false) k :=
  State.stored_ite _ _ _ _ _ (State.stored_refl _ k) (stored_jwrite ..)

/-- A queue's instruction that only writes stores completes at once. -/
theorem exec_stored {s X : State} {k : Site} {op : CoreOp} {w : BitVec 56} {i : Instr} (h : s.coreIssues k op w = true)
    (hi : exec i s = onUnit k.ok s fun s => s.fetched k op w) (hq : op.queue ≠ .front)
    (hrun : runOp (s.coreTook k) k (s.coreEntry k op w) false = .ok X) (hx : (s.coreTook k).stored X k) :
    exec i s = .next ((X.complete k op.queue w).withQueueOf s) :=
  exec_queue s k op w i X h hi hq hrun (calm_of_stored s k X (s.coreIssues_rest k op w h) hx)

theorem exec_vst_ok {s : State} {k : Site} {w : BitVec 56} (h : s.coreIssues k .vst w = true) (hok : s.vmemOk k .vst w) :
    let x := vmemAcc (s.coreEntry k .vst w)
    exec (.vst k w) s = .next (((if (s.core k).laneMask w = 0#64 then s.coreTook k
      else (s.coreTook k).jwrite k x.1 x.2.1 ((List.range 64).flatMap fun i =>
        if s.active k w i then natLe (packWidth w) (lane ((s.core k).vreg (fld w 41 37)) i).toNat
        else (((s.core k).rd x.1 x.2.1 x.2.2).drop (packWidth w * i)).take (packWidth w)) false).complete
      k .vector w).withQueueOf s) :=
  exec_stored (op := .vst) h rfl (by decide) (opVst_ok s k w hok) (stored_vst ..)

theorem opXfill_ok {s : State} {k : Site} {e : QEntry} (hn : unitCount (xfillCount e) = true) (ha : (xfillDst e).2 % 32 = 0)
    (hwin : (s.core k).inWindow (xfillDst e).1 (xfillDst e).2 (32 * xfillCount e) = true) :
    opXfill s k e = .ok (State.fillUnits k (xfillDst e).1 (bytesOfWords (List.replicate 8 (e.sReg (fld e.word 30 26))))
      (xfillCount e) (xfillDst e).2 s) := by
  simp [opXfill, hn, ha, hwin]

theorem exec_xfill_ok {s : State} {k : Site} {w : BitVec 56} (h : s.coreIssues k .xfill w = true) :
    let e := s.coreEntry k .xfill w
    unitCount (xfillCount e) = true → (xfillDst e).2 % 32 = 0 →
    (s.core k).inWindow (xfillDst e).1 (xfillDst e).2 (32 * xfillCount e) = true →
    exec (.xfill k w) s = .next (((State.fillUnits k (xfillDst e).1
      (bytesOfWords (List.replicate 8 ((s.core k).sreg (fld w 30 26)))) (xfillCount e) (xfillDst e).2
      (s.coreTook k)).complete k .transfer w).withQueueOf s) := by
  intro e hn ha hwin
  exact exec_stored (op := .xfill) h rfl (by decide) (opXfill_ok hn ha (by rw [State.coreTook_inWindow]; exact hwin))
    (stored_fillUnits ..)

theorem opXmov_ok {s : State} {k : Site} {e : QEntry} (hn : unitCount (xmovCount e) = true) (hsrc : (xmovSrc e).2 % 32 = 0)
    (hdst : (xmovDst e).2 % 32 = 0) (hsw : (s.core k).inWindow (xmovSrc e).1 (xmovSrc e).2 (32 * xmovCount e) = true)
    (hdw : (s.core k).inWindow (xmovDst e).1 (xmovDst e).2 (32 * xmovCount e) = true) :
    opXmov s k e = .ok (State.copyUnits k (xmovSrc e).1 (xmovSrc e).2 (xmovDst e).1 (xmovDst e).2 (xmovCount e) s) := by
  simp [opXmov, hn, hsrc, hdst, hsw, hdw]

theorem exec_xmov_ok {s : State} {k : Site} {w : BitVec 56} (h : s.coreIssues k .xmov w = true) :
    let e := s.coreEntry k .xmov w
    unitCount (xmovCount e) = true → (xmovSrc e).2 % 32 = 0 → (xmovDst e).2 % 32 = 0 →
    (s.core k).inWindow (xmovSrc e).1 (xmovSrc e).2 (32 * xmovCount e) = true →
    (s.core k).inWindow (xmovDst e).1 (xmovDst e).2 (32 * xmovCount e) = true →
    exec (.xmov k w) s = .next (((State.copyUnits k (xmovSrc e).1 (xmovSrc e).2 (xmovDst e).1 (xmovDst e).2 (xmovCount e)
      (s.coreTook k)).complete k .transfer w).withQueueOf s) := by
  intro e hn hsrc hdst hsw hdw
  exact exec_stored (op := .xmov) h rfl (by decide) (opXmov_ok hn hsrc hdst (by rw [State.coreTook_inWindow]; exact hsw)
    (by rw [State.coreTook_inWindow]; exact hdw)) (stored_copyUnits ..)

/-! ### Host memory through an event record (R347, R349, R480) -/

/-- The host's memory is in canonical form. -/
def State.hostOk (s : State) : Prop := Mem.wf s.hostMem

theorem hostOk_ite {t u : State} (p : Prop) [Decidable p] (h1 : t.hostOk) (h2 : u.hostOk) : (if p then t else u).hostOk := by
  split
  · exact h1
  · exact h2

theorem hostOk_foldl {α : Type} {f : State → α → State} (h : ∀ (s : State) (x : α), s.hostOk → (f s x).hostOk)
    (l : List α) {s : State} (hs : s.hostOk) : (l.foldl f s).hostOk := by
  induction l generalizing s with
  | nil => exact hs
  | cons x r ih => exact ih (h s x hs)

theorem hostOk_hostWrite {s : State} (f a : Nat) (bs : List Byte) (h : s.hostOk) : (s.hostWrite f a bs).hostOk :=
  hostOk_ite _ (Mem.write_wf _ _ _ h) h

theorem hostMem_logEvent (s : State) (e : Event) : (s.logEvent e).hostMem = s.hostMem := by
  unfold State.logEvent
  dsimp only
  split
  · rfl
  · split
    · rfl
    · split <;> rfl

theorem hostOk_logEvent {s : State} (e : Event) (h : s.hostOk) : (s.logEvent e).hostOk := by
  rw [State.hostOk, hostMem_logEvent]
  exact h

theorem hostOk_takeEvent {s : State} (e : Event) (h : s.hostOk) : (s.takeEvent e).hostOk := hostOk_ite _ h h

theorem hostOk_sendMsi {s : State} (f v : Nat) (now : Bool) (h : s.hostOk) : (s.sendMsi f v now).hostOk :=
  hostOk_ite _ h (hostOk_ite _ (hostOk_ite _ h h) h)

theorem hostOk_putEventRing {s : State} (f : Nat) (e : Event) (h : s.hostOk) : (s.putEventRing f e).hostOk :=
  hostOk_ite _ (hostOk_sendMsi _ _ _ (hostOk_hostWrite _ _ _ h)) h

theorem hostOk_deliver (n : Nat) {s : State} (e : Event) (h : s.hostOk) : (State.deliver n s e).hostOk := by
  induction n generalizing s e with
  | zero => exact h
  | succ n ih =>
    refine hostOk_foldl (fun s f hs => hostOk_ite _ ?_ hs) _ (hostOk_takeEvent e (hostOk_logEvent e h))
    exact hostOk_putEventRing _ _ (hostOk_ite _ (ih _ hs) hs)

theorem hostOk_fatalStop {s : State} (e : Event) (h : s.hostOk) : (s.fatalStop e).hostOk := hostOk_ite _ h h

theorem hostOk_record {s : State} (e : Ev) (h : s.hostOk) : (s.record e).hostOk :=
  hostOk_fatalStop _ (hostOk_deliver 2 _ h)

theorem hostOk_retire {s : State} (k : Site) (r : Bool) (h : s.hostOk) : (s.retire k r).hostOk :=
  hostOk_ite _ (hostOk_record _ h) (hostOk_ite _ (hostOk_record _ h) (hostOk_record _ h))

theorem hostOk_observe {s : State} (k : Site) (r : Bool) (n : Nat) (h : s.hostOk) : (s.observe k r n).hostOk :=
  hostOk_ite _ (hostOk_retire _ _ h) (hostOk_ite _ (hostOk_record _ h) (hostOk_record _ h))

theorem hostOk_raise {s : State} (e : Ev) (h : s.hostOk) : (s.raise e).hostOk := by
  have hrec := hostOk_record e h
  unfold State.raise
  extract_lets ev s1
  refine hostOk_ite _ ?_ hrec
  split
  · exact hrec
  · extract_lets s2 recent n
    have h2 : s2.hostOk := hostOk_ite _ (hostOk_observe _ _ _ hrec) hrec
    exact hostOk_ite _ (hostOk_ite _ (hostOk_observe _ _ _ h2) h2) h2

/-! ### The stores of a core (R73, R274, R459 to R461) -/

/-- Every store of a core is in canonical form. -/
def Core.canonical (c : Core) : Prop := ∀ st ≤ 3, Mem.wf (c.mem st)

theorem Core.canonical_of_sameRegs {c d : Core} (h : c.sameRegs d) (hc : c.canonical) : d.canonical := by
  obtain ⟨-, -, -, -, hact, hwgt, hpsum, hinst⟩ := h
  intro st hst
  have := hc st hst
  unfold Core.mem at this ⊢
  rwa [hact, hwgt, hpsum, hinst]

theorem Core.mem_setMem_cases (c : Core) (st st' : Nat) (m : Mem) :
    (c.setMem st m).mem st' = m ∨ (c.setMem st m).mem st' = c.mem st' := by
  unfold Core.setMem Core.mem
  split <;> split <;> simp

theorem Core.canonical_setMem {c : Core} {m : Mem} (st : Nat) (h : c.canonical) (hm : Mem.wf m) : (c.setMem st m).canonical := by
  intro st' hst'
  rcases c.mem_setMem_cases st st' m with e | e <;> rw [e]
  · exact hm
  · exact h st' hst'

theorem Core.mem_wf {c : Core} (h : c.canonical) (st : Nat) : Mem.wf (c.mem st) := by
  match st with
  | 0 => exact h 0 (by decide)
  | 1 => exact h 1 (by decide)
  | 2 => exact h 2 (by decide)
  | _ + 3 => exact h 3 (by decide)

theorem Core.canonical_wrRaw {c : Core} (st a : Nat) (bs : List Byte) (h : c.canonical) : (c.wrRaw st a bs).canonical := by
  intro st' hst'
  rw [Core.wrRaw_mem]
  split
  · exact Core.canonical_setMem st h (Mem.write_wf _ _ _ (Core.mem_wf h st)) st' hst'
  · exact Core.canonical_setMem st h (Mem.write_wf _ _ _ (Mem.write_wf _ _ _ (Core.mem_wf h st))) st' hst'

/-! ### The whole state -/

theorem canonical_core {s : State} (h : Canonical s) (k : Site) : (s.core k).canonical := h.2 k

theorem canonical_of_fields {s t : State} (h : Canonical s) (hh : t.hostMem = s.hostMem) (hc : t.cores = s.cores) :
    Canonical t := by
  refine ⟨by rw [hh]; exact h.1, fun k => ?_⟩
  rw [State.core_of_cores s t k hc]
  exact h.2 k

theorem canonical_setCore {s : State} {c : Core} (k : Site) (h : Canonical s) (hc : c.canonical) : Canonical (s.setCore k c) := by
  refine ⟨h.1, fun j => ?_⟩
  by_cases hj : j = k
  · subst hj; rw [State.core_setCore_same]; exact hc
  · rw [State.core_setCore_other _ _ _ _ hj]; exact h.2 j

/-- A change to a core's bookkeeping alone. -/
theorem canonical_mapCore {s : State} {k : Site} {f : Core → Core} (h : Canonical s) (hf : (s.core k).sameRegs (f (s.core k))) :
    Canonical (s.mapCore k f) := canonical_setCore k h (Core.canonical_of_sameRegs hf (canonical_core h k))

theorem canonical_ite {t u : State} (p : Prop) [Decidable p] (h1 : Canonical t) (h2 : Canonical u) :
    Canonical (if p then t else u) := by
  split
  · exact h1
  · exact h2

theorem canonical_foldl {α : Type} {f : State → α → State} (h : ∀ (s : State) (x : α), Canonical s → Canonical (f s x))
    (l : List α) {s : State} (hs : Canonical s) : Canonical (l.foldl f s) := by
  induction l generalizing s with
  | nil => exact hs
  | cons x r ih => exact ih (h s x hs)

theorem canonical_hostWrite {s : State} (f a : Nat) (bs : List Byte) (h : Canonical s) : Canonical (s.hostWrite f a bs) := by
  have hcores : (s.hostWrite f a bs).cores = s.cores := by rw [reported_hostWrite s f a bs]
  refine ⟨hostOk_hostWrite f a bs h.1, fun k => ?_⟩
  rw [State.core_of_cores _ _ k hcores]
  exact h.2 k

theorem canonical_raise {s : State} (e : Ev) (h : Canonical s) : Canonical (s.raise e) := by
  refine ⟨hostOk_raise e h.1, fun k => ?_⟩
  rw [State.raise_core]
  exact h.2 k

theorem canonical_sendGuard {s : State} (k : Site) (f off : Nat) (old new : List Byte) (h : Canonical s) :
    Canonical (s.sendGuard k f off old new) := by
  unfold State.sendGuard
  split
  · exact h
  · exact canonical_ite _ h (canonical_mapCore (canonical_of_fields h rfl rfl) ⟨rfl, rfl, rfl, rfl, rfl, rfl, rfl, rfl⟩)

theorem canonical_putBytes {s : State} (k : Site) (st a : Nat) (bs : List Byte) (h : Canonical s) :
    Canonical (s.putBytes k st a bs) := by
  have hraw := canonical_setCore k h (Core.canonical_wrRaw st a bs (canonical_core h k))
  unfold State.putBytes
  refine canonical_ite _ hraw ?_
  split
  · exact hraw
  · exact canonical_foldl (fun s i hs => canonical_sendGuard k _ _ _ _ hs) _ hraw

theorem canonical_journalAdd {s : State} (k : Site) (j : JEntry) (h : Canonical s) : Canonical (s.journalAdd k j) := by
  have hk := canonical_core h k
  unfold State.journalAdd
  refine canonical_ite _ h (canonical_ite _ ?_ ?_)
  · have hfull := canonical_setCore (c := { s.core k with rep := { (s.core k).rep with unreplayable := true } }) k h hk
    exact canonical_ite _ hfull (canonical_raise _ (canonical_of_fields hfull rfl rfl))
  · refine canonical_setCore k h ?_
    show Core.canonical (if _ then _ else _)
    split
    · exact Core.canonical_wrRaw _ _ _ hk
    · exact hk

theorem canonical_jwrite {s : State} (k : Site) (st a : Nat) (bs : List Byte) (redo : Bool) (h : Canonical s) :
    Canonical (s.jwrite k st a bs redo) := by
  unfold State.jwrite
  extract_lets z a' secs s1 s2
  have hadd : ∀ (u : State) (j : JEntry), Canonical u → Canonical (u.journalAdd k j) := fun _ j => canonical_journalAdd k j
  have h1 : Canonical s1 := canonical_ite _ (canonical_foldl (fun u x hu => canonical_ite _ hu (hadd u _ hu)) _ h) h
  have h2 : Canonical s2 := canonical_putBytes k st a' bs h1
  exact canonical_ite _ (canonical_foldl (fun u x hu => hadd u _ hu) _ h2) h2

/-! ### Instructions that write -/

theorem canonical_coreTook {s : State} (k : Site) (h : Canonical s) : Canonical (s.coreTook k) :=
  canonical_mapCore h ⟨rfl, rfl, rfl, rfl, rfl, rfl, rfl, rfl⟩

theorem canonical_complete {s : State} (k : Site) (q : QueueId) (w : BitVec 56) (h : Canonical s) :
    Canonical (s.complete k q w) := by
  unfold State.complete
  refine canonical_ite _ (canonical_mapCore (canonical_ite _ ?_ h) (Core.sameRegs_signal ..)) h
  exact canonical_mapCore h ⟨rfl, rfl, rfl, rfl, rfl, rfl, rfl, rfl⟩

theorem canonical_copyUnits {s : State} (k : Site) (sa a sb b n : Nat) (h : Canonical s) :
    Canonical (State.copyUnits k sa a sb b n s) := by
  induction n generalizing s a b with
  | zero => exact h
  | succ n ih => exact ih _ _ (canonical_jwrite k _ _ _ _ h)

theorem canonical_fillUnits {s : State} (k : Site) (st a n : Nat) (u : List Byte) (h : Canonical s) :
    Canonical (State.fillUnits k st u n a s) := by
  induction n generalizing s a with
  | zero => exact h
  | succ n ih => exact ih _ (canonical_jwrite k _ _ _ _ h)

/-- What a completed instruction of a core answers is canonical if what it has written is. -/
theorem canonical_of_exec {s t X : State} {k : Site} {q : QueueId} {w : BitVec 56} {i : Instr} (ht : exec i s = .next t)
    (hi : exec i s = .next ((X.complete k q w).withQueueOf s)) (hX : Canonical X) : Canonical t := by
  obtain rfl := Host.Outcome.next.inj (ht.symm.trans hi)
  exact canonical_complete k q w hX

/-- Settles O6: each write keeps every memory canonical, and the instructions are writes. -/
theorem canonicalMemories : Obligations.CanonicalMemories := by
  refine ⟨fun s k st a bs redo => canonical_jwrite k st a bs redo, fun s f a bs => canonical_hostWrite f a bs,
    fun s t k w hs h hok ht => ?_, fun s t k w hs h hn ha hwin ht => ?_, fun s t k w hs h hn hsrc hdst hsw hdw ht => ?_⟩
  · exact canonical_of_exec ht (exec_vst_ok h hok)
      (canonical_ite _ (canonical_coreTook k hs) (canonical_jwrite k _ _ _ _ (canonical_coreTook k hs)))
  · exact canonical_of_exec ht (exec_xfill_ok h hn ha hwin) (canonical_fillUnits k _ _ _ _ (canonical_coreTook k hs))
  · exact canonical_of_exec ht (exec_xmov_ok h hn hsrc hdst hsw hdw) (canonical_copyUnits k _ _ _ _ _ (canonical_coreTook k hs))

end Sys2Proof.Machine
end

section
/-! SUPPORT and SETTLED. Tiles: ALOAD, the arrival of its tile, ADRAIN, and the idle array's ramp (R88, R90, R143 to R146,
R152). -/

namespace Sys2Proof.Machine

/-! ### Loads (R143 to R145) -/

theorem Core.settled_of_inflight_none {c : Core} (h : c.inflight = none) : c.settled = true := by
  simp [Core.settled, h]

theorem Core.settled_of_tile_none {c : Core} {fl : Flight} (h : c.inflight = some fl) (ht : fl.tile = none) : c.settled = true := by
  simp [Core.settled, h, ht]

theorem Core.settled_of_shadow {c : Core} (h : c.shadow.isSome = true) : c.settled = true := by
  simp [Core.settled, h]

theorem opAload_ok {s : State} {k : Site} {e : QEntry} {m : TileMode} {addr : Nat} (hm : tileMode (fld e.word 21 18) = m)
    (haddr : ((e.aReg (fld e.word 41 38)).toNat + 512 * fld e.word 37 22) % 2 ^ 24 = addr) (hfree : (s.core k).inflight = none)
    (halign : addr % m.sourceBytes = 0) (hwin : (s.core k).inWindow 1 addr m.sourceBytes = true) :
    opAload s k e = .later (s.mapCore k fun c => { c with inflight := some ⟨e, addr, m, none⟩ }) := by
  simp only [opAload, hm, haddr, hfree, halign, hwin, Option.isSome_none, Bool.false_eq_true, if_false, ne_eq,
    not_true_eq_false, Bool.not_true]
  rfl

theorem exec_aload_ok {s : State} {k : Site} {w : BitVec 56} {addr : Nat} (h : s.coreIssues k .aload w = true)
    (hfree : (s.core k).inflight = none)
    (haddr : (((s.core k).areg (fld w 41 38)).toNat + 512 * fld w 37 22) % 2 ^ 24 = addr)
    (halign : addr % (tileMode (fld w 21 18)).sourceBytes = 0)
    (hwin : (s.core k).inWindow 1 addr (tileMode (fld w 21 18)).sourceBytes = true) :
    exec (.aload k w) s = .next (((s.coreTook k).mapCore k fun c =>
      { c with inflight := some ⟨s.coreEntry k .aload w, addr, tileMode (fld w 21 18), none⟩ }).withQueueOf s) := by
  obtain ⟨⟨hstream, haq, hvq, htq, hheld⟩, -⟩ := took_settled s k (s.coreIssues_rest k _ w h)
  have hrun := opAload_ok (s := s.coreTook k) (k := k) (e := s.coreEntry k .aload w) rfl haddr
    (by rw [State.coreTook_core]; exact hfree) halign (by rw [State.coreTook_inWindow]; exact hwin)
  refine ou (f := fun s => s.fetched k .aload w) (s.coreIssues_ok k _ w h)
    (fetched_acts s k .aload w _ h (by decide) ?_ ?_ (State.promote_settled _ _ ?_))
  · exact congrArg (finish (s.coreTook k) k .array (s.coreEntry k .aload w)) hrun
  · rw [State.core_mapCore_same]
    exact ⟨hstream, haq, hvq, htq, hheld⟩
  · rw [State.core_mapCore_same]
    exact Core.settled_of_tile_none rfl rfl

/-! ### Arrivals (R143, R146) -/

/-- A tile whose source's parity is sound, or is ignored, arrives. -/
theorem tileArrival_sound {s : State} {k : Site} {fl : Flight} (hrun : s.coreRuns k = true) (hfl : (s.core k).inflight = some fl)
    (htile : fl.tile = none)
    (hsound : (s.core k).rep.lossMode = true ∨ (s.core k).badIn 1 fl.addr fl.mode.sourceBytes = none) :
    s.tileArrival k = (s.tileArrives k).pumpCore k := by
  have hbad : (if (s.core k).rep.lossMode then none else (s.core k).badIn 1 fl.addr fl.mode.sourceBytes) = none := by
    rcases hsound with hloss | hnone
    · rw [if_pos hloss]
    · rw [hnone, ite_self]
  simp only [State.tileArrival, hrun, hfl, htile, hbad, Bool.not_true, Bool.false_eq_true, if_false, Option.isSome_none]

section
variable {s : State} {k : Site} {fl : Flight} {t : Tile}

theorem promote_some (hfl : (s.core k).inflight = some fl) (htile : fl.tile = some t) (hfree : (s.core k).shadow = none) :
    s.promote k = (s.mapCore k fun c => { c with shadow := some t, inflight := none }).complete k .array fl.entry.word := by
  simp only [State.promote, hfl, hfree, htile]
  rfl

theorem tileArrives_shadow_free (hfl : (s.core k).inflight = some fl) (htile : fl.tile = none)
    (hload : loadTile fl.mode fl.addr ((s.core k).rd 1 fl.addr fl.mode.sourceBytes) = some t) (hfree : (s.core k).shadow = none) :
    s.tileArrives k =
      (s.mapCore k fun c => { c with shadow := some t, inflight := none }).complete k .array fl.entry.word := by
  simp only [State.tileArrives, hfl, htile, hload, Option.isSome_none, Bool.false_eq_true, if_false]
  rw [promote_some (fl := { fl with tile := some t }) (t := t) (by rw [State.core_setCore_same]) rfl
    (by rw [State.core_setCore_same]; exact hfree)]
  simp only [State.mapCore_eq, State.core_setCore_same, State.setCore_setCore]

theorem tileArrives_shadow_taken (hfl : (s.core k).inflight = some fl) (htile : fl.tile = none)
    (hload : loadTile fl.mode fl.addr ((s.core k).rd 1 fl.addr fl.mode.sourceBytes) = some t)
    (htaken : (s.core k).shadow.isSome = true) :
    s.tileArrives k = s.mapCore k fun c => { c with inflight := some { fl with tile := some t } } := by
  simp only [State.tileArrives, hfl, htile, hload, Option.isSome_none, Bool.false_eq_true, if_false]
  exact State.promote_settled _ _ (by rw [State.core_setCore_same]; exact Core.settled_of_shadow htaken)

theorem tileArrives_refused (hfl : (s.core k).inflight = some fl) (htile : fl.tile = none)
    (hload : loadTile fl.mode fl.addr ((s.core k).rd 1 fl.addr fl.mode.sourceBytes) = none) :
    s.tileArrives k = (s.mapCore k fun c => { c with inflight := none }).illegal k .array fl.entry := by
  simp only [State.tileArrives, hfl, htile, hload, Option.isSome_none, Bool.false_eq_true, if_false]
  rfl

end

theorem core_illegal (s : State) (k : Site) (q : QueueId) (e : QEntry) :
    (s.illegal k q e).core k = (s.stopQueue k q).core k := State.raise_core ..

theorem idle_illegal {s : State} {k : Site} (q : QueueId) (e : QEntry) (h : (s.core k).idle) : ((s.illegal k q e).core k).idle := by
  rw [core_illegal, State.stopQueue, State.core_mapCore_same]
  exact h

/-- An arrival after which the core has nothing to move is all there is. -/
theorem exec_tileArrival {s u : State} {k : Site} {fl : Flight} (hk : k.ok) (hrun : s.coreRuns k = true)
    (hfl : (s.core k).inflight = some fl) (htile : fl.tile = none)
    (hsound : (s.core k).rep.lossMode = true ∨ (s.core k).badIn 1 fl.addr fl.mode.sourceBytes = none)
    (hu : s.tileArrives k = u) (hidle : (u.core k).idle) : exec (.tileArrival k) s = .next (u.withQueueOf s) := by
  refine ou (f := fun s => s.tileArrival k) hk ?_
  rw [tileArrival_sound hrun hfl htile hsound, hu, pumpCore_idle u k hidle]

/-! ### ADRAIN and the idle array (R90, R152) -/

theorem opAdrain_ok {s : State} {k : Site} {e : QEntry} (hfree : (s.core k).inflight = none) :
    opAdrain s k e = .ok (s.mapCore k fun c => { c with
      cols := if flag e.word 41 then (s.panel k.panel).ballast else c.cols
      active := if flag e.word 40 then none else c.active
      shadow := if flag e.word 40 then none else c.shadow }) := by
  have hwait : ¬(s.core k).inflight.isSome = true := by rw [hfree]; decide
  refine (if_neg hwait).trans ?_
  cases flag e.word 41 <;> cases flag e.word 40 <;> rfl

theorem exec_adrain_ok {s : State} {k : Site} {w : BitVec 56} (h : s.coreIssues k .adrain w = true)
    (hfree : (s.core k).inflight = none) :
    exec (.adrain k w) s = .next ((((s.coreTook k).mapCore k fun c => { c with
      cols := if flag w 41 then (s.panel k.panel).ballast else c.cols
      active := if flag w 40 then none else c.active
      shadow := if flag w 40 then none else c.shadow }).complete k .array w).withQueueOf s) := by
  have hfree' : ((s.coreTook k).core k).inflight = none := by rw [State.coreTook_core]; exact hfree
  obtain ⟨hstream, haq, hvq, htq, -, hheld, ht⟩ := (Core.calm_iff _ _).mp (calm_took s k (s.coreIssues_rest k _ w h))
  refine exec_queue s k .adrain w _ _ h rfl (by decide) (opAdrain_ok hfree') ?_
  rw [State.core_mapCore_same, Core.calm_iff]
  exact ⟨hstream, haq, hvq, htq, Core.settled_of_inflight_none hfree', hheld, ht⟩

theorem exec_arrayIdle {s : State} {k : Site} (hk : k.ok) (hrun : s.coreRuns k = true) :
    exec (.arrayIdle k) s = .next ((s.mapCore k fun c => { c with cols := (s.panel k.panel).ballast }).withQueueOf s) :=
  ou (f := fun s => if s.coreRuns k then s.mapCore k fun c => { c with cols := (s.panel k.panel).ballast } else s) hk
    (if_pos hrun)

/-- Settles O16: ALOAD, the three ways a tile arrives, ADRAIN and ARRAY_IDLE. -/
theorem tilesAndDrain : Obligations.TilesAndDrain := by
  refine ⟨⟨fun s k w h hfree halign hwin => exec_aload_ok h hfree rfl halign hwin,
      fun s k fl t hk hrun hidle hfl htile hsound hload => ⟨fun hfree htok => ?_, fun htaken => ?_⟩,
      fun s k fl hk hrun hidle hfl htile hsound hload => ?_⟩,
    fun s k w h hfree => exec_adrain_ok h hfree, fun s k hk hrun => exec_arrayIdle hk hrun⟩
  · refine exec_tileArrival hk hrun hfl htile hsound (tileArrives_shadow_free hfl htile hload hfree) (idle_complete _ k _ _ ?_ ?_)
    · rw [State.core_mapCore_same]; exact hidle
    · rw [State.core_mapCore_same]; exact htok
  · refine exec_tileArrival hk hrun hfl htile hsound (tileArrives_shadow_taken hfl htile hload htaken) ?_
    rw [State.core_mapCore_same]; exact hidle
  · refine exec_tileArrival hk hrun hfl htile hsound (tileArrives_refused hfl htile hload) (idle_illegal _ _ ?_)
    rw [State.core_mapCore_same]; exact hidle

end Sys2Proof.Machine
end

section
/-! SUPPORT and SETTLED. Streams: ASTRM against the shadow or the active tile, ASTRC against a pair of tiles, and the frame of
ASTRM (R80, R85 to R87, R93, R94, R147 to R151). -/

namespace Sys2Proof.Machine

/-! ### ASTRM (R147 to R149) -/

/-- An ASTRM with no tile in flight whose operands, scales and checksums are in order, against a tile. -/
structure Core.StreamOk (c : Core) (e : QEntry) (tile : Tile) : Prop where
  legal : streamLegal e = true
  fits : fld e.word 28 18 + (e.sReg (fld e.word 33 29)).toNat ≤ 2048
  free : c.inflight = none
  against : (c.shadow <|> c.active) = some tile
  format : fld e.word 17 16 < 2 → tile.mode.isFloat = false
  scales : ∀ t < (e.sReg (fld e.word 33 29)).toNat, (c.streamRow e t).2.isSome = true
  sums : ∀ t < (e.sReg (fld e.word 33 29)).toNat, rowFails tile (c.streamRow e t).1 = false

/-- The core that streams: the tile is the active one, and the array runs at all its columns (R90, R149). -/
def State.streaming (s : State) (k : Site) (tile : Tile) : State :=
  s.mapCore k fun c => { c with active := some tile, shadow := none, cols := 64 }

/-- The core with the rows of an ASTRM accumulated on their lines, as core `c` held them (R148). -/
def State.streamed (s : State) (k : Site) (c : Core) (e : QEntry) (tile : Tile) : State :=
  (List.range (e.sReg (fld e.word 33 29)).toNat).foldl (fun u t => u.writeRow k (fld e.word 28 18 + t) (fld e.word 17 16) tile
    (c.streamRow e t).1 ((c.streamRow e t).2.getD 0) (c.vreg (fld e.word 15 11))) (s.streaming k tile)

theorem stored_streamed (s : State) (k : Site) (c : Core) (e : QEntry) (tile : Tile) :
    (s.streaming k tile).stored (s.streamed k c e tile) k :=
  State.stored_foldl k _ (fun _ _ => stored_writeRow ..) _ _

/-- The tile a stream multiplies by is the active one from then on (R149). -/
theorem streaming_eq {s : State} {k : Site} {tile : Tile} (hfree : (s.core k).inflight = none)
    (htile : ((s.core k).shadow <|> (s.core k).active) = some tile) :
    ((if (s.core k).shadow.isSome then (s.setCore k { s.core k with active := some tile, shadow := none }).promote k
      else s).mapCore k fun c => { c with cols := 64 }) = s.streaming k tile := by
  cases hshadow : (s.core k).shadow with
  | some x =>
    rw [if_pos Option.isSome_some, State.promote_settled _ _
      (Core.settled_of_inflight_none (by rw [State.core_setCore_same]; exact hfree))]
    simp only [State.streaming, State.mapCore_eq, State.core_setCore_same, State.setCore_setCore]
  | none =>
    have hactive : (s.core k).active = some tile := by rw [hshadow] at htile; exact htile
    rw [if_neg (by decide), State.streaming, State.mapCore_eq, State.mapCore_eq, ← hactive, ← hshadow]

theorem opAstrm_ok {s : State} {k : Site} {e : QEntry} {tile : Tile} (h : (s.core k).StreamOk e tile) :
    opAstrm s k e false = .ok (s.streamed k (s.core k) e tile) := by
  obtain ⟨hlegal, hfits, hfree, htile, hformat, hscales, hsums⟩ := h
  have hmatch : (if (s.core k).shadow.isSome then (s.core k).shadow else (s.core k).active) = some tile := by
    rw [← htile]
    cases (s.core k).shadow <;> rfl
  have hfloat : ¬(fld e.word 17 16 < 2 && tile.mode.isFloat) = true := by
    simpa using hformat
  have hrows := streamRows_ok k e tile ((s.core k).vreg (fld e.word 15 11)) (fld e.word 17 16) false (s.core k)
    (e.sReg (fld e.word 33 29)).toNat 0 (s.streaming k tile) (by rw [State.streaming, State.core_mapCore_same])
    (by simpa only [Nat.zero_add] using hscales) (by simpa only [Nat.zero_add] using hsums)
  simp only [Nat.zero_add] at hrows
  unfold opAstrm
  dsimp only
  rw [if_neg (by rw [hlegal]; decide), if_neg (by omega), if_neg (by rw [hfree]; simp), hmatch]
  dsimp only
  rw [if_neg hfloat, streaming_eq hfree htile]
  exact hrows

theorem State.coreTook_streamRow (s : State) (k : Site) (e : QEntry) (t : Nat) :
    ((s.coreTook k).core k).streamRow e t = (s.core k).streamRow e t :=
  streamRow_act _ _ e t (by rw [State.coreTook_core])

theorem Core.StreamOk.coreTook {s : State} {k : Site} {e : QEntry} {tile : Tile} (h : (s.core k).StreamOk e tile) :
    ((s.coreTook k).core k).StreamOk e tile := by
  obtain ⟨hlegal, hfits, hfree, htile, hformat, hscales, hsums⟩ := h
  refine ⟨hlegal, hfits, ?_, ?_, hformat, ?_, ?_⟩
  · rw [State.coreTook_core]; exact hfree
  · rw [State.coreTook_core]; exact htile
  · simpa only [State.coreTook_streamRow] using hscales
  · simpa only [State.coreTook_streamRow] using hsums

theorem streamed_coreTook (s : State) (k : Site) (e : QEntry) (tile : Tile) :
    (s.coreTook k).streamed k ((s.coreTook k).core k) e tile = (s.coreTook k).streamed k (s.core k) e tile := by
  simp only [State.streamed, State.coreTook_streamRow, State.coreTook_vreg]

theorem exec_astrm_ok {s : State} {k : Site} {w : BitVec 56} {tile : Tile} (h : s.coreIssues k .astrm w = true)
    (hok : (s.core k).StreamOk (s.coreEntry k .astrm w) tile) :
    exec (.astrm k w) s = .next ((((s.coreTook k).streamed k (s.core k) (s.coreEntry k .astrm w) tile).complete
      k .array w).withQueueOf s) := by
  have hfree := hok.coreTook.free
  obtain ⟨hstream, haq, hvq, htq, -, hheld, ht⟩ := (Core.calm_iff _ _).mp (calm_took s k (s.coreIssues_rest k _ w h))
  refine exec_queue s k .astrm w _ _ h rfl (by decide) ((opAstrm_ok hok.coreTook).trans ?_)
    (calm_stored _ _ _ _ (stored_streamed ..) ?_)
  · rw [streamed_coreTook]
  · rw [State.streaming, State.core_mapCore_same, Core.calm_iff]
    exact ⟨hstream, haq, hvq, htq, Core.settled_of_inflight_none hfree, hheld, ht⟩

/-! ### The frame of ASTRM (R80, R87, R148) -/

theorem sameBut_writeRow (s : State) (k : Site) (line acc : Nat) (tile : Tile) (a : List Int) (sr : Word) (sc : VReg) :
    (s.core k).sameBut ((s.writeRow k line acc tile a sr sc).core k) (span 2 (lineAddr line) (4 * tile.mode.outs)) := by
  have h := sameBut_jwrite s k 2 (lineAddr line) (bytesOfWords ((List.range tile.mode.outs).map fun j =>
    accumulate acc (((s.core k).line line).getD j 0#32) (dotCol tile a j) (tile.colExp.getD j 0) sr (lane sc j))) false (by decide)
  rwa [bytesOfWords_length, List.length_map, List.length_range] at h

/-- A fold of steps that each write inside `out`. -/
theorem sameBut_steps {α : Type} {k : Site} {f : State → α → State} {out : Nat → Nat → Prop} (l : List α)
    (hst : ∀ (s : State) (x : α), s.stored (f s x) k)
    (h : ∀ s : State, ∀ x ∈ l, (s.core k).sameBut ((f s x).core k) out) (s : State) :
    (s.core k).sameBut ((l.foldl f s).core k) out := by
  induction l generalizing s with
  | nil => exact sameBut_of_stores _ _ _ fun _ _ _ => rfl
  | cons x r ih =>
    refine sameBut_mono _ _ _ _ (sameBut_trans s _ _ k _ _ (hst s x) (h s x List.mem_cons_self)
      (ih (fun s y hy => h s y (List.mem_cons_of_mem x hy)) (f s x))) fun st b hb => ?_
    exact hb.elim id id

theorem sameBut_streamed (s : State) (k : Site) (c : Core) (e : QEntry) (tile : Tile) :
    ((s.streaming k tile).core k).sameBut ((s.streamed k c e tile).core k) fun st b =>
      ∃ i < (e.sReg (fld e.word 33 29)).toNat, span 2 (lineAddr (fld e.word 28 18 + i)) (4 * tile.mode.outs) st b :=
  sameBut_steps _ (fun _ _ => stored_writeRow ..) (fun s i hi => sameBut_mono _ _ _ _ (sameBut_writeRow s k _ _ _ _ _ _)
    fun _ _ hb => ⟨i, List.mem_range.mp hi, hb⟩) _

theorem wroteOnly_astrm (s : State) (k : Site) (w : BitVec 56) (e : QEntry) (tile : Tile) :
    s.wroteOnly ((((s.coreTook k).streamed k (s.core k) e tile).complete k .array w).withQueueOf s) k w fun st b =>
      ∃ i < (e.sReg (fld e.word 33 29)).toNat, span 2 (lineAddr (fld e.word 28 18 + i)) (4 * tile.mode.outs) st b := by
  obtain ⟨hcore, hother, -⟩ := stored_streamed (s.coreTook k) k (s.core k) e tile
  have hsame := sameBut_streamed (s.coreTook k) k (s.core k) e tile
  rw [State.streaming, State.core_mapCore_same, State.coreTook_core] at hcore hsame
  refine wroteOnly_end s _ k .array w _ (fun j hj => ?_) ?_ ?_ ?_ ?_ ?_ hsame
  · rw [hother j hj, State.streaming, State.core_mapCore_other _ _ _ _ hj, State.coreTook, State.core_mapCore_other _ _ _ _ hj]
  all_goals rw [hcore]

/-! ### ASTRC (R150, R151) -/

/-- An ASTRC whose pair of tiles, operands, scales and checksums are in order. -/
structure Core.PairOk (c : Core) (e : QEntry) (tc td : Tile) (fl : Flight) : Prop where
  legal : streamLegal e = true
  fits : fld e.word 28 18 + 2 * (e.sReg (fld e.word 33 29)).toNat ≤ 2048
  first : c.shadow = some tc
  flight : c.inflight = some fl
  second : fl.tile = some td
  modes : tc.mode = .w2 ∧ td.mode = .w2
  scales : ∀ t < (e.sReg (fld e.word 33 29)).toNat, (c.streamRow e (3 * t)).2.isSome = true ∧
    (c.streamRow e (3 * t + 1)).2.isSome = true ∧ (c.streamRow e (3 * t + 2)).2.isSome = true
  sums : ∀ t < (e.sReg (fld e.word 33 29)).toNat, rowFails tc (c.streamRow e (3 * t)).1 = false ∧
    rowFails td (c.streamRow e (3 * t + 1)).1 = false ∧ pairFails tc td (c.streamRow e (3 * t + 2)).1 = false

/-- The core that streams against a pair: the first tile is the active one, and the second's ALOAD completes (R151). -/
def State.pairing (s : State) (k : Site) (tc : Tile) (fl : Flight) : State :=
  (s.mapCore k fun c => { c with active := some tc, shadow := none, inflight := none, cols := 64 }).complete
    k .array fl.entry.word

/-- The core with the rows of an ASTRC accumulated on their lines, as core `c` held them (R151). -/
def State.paired (s : State) (k : Site) (c : Core) (e : QEntry) (tc td : Tile) (fl : Flight) : State :=
  (List.range (e.sReg (fld e.word 33 29)).toNat).foldl (fun u t => u.writeComplex k (fld e.word 28 18 + t)
    (fld e.word 28 18 + (e.sReg (fld e.word 33 29)).toNat + t) (fld e.word 17 16) tc td
    (c.streamRow e (3 * t)).1 (c.streamRow e (3 * t + 1)).1 (c.streamRow e (3 * t + 2)).1
    ((c.streamRow e (3 * t)).2.getD 0) ((c.streamRow e (3 * t + 1)).2.getD 0) ((c.streamRow e (3 * t + 2)).2.getD 0)
    (c.vreg (fld e.word 15 11))) (s.pairing k tc fl)

theorem stored_paired (s : State) (k : Site) (c : Core) (e : QEntry) (tc td : Tile) (fl : Flight) :
    (s.pairing k tc fl).stored (s.paired k c e tc td fl) k :=
  State.stored_foldl k _ (fun _ _ => stored_writeComplex ..) _ _

theorem opAstrc_ok {s : State} {k : Site} {e : QEntry} {tc td : Tile} {fl : Flight} (h : (s.core k).PairOk e tc td fl) :
    opAstrc s k e false = .ok (s.paired k (s.core k) e tc td fl) := by
  obtain ⟨hlegal, hfits, hfirst, hflight, hsecond, ⟨hc, hd⟩, hscales, hsums⟩ := h
  have hact : ((s.pairing k tc fl).core k).act = (s.core k).act := by
    obtain ⟨-, -, -, -, hact, -⟩ := sameRegs_complete
      (s.mapCore k fun c => { c with active := some tc, shadow := none, inflight := none, cols := 64 }) k .array fl.entry.word
    rw [State.pairing, hact, State.core_mapCore_same]
  have hrows := complexRows_ok k e tc td ((s.core k).vreg (fld e.word 15 11)) (fld e.word 17 16)
    (e.sReg (fld e.word 33 29)).toNat false (s.core k) (e.sReg (fld e.word 33 29)).toNat 0 (s.pairing k tc fl) hact
    (by simpa only [Nat.zero_add] using hscales) (by simpa only [Nat.zero_add] using hsums)
  simp only [Nat.zero_add] at hrows
  unfold opAstrc
  dsimp only
  rw [if_neg (by rw [hlegal]; decide), if_neg (by omega), hfirst, hflight]
  dsimp only
  rw [hsecond]
  dsimp only
  rw [if_neg (by simp [hc, hd])]
  exact hrows

theorem Core.PairOk.coreTook {s : State} {k : Site} {e : QEntry} {tc td : Tile} {fl : Flight} (h : (s.core k).PairOk e tc td fl) :
    ((s.coreTook k).core k).PairOk e tc td fl := by
  obtain ⟨hlegal, hfits, hfirst, hflight, hsecond, hmodes, hscales, hsums⟩ := h
  refine ⟨hlegal, hfits, ?_, ?_, hsecond, hmodes, ?_, ?_⟩
  · rw [State.coreTook_core]; exact hfirst
  · rw [State.coreTook_core]; exact hflight
  · simpa only [State.coreTook_streamRow] using hscales
  · simpa only [State.coreTook_streamRow] using hsums

theorem paired_coreTook (s : State) (k : Site) (e : QEntry) (tc td : Tile) (fl : Flight) :
    (s.coreTook k).paired k ((s.coreTook k).core k) e tc td fl = (s.coreTook k).paired k (s.core k) e tc td fl := by
  simp only [State.paired, State.coreTook_streamRow, State.coreTook_vreg]

theorem Core.tok_setTok_le (c : Core) (i n : Nat) : (c.setTok i n).tok i ≤ n := by
  by_cases hi : i < 16
  · rw [Core.tok_setTok_same c i n hi]
    exact Nat.mod_le _ _
  · simp [Core.tok, hi]

/-- An instruction that issues finds room for its signal (R100). -/
theorem State.coreIssues_signal {s : State} {k : Site} {op : CoreOp} {w : BitVec 56} (h : s.coreIssues k op w = true)
    (hse : wSE w = true) : (s.core k).tok (wST w) < 255 := by
  simp only [State.coreIssues, hse, Bool.not_true, Bool.false_or, Bool.and_eq_true, decide_eq_true_eq] at h
  exact h.1.2

/-- A completion raises the token it signals by at most 1, and no other. -/
theorem tok_complete_le (s : State) (k : Site) (q : QueueId) (w : BitVec 56) (n : Nat) :
    ((s.complete k q w).core k).tok n ≤ (s.core k).tok n + if wSE w = true ∧ n = wST w then 1 else 0 := by
  have hsignal : ∀ c : Core, (c.signal q (wST w)).tok (wST w) ≤ c.tok (wST w) + 1 := by
    intro c
    unfold Core.signal
    split
    · exact Core.tok_setTok_le ..
    · exact Nat.le_succ _
  split
  · next h =>
    obtain ⟨hse, rfl⟩ := h
    rw [State.complete, if_pos hse, State.core_mapCore_same]
    split
    · rw [State.core_mapCore_same]
      exact hsignal _
    · exact hsignal _
  · next h => exact (sameTokens_complete s k q w n h).le

theorem pairing_tok {s : State} {k : Site} {tc : Tile} {fl : Flight} {w : BitVec 56}
    (hfl : wSE fl.entry.word = true → (s.core k).tok (wST fl.entry.word) < 254)
    (hw : wSE w = true → (s.core k).tok (wST w) < 255) (hse : wSE w = true) :
    ((s.pairing k tc fl).core k).tok (wST w) < 255 := by
  have hle := tok_complete_le (s.mapCore k fun c => { c with active := some tc, shadow := none, inflight := none, cols := 64 })
    k .array fl.entry.word (wST w)
  rw [State.core_mapCore_same] at hle
  refine Nat.lt_of_le_of_lt hle ?_
  split
  · next h =>
    have := hfl h.1
    rw [h.2]
    exact Nat.succ_lt_succ this
  · exact hw hse

/-- The core waits for nothing when the pair has moved on. -/
theorem pairing_settled {s : State} {k : Site} {tc : Tile} {fl : Flight} (h : (s.core k).idle)
    (hfl : wSE fl.entry.word = true → (s.core k).tok (wST fl.entry.word) < 254) :
    ((s.pairing k tc fl).core k).idle ∧ ((s.pairing k tc fl).core k).settled = true := by
  obtain ⟨-, -, -, -, hsettled, -⟩ := complete_core
    (s.mapCore k fun c => { c with active := some tc, shadow := none, inflight := none, cols := 64 }) k .array fl.entry.word
  refine ⟨idle_complete _ k _ _ ?_ fun hse => ?_, hsettled.trans ?_⟩
  · rw [State.core_mapCore_same]; exact h
  · rw [State.core_mapCore_same]; exact Nat.lt_succ_of_lt (hfl hse)
  · rw [State.core_mapCore_same]; exact Core.settled_of_inflight_none rfl

theorem exec_astrc_ok {s : State} {k : Site} {w : BitVec 56} {tc td : Tile} {fl : Flight} (h : s.coreIssues k .astrc w = true)
    (hok : (s.core k).PairOk (s.coreEntry k .astrc w) tc td fl)
    (hfl : wSE fl.entry.word = true → (s.core k).tok (wST fl.entry.word) < 254) :
    exec (.astrc k w) s = .next ((((s.coreTook k).paired k (s.core k) (s.coreEntry k .astrc w) tc td fl).complete
      k .array w).withQueueOf s) := by
  have htok : ∀ n, ((s.coreTook k).core k).tok n = (s.core k).tok n := fun n => by rw [State.coreTook_core]; rfl
  have hfl' : wSE fl.entry.word = true → ((s.coreTook k).core k).tok (wST fl.entry.word) < 254 := by rwa [htok]
  have hkept := State.kept_of_stored _ _ k (stored_paired (s.coreTook k) k (s.core k) (s.coreEntry k .astrc w) tc td fl)
  obtain ⟨hidle, hsettled⟩ := kept_settled _ _ k hkept
    (pairing_settled (tc := tc) (took_settled s k (s.coreIssues_rest k _ w h)).1 hfl')
  obtain ⟨-, -, -, -, -, ht, -⟩ := hkept
  have hrun := opAstrc_ok hok.coreTook
  rw [paired_coreTook] at hrun
  refine ou (f := fun s => s.fetched k .astrc w) (s.coreIssues_ok k _ w h)
    (fetched_acts s k .astrc w _ h (by decide) (congrArg (finish (s.coreTook k) k .array (s.coreEntry k .astrc w)) hrun)
      (idle_complete _ k _ _ hidle fun hse => ?_) (State.promote_settled _ _ ?_))
  · have hw := pairing_tok (tc := tc) hfl' (w := w) (fun hse => by rw [htok]; exact State.coreIssues_signal h hse) hse
    simpa only [Core.tok, ht] using hw
  · obtain ⟨-, -, -, -, hcomplete, -⟩ := complete_core
      ((s.coreTook k).paired k (s.core k) (s.coreEntry k .astrc w) tc td fl) k .array w
    exact hcomplete.trans hsettled

/-- Settles O17: ASTRM and ASTRC accumulate every row on its line. -/
theorem arrayStreams : Obligations.ArrayStreams :=
  ⟨fun _ _ _ _ h hlegal hfits hfree htile hformat hscales hsums =>
      exec_astrm_ok h ⟨hlegal, hfits, hfree, htile, hformat, hscales, hsums⟩,
    fun _ _ _ _ _ _ h hlegal hfits hfirst hflight hsecond hc hd hfl hscales hsums =>
      exec_astrc_ok h ⟨hlegal, hfits, hfirst, hflight, hsecond, ⟨hc, hd⟩, hscales, hsums⟩ hfl⟩

/-- Settles O18: each row of ASTRM writes its line's output columns. -/
theorem streamFrame : Obligations.StreamFrame := by
  intro s t k w tile h e n row hlegal hfits hfree htile hformat hscales hsums ht
  obtain rfl := Host.Outcome.next.inj (ht.symm.trans
    (exec_astrm_ok h ⟨hlegal, hfits, hfree, htile, hformat, hscales, hsums⟩))
  exact wroteOnly_astrm s k w e tile

end Sys2Proof.Machine
end

section
/-! SUPPORT and SETTLED. Control instructions that wait for work or tokens: BARR, STEP and TOK (R100, R101, R204, R206, R207,
R458). -/

namespace Sys2Proof.Machine

/-! ### BARR and STEP (R206, R207, R458) -/

theorem kept_coreDone (s : State) (k : Site) : s.kept (s.coreDone k) k := by
  rw [State.kept, core_coreDone]
  exact ⟨rfl, rfl, rfl, rfl, rfl, rfl, rfl, rfl⟩

theorem ctlBarr_drained {s : State} {k : Site} (e : QEntry) (hloops : (s.core k).loops = [])
    (hdrained : (s.core k).drained = true) : ctlBarr s k e = .jumped (s.coreDone k) := by
  simp [ctlBarr, hloops, hdrained]

theorem exec_barr_ok {s : State} {k : Site} {w : BitVec 56} (h : s.coreFront k .barr w = true)
    (hfree : (s.core k).inflight = none) : exec (.barr k w) s = .next (((s.coreTookFront k).coreDone k).withQueueOf s) := by
  have hrest := s.coreFront_rest k _ w h
  exact exec_front _ s k .barr w _ h rfl (front_jumped s k .barr w _ h rfl
    (ctlBarr_drained (s.coreEntry k .barr w) (tookFront_loops s k hrest) (tookFront_drained s k hrest hfree)) (kept_coreDone ..))

theorem ctlStep_drained {s : State} {k : Site} (e : QEntry) (hloops : (s.core k).loops = [])
    (hdrained : (s.core k).drained = true) :
    ctlStep s k e = .jumped (s.mapCore k fun c => { c with idx := e.idx + 1 }.newStep (e.idx + 1) (some e.idx)) := by
  simp [ctlStep, hloops, hdrained, Core.advance_none _ hloops, State.mapCore_eq]

theorem exec_step_ok {s : State} {k : Site} {w : BitVec 56} (h : s.coreFront k .step w = true)
    (hfree : (s.core k).inflight = none) :
    exec (.step k w) s = .next (((s.coreTookFront k).mapCore k fun c =>
      { c with idx := (s.core k).idx + 1 }.newStep ((s.core k).idx + 1) (some (s.core k).idx)).withQueueOf s) := by
  have hrest := s.coreFront_rest k _ w h
  exact exec_front _ s k .step w _ h rfl (front_jumped s k .step w _ h rfl
    (ctlStep_drained _ (tookFront_loops s k hrest) (tookFront_drained s k hrest hfree))
    (State.kept_mapCore _ _ _ ⟨rfl, rfl, rfl, rfl, rfl, rfl, rfl, rfl⟩))

/-! ### TOK (R100, R204) -/

/-- A TOK that changes no more than the counts of tokens has run, and fetch goes on. -/
theorem exec_tok_ran {s : State} {k : Site} {w : BitVec 56} {ts : Vector Byte 16} (h : s.coreFront k .tok w = true)
    (hrun : ctlTok (s.coreTookFront k) k (s.coreEntry k .tok w) =
      .ran ((s.coreTookFront k).mapCore k fun c => { c with t := ts }) (s.core k).idx) :
    exec (.tok k w) s = .next (((s.coreTookFront k).mapCore k fun c =>
      { c with t := ts, idx := c.idx + 1 }).withQueueOf s) := by
  have hrest := s.coreFront_rest k _ w h
  have hidle := rest_settled s k hrest
  refine exec_front _ s k .tok w _ h rfl ((front_ran' s k .tok w _ _ h rfl hrun ?_ ?_).trans ?_)
  · rw [State.core_mapCore_same]; exact hidle
  · rw [State.core_mapCore_same]; exact tookFront_loops s k hrest
  · rw [State.mapCore_mapCore, State.mapCore_eq, State.mapCore_eq, State.coreTookFront_core]

theorem tookFront_tok (s : State) (k : Site) (i : Nat) : ((s.coreTookFront k).core k).tok i = (s.core k).tok i := by
  rw [State.coreTookFront_core]; rfl

/-- A TOK that sets each token its mask names by `g` leaves the others. -/
theorem exec_tok_sets {s : State} {k : Site} {w : BitVec 56} (g : Nat → Nat) (h : s.coreFront k .tok w = true)
    (hlt : ∀ i ∈ tokMask w, g ((s.core k).tok i) < 256)
    (hrun : ctlTok (s.coreTookFront k) k (s.coreEntry k .tok w) = .ran ((s.coreTookFront k).mapCore k fun c =>
      (tokMask w).foldl (fun c i => c.setTok i (g (c.tok i))) c) (s.core k).idx) :
    ∃ ts : Vector Byte 16, exec (.tok k w) s = .next (((s.coreTookFront k).mapCore k fun c =>
        { c with t := ts, idx := c.idx + 1 }).withQueueOf s) ∧
      ∀ i < 16, (i ∈ tokMask w → ({ s.core k with t := ts } : Core).tok i = g ((s.core k).tok i)) ∧
        (i ∉ tokMask w → ({ s.core k with t := ts } : Core).tok i = (s.core k).tok i) := by
  obtain ⟨ts, hts, htok⟩ := setToks g (tokMask w) (fun i hi => ((mem_tokMask w i).mp hi).1) (nodup_tokMask w)
    ((s.coreTookFront k).core k)
  simp only [tookFront_tok] at htok
  refine ⟨ts, exec_tok_ran h (hrun.trans ?_), fun i hi => ⟨fun hin => ?_, (htok i hi).2⟩⟩
  · rw [State.mapCore_eq, hts, State.mapCore_eq]
  · exact ((htok i hi).1 hin).trans (Nat.mod_eq_of_lt (hlt i hin))

theorem ctlTok_wait {s : State} {k : Site} {e : QEntry} (hwait : flag e.word 55 = true)
    (hpos : ∀ i ∈ tokMask e.word, 0 < (s.core k).tok i) :
    ctlTok s k e = .ran (s.mapCore k fun c => (tokMask e.word).foldl (fun c i => c.setTok i (c.tok i - 1)) c) e.idx := by
  have hnone : ¬((tokMask e.word).any fun i => (s.core k).tok i == 0) = true := by
    simpa [Nat.pos_iff_ne_zero] using hpos
  exact (if_pos hwait).trans (if_neg hnone)

theorem ctlTok_stalls {s : State} {k : Site} {e : QEntry} (hwait : flag e.word 55 = true)
    (hzero : ∃ i ∈ tokMask e.word, (s.core k).tok i = 0) : ctlTok s k e = .stall := by
  have hany : ((tokMask e.word).any fun i => (s.core k).tok i == 0) = true := by
    simpa using hzero
  exact (if_pos hwait).trans (if_pos hany)

theorem ctlTok_signal {s : State} {k : Site} {e : QEntry} (hsignal : flag e.word 55 = false)
    (hroom : ∀ i ∈ tokMask e.word, (s.core k).tok i < 255) :
    ctlTok s k e = .ran (s.mapCore k fun c => (tokMask e.word).foldl (fun c i => c.setTok i (c.tok i + 1)) c) e.idx := by
  have hneg : ¬flag e.word 55 = true := by rw [hsignal]; decide
  rw [State.mapCore_eq, ← signals_set _ (fun i hi => ((mem_tokMask e.word i).mp hi).1) (nodup_tokMask e.word) _ hroom]
  exact if_neg hneg

theorem exec_tok_stalls {s : State} {k : Site} {w : BitVec 56} (h : s.coreFront k .tok w = true) (hwait : flag w 55 = true)
    (hzero : ∃ i ∈ tokMask w, (s.core k).tok i = 0) :
    exec (.tok k w) s = .next ((s.mapCore k fun c => { c with stream := [s.coreEntry k .tok w] }).withQueueOf s) := by
  obtain ⟨i, hi, hzero⟩ := hzero
  exact exec_front _ s k .tok w _ h rfl (front_stalls s k .tok w h rfl
    (ctlTok_stalls (e := s.coreEntry k .tok w) hwait ⟨i, hi, (tookFront_tok s k i).trans hzero⟩))

/-- Settles O25: BARR and STEP find their core drained; TOK by its kind and its counts. -/
theorem tokensAndBarriers : Obligations.TokensAndBarriers := by
  refine ⟨fun s k w hfree => ⟨fun h => ⟨exec_barr_ok h hfree, ?_⟩, fun h => ?_⟩, fun s k w h => ?_⟩
  · rw [core_coreDone]
  · obtain ⟨-, -, -, -, hloops, -⟩ := (Core.rest_iff _).mp (s.coreFront_rest k _ w h)
    rw [exec_step_ok h hfree]
    simp only [State.mapCore_eq, State.coreTookFront_core, Core.newStep, Core.takeCkpt, hloops]
  · simp only [← mem_tokMask]
    refine ⟨fun hwait hpos => ?_, exec_tok_stalls h, fun hsignal hroom => ?_⟩
    · exact exec_tok_sets (· - 1) h (fun i _ => Nat.lt_of_le_of_lt (Nat.sub_le _ _) (Core.tok_lt _ i))
        (ctlTok_wait (e := s.coreEntry k .tok w) hwait fun i hi => (hpos i hi).trans_eq (tookFront_tok s k i).symm)
    · exact exec_tok_sets (· + 1) h (fun i hi => Nat.succ_lt_succ (hroom i hi))
        (ctlTok_signal (e := s.coreEntry k .tok w) hsignal fun i hi => (tookFront_tok s k i).trans_lt (hroom i hi))

end Sys2Proof.Machine
end

section
/-! SUPPORT and SETTLED. Quantisation: VQNT by its DYN bit and by how many elements clip, VDEQ and VSPLT (R112 to R120, R157,
R169 to R171). The scale a clipped block holds and the row it marks are the model's choice (notes/assumptions/13, 24). -/

namespace Sys2Proof.Machine

/-! ### What VQNT reads and computes (R112, R114, R115, R169) -/

/-- The 64 elements of a VQNT. -/
def Core.vqntElems (c : Core) (e : QEntry) : List Word := wordsOf (c.rd (vqntSrc e).1 (vqntSrc e).2 256) 64

/-- The scale entry that a VQNT or VDEQ names, as it stands. -/
def Core.presetScale (c : Core) (e : QEntry) : Nat := leNat (c.rd 0 (qEntry e) 2)

/-- The scale that a VQNT computes from its elements. -/
def ownScale (xs : List Word) : BitVec 16 := a8Scale (amaxOf xs).1 (amaxOf xs).2

/-- Codes of a VQNT's elements under a scale entry, and how many saturate and how many of these clip. -/
def presetBlock (xs : List Word) (entry : Nat) : List Int × Nat × Nat := quantBlock (ofBF16 (BitVec.ofNat 16 entry)) 127 xs

/-! ### What VQNT leaves (R117 to R120) -/

/-- The codes and the scale that a VQNT with DYN has written. -/
def State.vqntDyn (s : State) (k : Site) (e : QEntry) (xs : List Word) : State :=
  (s.putCodes k e (quantBlock (ofBF16 (ownScale xs)) 127 xs).1).jwrite k 0 (qEntry e) (natLe 2 (ownScale xs).toNat) false

/-- The scale that a clipped block's entry takes for the next tick (R120). -/
def State.holdScale (s : State) (k : Site) (entry scale : Nat) : State :=
  s.mapCore k fun c => { c with rep := { c.rep with heldScales := putK c.rep.heldScales entry scale } }

/-- An event of a core counted, and a row marked as clipped. -/
def State.countClip (s : State) (k : Site) (code n : Nat) : State :=
  (s.countCode k.panel code (s.coreLoc k) 0 n 0).clipSomeRow k

/-- What a VQNT leaves that clips too much and may not replay. -/
def State.vqntClipped (s : State) (k : Site) (e : QEntry) (xs : List Word) (entry : Nat) : State :=
  ((s.putCodes k e (presetBlock xs entry).1).holdScale k (qEntry e) (ownScale xs).toNat).countClip k 0x020B 1

theorem kept_holdScale (s : State) (k : Site) (entry scale : Nat) : s.kept (s.holdScale k entry scale) k :=
  State.kept_mapCore _ _ _ ⟨rfl, rfl, rfl, rfl, rfl, rfl, rfl, rfl⟩

theorem kept_countClip (s : State) (k : Site) (code n : Nat) : s.kept (s.countClip k code n) k :=
  State.kept_trans (kept_countCode ..) (kept_clipSomeRow ..)

theorem stored_vqntDyn (s : State) (k : Site) (e : QEntry) (xs : List Word) : s.stored (s.vqntDyn k e xs) k :=
  State.stored_trans (stored_putCodes ..) (stored_jwrite ..)

theorem kept_vqntClipped (s : State) (k : Site) (e : QEntry) (xs : List Word) (entry : Nat) :
    s.kept (s.vqntClipped k e xs entry) k :=
  State.kept_trans (State.kept_of_stored _ _ _ (stored_putCodes ..))
    (State.kept_trans (kept_holdScale ..) (kept_countClip ..))

/-! ### VQNT by DYN and by what clips (R169) -/

section
variable {s : State} {k : Site} {e : QEntry} (halign : vqntAligned e = true)
  (hwin : (s.core k).inWindow (vqntSrc e).1 (vqntSrc e).2 256 = true)
include halign hwin

theorem opVqnt_dyn (hdyn : flag e.word 24 = true) : opVqnt s k e = .ok (s.vqntDyn k e ((s.core k).vqntElems e)) := by
  unfold opVqnt
  extract_lets c src xs am dyn q h q'
  rw [if_neg (by simp [halign]), if_neg (by simp [c, src, hwin]), if_pos hdyn]
  rfl

section
variable (hdyn : flag e.word 24 = false) (hlegal : a8Legal ((s.core k).presetScale e) = true)
include hdyn hlegal

/-- With a legal preset scale, what clips decides. -/
theorem opVqnt_preset : opVqnt s k e =
    if (presetBlock ((s.core k).vqntElems e) ((s.core k).presetScale e)).2.2 ≤ s.satLimit then
      .ok (s.putCodes k e (presetBlock ((s.core k).vqntElems e) ((s.core k).presetScale e)).1)
    else if qEntry e ∉ (s.core k).rep.rescaled ∧ s.quantMayReplay k then
      .rescale s (qEntry e) (ownScale ((s.core k).vqntElems e)).toNat
    else .ok (s.vqntClipped k e ((s.core k).vqntElems e) ((s.core k).presetScale e)) := by
  unfold Core.presetScale at hlegal
  unfold opVqnt
  extract_lets c src xs am dyn q h q'
  rw [if_neg (by simp [halign]), if_neg (by simp [c, src, hwin]), if_neg (by simp [hdyn]), if_neg (by simp [h, c, hlegal])]
  rfl

theorem opVqnt_coded (hfew : (presetBlock ((s.core k).vqntElems e) ((s.core k).presetScale e)).2.2 ≤ s.satLimit) :
    opVqnt s k e = .ok (s.putCodes k e (presetBlock ((s.core k).vqntElems e) ((s.core k).presetScale e)).1) := by
  rw [opVqnt_preset halign hwin hdyn hlegal, if_pos hfew]

theorem opVqnt_clipped (hmany : s.satLimit < (presetBlock ((s.core k).vqntElems e) ((s.core k).presetScale e)).2.2)
    (hspent : qEntry e ∈ (s.core k).rep.rescaled ∨ s.quantMayReplay k = false) :
    opVqnt s k e = .ok (s.vqntClipped k e ((s.core k).vqntElems e) ((s.core k).presetScale e)) := by
  have hno : ¬(qEntry e ∉ (s.core k).rep.rescaled ∧ s.quantMayReplay k = true) := by
    rcases hspent with h | h <;> simp [h]
  rw [opVqnt_preset halign hwin hdyn hlegal, if_neg (Nat.not_le.mpr hmany), if_neg hno]

end
end

/-! ### VQNT, VDEQ and VSPLT, from their commands -/

theorem State.coreTook_quantMayReplay (s : State) (k : Site) : (s.coreTook k).quantMayReplay k = s.quantMayReplay k := by
  unfold State.quantMayReplay
  rw [State.coreTook_core]
  rfl

theorem State.coreTook_satLimit (s : State) (k : Site) : (s.coreTook k).satLimit = s.satLimit := rfl

theorem State.coreTook_vqntElems (s : State) (k : Site) (e : QEntry) :
    ((s.coreTook k).core k).vqntElems e = (s.core k).vqntElems e := by
  simp only [Core.vqntElems, State.coreTook_rd]

theorem State.coreTook_presetScale (s : State) (k : Site) (e : QEntry) :
    ((s.coreTook k).core k).presetScale e = (s.core k).presetScale e := by
  simp only [Core.presetScale, State.coreTook_rd]

section
variable {s : State} {k : Site} {w : BitVec 56} (hissue : s.coreIssues k .vqnt w = true)
  (halign : vqntAligned (s.coreEntry k .vqnt w) = true)
  (hwin : (s.core k).inWindow (vqntSrc (s.coreEntry k .vqnt w)).1 (vqntSrc (s.coreEntry k .vqnt w)).2 256 = true)
include hissue halign hwin

theorem exec_vqnt_dyn (hdyn : flag w 24 = true) : exec (.vqnt k w) s = .next ((((s.coreTook k).vqntDyn k
    (s.coreEntry k .vqnt w) ((s.core k).vqntElems (s.coreEntry k .vqnt w))).complete k .vector w).withQueueOf s) := by
  have hrun := opVqnt_dyn (e := s.coreEntry k .vqnt w) halign ((s.coreTook_inWindow ..).trans hwin) hdyn
  rw [State.coreTook_vqntElems] at hrun
  exact exec_stored (op := .vqnt) hissue rfl (by decide) hrun (stored_vqntDyn ..)

section
variable (hdyn : flag w 24 = false) (hlegal : a8Legal ((s.core k).presetScale (s.coreEntry k .vqnt w)) = true)
include hdyn hlegal

theorem exec_vqnt_coded (hfew : (presetBlock ((s.core k).vqntElems (s.coreEntry k .vqnt w))
    ((s.core k).presetScale (s.coreEntry k .vqnt w))).2.2 ≤ s.satLimit) :
    exec (.vqnt k w) s = .next ((((s.coreTook k).putCodes k (s.coreEntry k .vqnt w)
      (presetBlock ((s.core k).vqntElems (s.coreEntry k .vqnt w)) ((s.core k).presetScale (s.coreEntry k .vqnt w))).1).complete
        k .vector w).withQueueOf s) := by
  rw [← State.coreTook_presetScale] at hlegal
  rw [← State.coreTook_presetScale, ← State.coreTook_vqntElems, ← State.coreTook_satLimit s k] at hfew
  have hrun := opVqnt_coded (e := s.coreEntry k .vqnt w) halign ((s.coreTook_inWindow ..).trans hwin) hdyn hlegal hfew
  rw [State.coreTook_vqntElems, State.coreTook_presetScale] at hrun
  exact exec_stored (op := .vqnt) hissue rfl (by decide) hrun (stored_putCodes ..)

theorem exec_vqnt_clipped (hmany : s.satLimit < (presetBlock ((s.core k).vqntElems (s.coreEntry k .vqnt w))
    ((s.core k).presetScale (s.coreEntry k .vqnt w))).2.2)
    (hspent : qEntry (s.coreEntry k .vqnt w) ∈ (s.core k).rep.rescaled ∨ s.quantMayReplay k = false) :
    exec (.vqnt k w) s = .next ((((s.coreTook k).vqntClipped k (s.coreEntry k .vqnt w)
      ((s.core k).vqntElems (s.coreEntry k .vqnt w)) ((s.core k).presetScale (s.coreEntry k .vqnt w))).complete
        k .vector w).withQueueOf s) := by
  rw [← State.coreTook_presetScale] at hlegal
  rw [← State.coreTook_presetScale, ← State.coreTook_vqntElems, ← State.coreTook_satLimit s k] at hmany
  rw [← State.coreTook_rep, ← State.coreTook_quantMayReplay] at hspent
  have hrun := opVqnt_clipped (e := s.coreEntry k .vqnt w) halign ((s.coreTook_inWindow ..).trans hwin) hdyn hlegal hmany hspent
  rw [State.coreTook_vqntElems, State.coreTook_presetScale] at hrun
  exact exec_queue s k .vqnt w _ _ hissue rfl (by decide) hrun
    (calm_of_kept s k _ (s.coreIssues_rest k _ w hissue) (kept_vqntClipped ..))

end
end

theorem exec_vdeq_ok {s : State} {k : Site} {w : BitVec 56} (h : s.coreIssues k .vdeq w = true)
    (hlines : ((s.coreEntry k .vdeq w).aReg (fld w 36 33)).toNat % 32 = 0)
    (hentry : ((s.coreEntry k .vdeq w).aReg (fld w 28 25)).toNat % 2 = 0)
    (hlegal : a8Legal ((s.core k).presetScale (s.coreEntry k .vdeq w)) = true) :
    exec (.vdeq k w) s = .next (((s.lanesDone k w fun i => toF32 ((Fp.ofInt
      ((((s.core k).rd 0 (qLine0 (s.coreEntry k .vdeq w)) 32 ++ (s.core k).rd 0 (qLine1 (s.coreEntry k .vdeq w)) 32).getD i
        0#8).toInt)).mul (ofF32 (a8Word ((s.core k).presetScale (s.coreEntry k .vdeq w)))))).complete k .vector w).withQueueOf s) :=
  exec_queue s k .vdeq w _ _ h rfl (by decide) (opVdeq_ok s k w hlines hentry hlegal)
    (calm_lanesDone s k w _ (s.coreIssues_rest k _ w h))

/-- Settles O12: VQNT by its DYN bit and by what clips; VDEQ's lanes; VSPLT's two rows, and a clip where an element is not
finite. -/
theorem vectorQuantisation : Obligations.VectorQuantisation := by
  refine ⟨fun s k w hissue halign hwin => ⟨exec_vqnt_dyn hissue halign hwin, exec_vqnt_coded hissue halign hwin,
    exec_vqnt_clipped hissue halign hwin⟩, fun s k w => exec_vdeq_ok, ?_⟩
  intro s k w hissue e ad as xs p bad halign t
  have hput : (s.coreTook k).kept t k := by
    iterate 7 refine State.kept_trans ?_ (kept_jwrite ..)
    exact kept_jwrite ..
  exact exec_queue s k .vsplt w _ _ hissue rfl (by decide) (opVsplt_ok s k w halign)
    (calm_of_kept s k _ (s.coreIssues_rest k _ w hissue)
      (State.kept_ite _ _ _ k _ hput (State.kept_trans hput (kept_countClip t k 0x020C bad))))

end Sys2Proof.Machine
end

section
/-! SUPPORT and SETTLED. Sends: the flits of FSEND, FRED and FMRG, and how the fabric takes them (R123 to R125, R174, R180 to
R184, R462, R463, R473). -/

namespace Sys2Proof.Machine

/-! ### Flits put into the fabric (R180, R462, R463) -/

/-- A flit on its way into the local port of its router, on the channel of its class. -/
def localWire (k : Site) (f : Flit) : Wire := ⟨k, .here, 2 * rClass f, f, []⟩

/-- The state with flits put into a router's local port. -/
def State.injected (s : State) (k : Site) (fs : List Flit) : State :=
  { s with transit := { s.transit with wires := s.transit.wires ++ fs.map (localWire k) } }

/-- A ledger after the send at a place of it that has `n` flits. -/
def ledgerSent (ledger : List Nat) (pos n : Nat) : List Nat :=
  if pos < ledger.length then ledger.set pos (max (ledger.getD pos 0) n) else ledger ++ [n]

theorem foldl_inject (s : State) (k : Site) (fs : List Flit) : fs.foldl (fun s f => s.inject k f) s = s.injected k fs := by
  induction fs generalizing s with
  | nil => simp [State.injected]
  | cons f r ih =>
    rw [List.foldl_cons, ih]
    simp [State.injected, State.inject, localWire]

theorem core_injected (s : State) (k j : Site) (fs : List Flit) : (s.injected k fs).core j = s.core j := rfl

theorem sendFlits_eq (s : State) (k : Site) (fs : List Flit) : s.sendFlits k fs =
    (s.injected k (fs.drop ((s.core k).rep.ledger.getD (s.core k).rep.sendPos 0))).mapCore k fun c => { c with rep := { c.rep with
      ledger := ledgerSent (s.core k).rep.ledger (s.core k).rep.sendPos fs.length, sendPos := (s.core k).rep.sendPos + 1 } } := by
  unfold State.sendFlits
  extract_lets r sent ledger s1
  rw [show s1 = _ from foldl_inject ..]
  rfl

/-- The ledger notes how many flits have been sent. -/
theorem ledgerSent_getD {ledger : List Nat} {pos : Nat} (n : Nat) (h : pos ≤ ledger.length) :
    (ledgerSent ledger pos n).getD pos 0 = max (ledger.getD pos 0) n := by
  unfold ledgerSent
  split
  · next hin => simp [List.getD_eq_getElem?_getD, hin]
  · next hout =>
    obtain rfl : pos = ledger.length := by omega
    simp [List.getD_eq_getElem?_getD]

theorem sendFlits_frame (s : State) (k : Site) (fs : List Flit) : s.sendFlits k fs =
    { s.injected k (fs.drop ((s.core k).rep.ledger.getD (s.core k).rep.sendPos 0)) with
      cores := (s.sendFlits k fs).cores } := by
  rw [sendFlits_eq]
  rfl

theorem core_sendFlits_other (s : State) {k j : Site} (fs : List Flit) (h : j ≠ k) :
    (s.sendFlits k fs).core j = s.core j := by
  rw [sendFlits_eq, State.core_mapCore_other _ _ _ _ h, core_injected]

theorem core_sendFlits_same (s : State) (k : Site) (fs : List Flit) : (s.sendFlits k fs).core k =
    { s.core k with rep := { (s.core k).rep with
      ledger := ledgerSent (s.core k).rep.ledger (s.core k).rep.sendPos fs.length, sendPos := (s.core k).rep.sendPos + 1 } } := by
  rw [sendFlits_eq, State.core_mapCore_same, core_injected]

/-- A send instruction that puts its flits into the fabric completes, from its command. -/
theorem exec_sends {s t : State} {k : Site} {op : CoreOp} {w : BitVec 56} {i : Instr} {fs : List Flit}
    (h : s.coreIssues k op w = true) (hi : exec i s = onUnit k.ok s fun s => s.fetched k op w) (hq : op.queue ≠ .front)
    (hrun : runOp (s.coreTook k) k (s.coreEntry k op w) false = .ok (t.sendFlits k fs)) (ht : (s.coreTook k).kept t k) :
    exec i s = .next (((t.sendFlits k fs).complete k op.queue w).withQueueOf s) :=
  exec_queue s k op w i _ h hi hq hrun
    (calm_of_kept s k _ (s.coreIssues_rest k op w h) (State.kept_trans ht (kept_sendFlits ..)))

/-! ### FSEND (R123 to R125, R180 to R182) -/

/-- The scales an FSEND's flits carry. -/
def Core.fsendScales (c : Core) (e : QEntry) : List Byte := c.rd 0 (fsendAsc e) (scaleBytes (fsendTag e) * fsendNf e)

/-- The flits of an FSEND: 64 bytes of its source each, with their scales. -/
def Core.fsendFlits (c : Core) (e : QEntry) (mode : Nat) (dst : Site) (chan : Nat) : List Flit :=
  (List.range (fsendNf e)).map fun f =>
    ⟨blockOfBytes (c.rd (fsendSrc e).1 ((fsendSrc e).2 + 64 * f) 64),
      sideTo mode 0 dst chan 0 (f + 1 == fsendNf e) (dataPayload (fsendTag e)
        (((c.fsendScales e).drop (scaleBytes (fsendTag e) * f)).take (scaleBytes (fsendTag e)))), false⟩

theorem opFsend_ok {s : State} {k : Site} {e : QEntry} {mode chan : Nat} {dst : Site} (halign : (fsendSrc e).2 % 64 = 0)
    (hwin : (s.core k).inWindow (fsendSrc e).1 (fsendSrc e).2 (64 * fsendNf e) = true)
    (hscale : fsendTag e = 3 → ((s.core k).fsendScales e).any (fun b => b.getLsbD 7) = false)
    (hdst : s.fsendDst k e = some (mode, dst, chan)) :
    opFsend s k e = .ok (s.sendFlits k ((s.core k).fsendFlits e mode dst chan)) := by
  unfold Core.fsendScales at hscale
  unfold opFsend
  extract_lets c src nf tag w scales
  rw [if_neg (Classical.not_not.mpr halign), if_neg (by simp [c, src, nf, hwin]),
    if_neg (fun h => by rw [hscale h.1] at h; exact absurd h.2 (by decide)), hdst]
  rfl

theorem State.coreTook_tab (s : State) (k j : Site) : ((s.coreTook k).core j).tab = (s.core j).tab := by
  by_cases h : j = k
  · subst h; rw [State.coreTook_core]
  · rw [State.coreTook, State.core_mapCore_other _ _ _ _ h]

theorem State.coreTook_fsendDst (s : State) (k : Site) (e : QEntry) : (s.coreTook k).fsendDst k e = s.fsendDst k e := by
  simp only [State.fsendDst, State.coreTook_tab]

theorem State.coreTook_fsendScales (s : State) (k : Site) (e : QEntry) :
    ((s.coreTook k).core k).fsendScales e = (s.core k).fsendScales e := by simp only [Core.fsendScales, State.coreTook_rd]

theorem State.coreTook_fsendFlits (s : State) (k : Site) (e : QEntry) (mode : Nat) (dst : Site) (chan : Nat) :
    ((s.coreTook k).core k).fsendFlits e mode dst chan = (s.core k).fsendFlits e mode dst chan := by
  simp only [Core.fsendFlits, State.coreTook_fsendScales, State.coreTook_rd]

theorem exec_fsend_ok {s : State} {k : Site} {w : BitVec 56} {mode chan : Nat} {dst : Site}
    (h : s.coreIssues k .fsend w = true) (halign : (fsendSrc (s.coreEntry k .fsend w)).2 % 64 = 0)
    (hwin : (s.core k).inWindow (fsendSrc (s.coreEntry k .fsend w)).1 (fsendSrc (s.coreEntry k .fsend w)).2
      (64 * fsendNf (s.coreEntry k .fsend w)) = true)
    (hscale : fsendTag (s.coreEntry k .fsend w) = 3 →
      ((s.core k).fsendScales (s.coreEntry k .fsend w)).any (fun b => b.getLsbD 7) = false)
    (hdst : s.fsendDst k (s.coreEntry k .fsend w) = some (mode, dst, chan)) :
    exec (.fsend k w) s = .next ((((s.coreTook k).sendFlits k ((s.core k).fsendFlits (s.coreEntry k .fsend w) mode dst
      chan)).complete k .transfer w).withQueueOf s) := by
  have hrun := opFsend_ok (s := s.coreTook k) halign ((s.coreTook_inWindow ..).trans hwin)
    (by rwa [State.coreTook_fsendScales]) ((s.coreTook_fsendDst ..).trans hdst)
  rw [State.coreTook_fsendFlits] at hrun
  exact exec_sends (op := .fsend) h rfl (by decide) hrun (State.kept_refl ..)

/-! ### FRED (R60, R183, R473) -/

/-- The flits of an FRED to its tree's root. -/
def Core.fredFlits (c : Core) (e : QEntry) (root : Site) : List Flit :=
  (List.range (fredNf e)).map (c.redFlit (fredLine e) (redOp e.word) (fredNf e) (fredTree e) root)

/-- The state with an FRED's flits sent: numbered, and twice where the number is sampled, unless an earlier run of the step
has sent them. -/
def State.fredSent (s : State) (k : Site) (e : QEntry) (fs : List Flit) : State :=
  if (s.core k).sentBefore then s.sendFlits k fs
  else (s.redNumber k (fredTree e)).2.sendFlits k (if (s.redNumber k (fredTree e)).1 then fs ++ fs else fs)

theorem kept_fredSent (s : State) (k : Site) (e : QEntry) (fs : List Flit) : s.kept (s.fredSent k e fs) k :=
  State.kept_ite _ _ _ k _ (kept_sendFlits ..) (State.kept_trans (kept_redNumber ..) (kept_sendFlits ..))

theorem opFred_ok {s : State} {k : Site} {e : QEntry} {r : RootEntry}
    (hfit : fredLine e + redLines (redOp e.word) (fredNf e) ≤ 2048) (hroot : (s.core k).tab.root (fredTree e) = some r) :
    opFred s k e = .ok (s.fredSent k e ((s.core k).fredFlits e r.root)) := by
  unfold opFred State.fredSent
  extract_lets c op nf tree line
  rw [if_neg (Nat.not_lt.mpr hfit), hroot, apply_ite Res.ok]
  rfl

theorem State.coreTook_sentBefore (s : State) (k : Site) : ((s.coreTook k).core k).sentBefore = (s.core k).sentBefore := by
  rw [State.coreTook_core]; rfl

theorem State.coreTook_fredFlits (s : State) (k : Site) (e : QEntry) (root : Site) :
    ((s.coreTook k).core k).fredFlits e root = (s.core k).fredFlits e root := by
  rw [State.coreTook_core]; rfl

theorem exec_fred_ok {s : State} {k : Site} {w : BitVec 56} {r : RootEntry} (h : s.coreIssues k .fred w = true)
    (hfit : fredLine (s.coreEntry k .fred w) + redLines (redOp w) (fredNf (s.coreEntry k .fred w)) ≤ 2048)
    (hroot : (s.core k).tab.root (fredTree (s.coreEntry k .fred w)) = some r) :
    exec (.fred k w) s = .next ((((s.coreTook k).fredSent k (s.coreEntry k .fred w)
      ((s.core k).fredFlits (s.coreEntry k .fred w) r.root)).complete k .transfer w).withQueueOf s) := by
  have hrun := opFred_ok (s := s.coreTook k) (k := k) (e := s.coreEntry k .fred w) (r := r) hfit
    (by rw [State.coreTook_tab]; exact hroot)
  rw [State.coreTook_fredFlits] at hrun
  exact exec_queue s k .fred w _ _ h rfl (by decide) hrun
    (calm_of_kept s k _ (s.coreIssues_rest k _ w h) (kept_fredSent ..))

/-! ### FMRG (R124, R184) -/

/-- The candidates of an FMRG's list, as its bytes stand in the activation store. -/
def Core.fmrgBytes (c : Core) (e : QEntry) : List Byte := c.rd 0 (fmrgList e) (8 * fmrgK e)

/-- The flits of an FMRG to a tree's root: the best of its list, sorted. -/
def Core.fmrgFlits (c : Core) (e : QEntry) (root : Site) (cohort : Nat) : List Flit :=
  listFlits (siteCanopy root) (siteG root) (siteH root) (fld e.word 30 25) (fmrgK e) cohort
    (topK (fmrgK e) ((List.range (fmrgK e)).map fun i => candOf (fieldAt (c.fmrgBytes e) (8 * i) 8)))

theorem opFmrg_ok {s : State} {k : Site} {e : QEntry} {r : RootEntry} (halign : (e.aReg (fld e.word 41 38)).toNat % 64 = 0)
    (hzero : ∀ i < fmrgK e, ((s.core k).fmrgBytes e).getD (8 * i + 7) 0#8 = 0#8)
    (hroot : (s.core k).tab.root (fld e.word 30 25) = some r) :
    opFmrg s k e = .ok (s.sendFlits k ((s.core k).fmrgFlits e r.root ((s.cohortOf k).getD 0))) := by
  unfold Core.fmrgBytes at hzero
  unfold opFmrg
  extract_lets c n tree bs
  rw [if_neg (Classical.not_not.mpr halign), if_neg (by simpa [n, bs, c] using hzero), hroot]
  rfl

theorem State.coreTook_cohortOf (s : State) (k j : Site) : (s.coreTook k).cohortOf j = s.cohortOf j := by
  unfold State.cohortOf
  rw [State.coreTook_tab]
  rfl

theorem State.coreTook_fmrgBytes (s : State) (k : Site) (e : QEntry) :
    ((s.coreTook k).core k).fmrgBytes e = (s.core k).fmrgBytes e := by simp only [Core.fmrgBytes, State.coreTook_rd]

theorem exec_fmrg_ok {s : State} {k : Site} {w : BitVec 56} {r : RootEntry} (h : s.coreIssues k .fmrg w = true)
    (halign : ((s.core k).areg (fld w 41 38)).toNat % 64 = 0)
    (hzero : ∀ i < fmrgK (s.coreEntry k .fmrg w), ((s.core k).fmrgBytes (s.coreEntry k .fmrg w)).getD (8 * i + 7) 0#8 = 0#8)
    (hroot : (s.core k).tab.root (fld w 30 25) = some r) :
    exec (.fmrg k w) s = .next ((((s.coreTook k).sendFlits k ((s.core k).fmrgFlits (s.coreEntry k .fmrg w) r.root
      ((s.cohortOf k).getD 0))).complete k .transfer w).withQueueOf s) := by
  have hrun := opFmrg_ok (s := s.coreTook k) (k := k) (e := s.coreEntry k .fmrg w) (r := r) halign
    (by rwa [State.coreTook_fmrgBytes]) (by rwa [State.coreTook_tab])
  rw [State.coreTook_cohortOf, Core.fmrgFlits, State.coreTook_fmrgBytes] at hrun
  exact exec_sends (op := .fmrg) h rfl (by decide) hrun (State.kept_refl ..)

/-- Settles O19: each send puts its own flits into the fabric, and the fabric takes those the step has not sent. -/
theorem sendsAndFlits : Obligations.SendsAndFlits := by
  refine ⟨⟨fun s k w mode dst chan => exec_fsend_ok, fun s k w r h hfit hroot => ?_, fun s k w r => exec_fmrg_ok⟩,
    fun s k fs => ⟨sendFlits_frame s k fs, fun j => core_sendFlits_other s fs, ?_, ?_, ?_⟩⟩
  · have hexec := exec_fred_ok h hfit hroot
    unfold State.fredSent at hexec
    rwa [State.coreTook_sentBefore] at hexec
  · rw [core_sendFlits_same]
    exact fun _ _ _ => rfl
  · rw [core_sendFlits_same]
  · rw [core_sendFlits_same]
    exact ledgerSent_getD fs.length

end Sys2Proof.Machine
end

section
/-! SUPPORT and SETTLED. The vector unit's register format: its instructions by their lanes, and their frame (R136, R159,
R162 to R167, R471, R472). The sum and the maximum over excluded lanes are the model's choice (notes/assumptions/58). -/

namespace Sys2Proof.Machine

/-! ### The commands of the format (R159, R164) -/

/-- The instructions that read up to three vector registers and write one, or a predicate register, with their commands. -/
def registerCmds (k : Site) (w : BitVec 56) : List (CoreOp × Instr) :=
  [(.vadd, .vadd k w), (.vsub, .vsub k w), (.vmul, .vmul k w), (.vfma, .vfma k w), (.vmax, .vmax k w), (.vmin, .vmin k w),
    (.vuna, .vuna k w), (.vcmp, .vcmp k w), (.vsel, .vsel k w), (.vbcst, .vbcst k w), (.vred, .vred k w), (.vcvt, .vcvt k w),
    (.vexp2, .vexp2 k w), (.vrcp, .vrcp k w), (.vrsq, .vrsq k w), (.vlog2, .vlog2 k w)]

/-- A command brings its core an instruction that the vector queue runs by `opVecReg`. -/
structure RegisterFormat (k : Site) (w : BitVec 56) (op : CoreOp) (i : Instr) : Prop where
  exec_eq : ∀ s, exec i s = onUnit k.ok s fun s => s.fetched k op w
  queue_eq : op.queue = .vector
  run_eq : ∀ s : State, runOp (s.coreTook k) k (s.coreEntry k op w) false = opVecReg (s.coreTook k) k (s.coreEntry k op w)

theorem registerFormat_of_mem {k : Site} {w : BitVec 56} :
    ∀ x ∈ registerCmds k w, RegisterFormat k w x.1 x.2 := by
  intro x hx
  simp only [registerCmds, List.mem_cons, List.not_mem_nil, or_false] at hx
  rcases hx with rfl | rfl | rfl | rfl | rfl | rfl | rfl | rfl | rfl | rfl | rfl | rfl | rfl | rfl | rfl | rfl <;>
    exact ⟨fun _ => rfl, rfl, fun _ => rfl⟩

/-- A register written while the core takes the instruction leaves it calm. -/
theorem calm_took_map {s : State} {k : Site} {f : Core → Core} (h : (s.core k).rest = true)
    (hf : ∀ d, (s.core k).calm d = true → (s.core k).calm (f d) = true) :
    (s.core k).calm (((s.coreTook k).mapCore k f).core k) = true := by
  rw [State.core_mapCore_same]
  exact hf _ (calm_took s k h)

/-! ### Instructions by their lanes (R162 to R167) -/

/-- An instruction whose lanes are a function of its operands' lanes completes with those lanes. -/
theorem endsAs_lanes {s : State} {k : Site} {w : BitVec 56} {op : CoreOp} {i : Instr} {f : Nat → Word}
    (h : s.coreIssues k op w = true)
    (hf : vecLanes op w (s.coreEntry k op w) ((s.core k).preg (fld w 24 22)) ((s.core k).laneMask w)
      ((s.core k).vreg (fld w 36 32)) ((s.core k).vreg (fld w 31 27)) ((s.core k).vreg (fld w 26 22)) =
        vregOf ((List.range 64).map f))
    (hcmd : (op, i) ∈ registerCmds k w := by simp [registerCmds])
    (hop : op ∉ [CoreOp.vcmp, .vred, .vrot, .vrope, .vbcst] := by decide) :
    s.endsAs k w i (s.lanesDone k w f) := by
  simp only [List.mem_cons, List.not_mem_nil, or_false, not_or] at hop
  obtain ⟨hcmp, hred, hrot, hrope, hbcst⟩ := hop
  obtain ⟨hexec, hqueue, hrun⟩ := registerFormat_of_mem _ hcmd
  refine endsAs_of_op s k op w i _ h (hexec s) hqueue (calm_lanesDone s k w f (s.coreIssues_rest k op w h)) ?_
  rw [hrun]
  refine opVecReg_lanes s k op w f hcmp hred (by simp [hcmp, hrot, hrope]) fun vs hvs => ?_
  rw [hvs hbcst]
  exact hf

/-- Settles O8: VSEL, VCVT and the special functions by their lanes, VRED by its one value, VCMP by its bits. -/
theorem vectorSelectConvert : Obligations.VectorSelectConvert := by
  refine ⟨⟨fun _ _ _ h => endsAs_lanes h rfl, fun s k w h => ?vred, fun s k w h => ?vcmp⟩,
    fun _ _ _ h => endsAs_lanes h rfl, fun _ _ _ h => endsAs_lanes h rfl, fun _ _ _ h => endsAs_lanes h rfl,
    fun _ _ _ h => endsAs_lanes h rfl, fun _ _ _ h => endsAs_lanes h rfl⟩
  case vred =>
    exact endsAs_of_op s k .vred w _ _ h rfl rfl
      (calm_took_map (s.coreIssues_rest k _ w h) fun d hd => Core.calm_setV _ d _ _ hd) (opVecReg_red s k w)
  case vcmp =>
    exact endsAs_of_op s k .vcmp w _ _ h rfl rfl
      (calm_took_map (s.coreIssues_rest k _ w h) fun d hd => Core.calm_setP _ d _ _ hd) (opVecReg_cmp s k w)

/-! ### VBCST (R164) -/

theorem vecLanes_vbcst (s : State) (k : Site) (w : BitVec 56) (psel mask : DWord) (va vb vc : VReg) :
    vecLanes .vbcst w (s.coreEntry k .vbcst w) psel mask va vb vc = vregOf ((List.range 64).map fun _ =>
      if flag w 36 then BitVec.ofNat 32 (fld w 31 0) else (s.core k).sreg (fld w 4 0)) := by
  rw [List.map_const', List.length_range]
  rfl

theorem legalWord_vbcst {w : BitVec 56} (h : legalWord .vbcst w = true) :
    fld w 35 32 = 0 ∧ (flag w 36 = false → fld w 31 5 = 0) := by
  simp only [legalWord, Bool.and_eq_true, beq_iff_eq, Bool.or_eq_true] at h
  obtain ⟨⟨-, hreserved⟩, hsource⟩ := h
  exact ⟨hreserved, fun himm => hsource.resolve_left (by simp [himm])⟩

/-- Settles O9: the value that every lane takes, and the bits that a legal word leaves 0. -/
theorem broadcast : Obligations.Broadcast := by
  refine ⟨fun s k w h => ?_, fun w => legalWord_vbcst⟩
  exact endsAs_of_op s k .vbcst w _ _ h rfl rfl (calm_lanesDone s k w _ (s.coreIssues_rest k _ w h))
    (opVecReg_lanes s k .vbcst w _ (by decide) (by decide) (by decide) fun _ _ => vecLanes_vbcst s k w _ _ _ _ _)

/-! ### The frame (R136, R139, R159, R162, R472) -/

/-- An instruction of the format but VCMP writes VD. -/
theorem opVecReg_writes_vd (s : State) (k : Site) {e : QEntry} (hop : e.op ≠ .vcmp) :
    ∃ r m, opVecReg s k e = .ok ((s.mapCore k fun c => c.setV (fld e.word 41 37) r).dupNote k m) :=
  ⟨_, _, if_neg hop⟩

/-- A command of the format whose operation is noted for duplication completes at once. -/
theorem exec_noted {s t : State} {k : Site} {w : BitVec 56} {op : CoreOp} {i : Instr} {m : DupMsg}
    (hcmd : RegisterFormat k w op i) (h : s.coreIssues k op w = true) (hcalm : (s.core k).calm (t.core k) = true)
    (hrun : opVecReg (s.coreTook k) k (s.coreEntry k op w) = .ok (t.dupNote k m)) :
    exec i s = .next ((t.vectorEnd k w m).withQueueOf s) := by
  obtain ⟨hexec, hqueue, hop⟩ := hcmd
  have hdone := exec_queue s k op w i _ h (hexec s) (by rw [hqueue]; decide) ((hop s).trans hrun) (calm_dupNote _ _ k m hcalm)
  rwa [hqueue] at hdone

theorem Core.vreg_congr {c d : Core} (h : d.v = c.v) (n : Nat) : d.vreg n = c.vreg n := by rw [Core.vreg, h]; rfl

theorem Core.preg_congr {c d : Core} (h : d.p = c.p) (n : Nat) : d.preg n = c.preg n := by rw [Core.preg, h]; rfl

theorem sameRegs_vectorEnd (t : State) (k : Site) (w : BitVec 56) (m : DupMsg) :
    (t.core k).sameRegs ((t.vectorEnd k w m).core k) :=
  Core.sameRegs_trans _ _ _ (sameRegs_dupNote t k m).1 (sameRegs_complete ..)

theorem sameTokens_vectorEnd (t : State) (k : Site) (w : BitVec 56) (m : DupMsg) :
    (t.core k).sameTokens ((t.vectorEnd k w m).core k) w := by
  intro n hn
  refine (sameTokens_complete _ k .vector w n hn).trans ?_
  rw [Core.tok, (sameRegs_dupNote t k m).2]
  rfl

/-- What a command of the format leaves whose operation changes vector and predicate registers alone. -/
theorem frame_noted {s t : State} {k : Site} {w : BitVec 56} {op : CoreOp} {i : Instr} {m : DupMsg} {f : Core → Core}
    (hcmd : RegisterFormat k w op i) (h : s.coreIssues k op w = true) (ht : exec i s = .next t)
    (hrun : opVecReg (s.coreTook k) k (s.coreEntry k op w) = .ok (((s.coreTook k).mapCore k f).dupNote k m))
    (hf : ∀ c, f c = { c with v := (f c).v, p := (f c).p }) :
    s.onlyCore t k ∧ (s.core k).sameStores (t.core k) ∧ (s.core k).sameTokens (t.core k) w ∧
      (t.core k).s = (s.core k).s ∧ (t.core k).a = (s.core k).a ∧
      (∀ n, (t.core k).vreg n = (f ((s.coreTook k).core k)).vreg n) ∧
      ∀ n, (t.core k).preg n = (f ((s.coreTook k).core k)).preg n := by
  have hcalm : (s.core k).calm (((s.coreTook k).mapCore k f).core k) = true :=
    calm_took_map (s.coreIssues_rest k op w h) fun d hd => by rw [hf]; exact hd
  have honly : s.onlyCore (((s.coreTook k).mapCore k f).vectorEnd k w m) k :=
    State.onlyCore_trans _ _ _ _ (State.onlyCore_trans _ _ _ _ (s.onlyCore_coreTook k) (State.onlyCore_mapCore ..))
      (State.onlyCore_vectorEnd ..)
  have hexec := exec_noted hcmd h hcalm hrun
  rw [s.onlyCore_queue _ k honly] at hexec
  obtain rfl := Host.Outcome.next.inj (ht.symm.trans hexec)
  have hregs := sameRegs_vectorEnd ((s.coreTook k).mapCore k f) k w m
  have htokens := sameTokens_vectorEnd ((s.coreTook k).mapCore k f) k w m
  rw [State.core_mapCore_same] at hregs htokens
  have hstores := Core.sameRegs_stores _ _ hregs
  obtain ⟨hv, hs, ha, hp, -⟩ := hregs
  have hd := hf ((s.coreTook k).core k)
  refine ⟨honly, fun st a n => (hstores st a n).trans ?_, fun n hn => (htokens n hn).trans ?_, hs.trans ?_, ha.trans ?_,
    Core.vreg_congr hv, Core.preg_congr hp⟩ <;> rw [hd, State.coreTook_core] <;> rfl

/-- Settles O10: VCMP writes p[PD], every other instruction of the format VD, and the rest is as it was. -/
theorem vectorFrame : Obligations.VectorFrame := by
  intro s t k w ⟨op, i⟩ hx h ht
  have hcmd := registerFormat_of_mem _ hx
  by_cases hop : op = .vcmp
  · subst hop
    obtain ⟨m, -, hrun⟩ := opVecReg_cmp s k w
    obtain ⟨honly, hstores, htokens, hs, ha, hv, hp⟩ := frame_noted hcmd h ht hrun fun _ => rfl
    refine ⟨honly, hstores, htokens, hs, ha, fun n _ => (hv n).trans (s.coreTook_vreg k n), fun n hn => ?_⟩
    exact ((hp n).trans (preg_setP _ _ _ _ fun hpd => hn ⟨rfl, hpd⟩)).trans (s.coreTook_preg k n)
  · obtain ⟨r, m, hrun⟩ := opVecReg_writes_vd (s.coreTook k) k (e := s.coreEntry k op w) hop
    obtain ⟨honly, hstores, htokens, hs, ha, hv, hp⟩ := frame_noted hcmd h ht hrun fun _ => rfl
    refine ⟨honly, hstores, htokens, hs, ha, fun n hn => ?_, fun n _ => (hp n).trans (s.coreTook_preg k n)⟩
    exact ((hv n).trans (vreg_setV _ _ _ _ fun hvd => hn ⟨hop, hvd⟩)).trans (s.coreTook_vreg k n)

end Sys2Proof.Machine
end

section
/-! SUPPORT and SETTLED. VLD and VST: the lanes or bytes they move, and what they leave unchanged (R136, R160, R168). -/

namespace Sys2Proof.Machine

theorem exec_vld_ok {s : State} {k : Site} {w : BitVec 56} (h : s.coreIssues k .vld w = true) (hok : s.vmemOk k .vld w) :
    let x := vmemAcc (s.coreEntry k .vld w)
    exec (.vld k w) s = .next (((s.lanesDone k w fun i => BitVec.ofNat 32
      (fieldAt ((s.core k).rd x.1 x.2.1 x.2.2) (packWidth w * i) (packWidth w))).complete k .vector w).withQueueOf s) :=
  exec_queue s k .vld w _ _ h rfl (by decide) (opVld_ok s k w hok) (calm_lanesDone s k w _ (s.coreIssues_rest k _ w h))

/-- What a completed instruction that gave VD new lanes leaves unchanged. -/
theorem lanesDone_frame (s : State) (k : Site) (w : BitVec 56) (f : Nat → Word) :
    let t := ((s.lanesDone k w f).complete k .vector w).withQueueOf s
    s.onlyCore t k ∧ (s.core k).sameStores (t.core k) ∧ (s.core k).sameTokens (t.core k) w ∧
      (t.core k).s = (s.core k).s ∧ (t.core k).a = (s.core k).a ∧ (t.core k).p = (s.core k).p ∧
      ∀ n, n ≠ fld w 41 37 → (t.core k).vreg n = (s.core k).vreg n := by
  intro t
  have honly : s.onlyCore ((s.lanesDone k w f).complete k .vector w) k :=
    State.onlyCore_trans _ _ _ _ (State.onlyCore_trans _ _ _ _ (s.onlyCore_coreTook k) (State.onlyCore_mapCore ..))
      (State.onlyCore_complete ..)
  have ht : t = (s.lanesDone k w f).complete k .vector w := s.onlyCore_queue _ k honly
  rw [ht]
  obtain ⟨hstores, hregs⟩ := setV_regs s _ k _ _ (sameRegs_complete (s.lanesDone k w f) k .vector w)
  exact ⟨honly, hstores, setV_tokens s k .vector w _ _, hregs⟩

/-- The bytes VST lays are as many as its operand holds. -/
theorem vstBytes_length (s : State) (k : Site) (w : BitVec 56) :
    let x := vmemAcc (s.coreEntry k .vst w)
    ((List.range 64).flatMap fun i =>
      if s.active k w i then natLe (packWidth w) (lane ((s.core k).vreg (fld w 41 37)) i).toNat
      else (((s.core k).rd x.1 x.2.1 x.2.2).drop (packWidth w * i)).take (packWidth w)).length = 64 * packWidth w := by
  intro x
  refine (flatMap_length_const _ _ (packWidth w) fun i hi => ?_).trans (by rw [List.length_range])
  split
  · exact natLe_length ..
  · have hlen : x.2.2 = 64 * packWidth w := vmemAcc_len _
    rw [List.length_take, List.length_drop, Core.rd_length, hlen, ← Nat.mul_comm (packWidth w), ← Nat.mul_sub]
    have := List.mem_range.mp hi
    exact Nat.min_eq_left (Nat.le_mul_of_pos_right _ (by omega))

/-- Settles O11: what VLD and VST do with an operand in its window, then the frame of each. -/
theorem vectorMemory : Obligations.VectorMemory := by
  refine ⟨⟨fun s k w => exec_vld_ok, fun s k w => exec_vst_ok⟩, fun s t k w h hok ht => ?_, fun s t k w h hok ht => ?_⟩
  · obtain rfl := Host.Outcome.next.inj (ht.symm.trans (exec_vld_ok h hok))
    exact lanesDone_frame ..
  · obtain rfl := Host.Outcome.next.inj (ht.symm.trans (exec_vst_ok h hok))
    refine wroteOnly_complete s _ k .vector w _ (stored_vst ..) (sameBut_took s _ k _ ?_)
    split
    · exact fun _ _ _ _ _ _ => rfl
    · have hst : (vmemAcc (s.coreEntry k .vst w)).1 ≤ 3 := by
        rcases vmemAcc_st (s.coreEntry k .vst w) with hst | hst <;> omega
      rw [← vstBytes_length s k]
      exact sameBut_jwrite _ _ _ _ _ _ hst

end Sys2Proof.Machine
end

section
/-! SUPPORT and SETTLED. The fused commands: ATTEND head by head, GATE and SAMPLE-FEED row by row (R154, R190 to R194, R196 to
R200). What ATTEND leaves in its scratch lines, GATE's ranks beyond its experts and the sampled operations inside a command
are free values, the model's choice (notes/assumptions/2, 29, 70), as is a query without visible positions (71). -/

namespace Sys2Proof.Machine

theorem kept_fusedOps (s : State) (k : Site) : s.kept (s.fusedOps k) k :=
  State.kept_mapCore s k (fun c => { c with dupOp := c.dupOp + Config.fusedOps s.free })
    ⟨rfl, rfl, rfl, rfl, rfl, rfl, rfl, rfl⟩

/-! ### Appends (R194, R256, R260, R264) -/

theorem kept_putHead (s : State) (k : Site) (kv4 isK : Bool) (frameAt : Nat → Option Nat) (t : Nat) (codes : List Int)
    (scales : List Byte) : s.kept (s.putHead k kv4 isK frameAt t codes scales) k := by
  unfold State.putHead
  extract_lets s1 per
  refine State.kept_trans (State.kept_foldl k _ (fun u x => ?_) _ s) (State.kept_foldl k _ (fun u x => ?_) _ s1)
  · split
    · exact kept_jwrite ..
    · exact State.kept_refl ..
  · split
    · exact kept_jwrite ..
    · exact State.kept_refl ..

theorem core_clipRow (s : State) (cohort row : Nat) (k : Site) : (s.clipRow cohort row).core k = s.core k := by
  unfold State.clipRow
  split
  · rfl
  · split <;> rfl

theorem kept_attendAppend (s : State) (k : Site) (d : AttendDesc) (fs : List Word) (h r : Nat) :
    s.kept (s.attendAppend k d fs h r) k := by
  unfold State.attendAppend
  extract_lets c row kv4 bind frameAt off kx0 kx vx kq vq t s1 s2 bad s3
  have h2 : s.kept s2 k := State.kept_trans (kept_putHead ..) (kept_putHead ..)
  have h3 : s.kept s3 k := State.kept_trans h2 (kept_countCode ..)
  refine State.kept_ite _ _ _ _ _ (State.kept_refl ..) (State.kept_ite _ _ _ _ _ h2 ?_)
  split
  · exact State.kept_trans h3 (State.kept_of_core _ _ _ (core_clipRow ..))
  · exact h3

/-! ### ATTEND (R191 to R194) -/

/-- A head's appends, then its rows' outputs. -/
def State.attendHead (s : State) (k : Site) (d : AttendDesc) (fs : List Word) (h : Nat) : State :=
  (List.range d.nr).foldl (fun t r =>
    ((t.core k).attendOut t.kv4 d fs h r).foldl (fun t x => t.jwrite k 0 x.1 x.2 false) t)
    ((List.range d.nr).foldl (fun t r => t.attendAppend k d fs h r) s)

/-- Every head done, with the scratch lines and the sampled operations counted. -/
def State.attended (s : State) (k : Site) (d : AttendDesc) (fs : List Word) : State :=
  (((List.range d.nh).foldl (fun t h => t.attendHead k d fs h) s).scratch k d.psb 128).fusedOps k

/-- The array holds no tile, and all its columns are on. -/
def Core.tilesCleared (c : Core) : Core := { c with active := none, shadow := none, inflight := none, cols := 64 }

theorem Core.calm_tilesCleared {c d : Core} (h : c.calm d = true) : c.calm d.tilesCleared = true := by
  obtain ⟨hstream, haq, hvq, htq, -, hheld, ht⟩ := (Core.calm_iff _ _).mp h
  exact (Core.calm_iff _ _).mpr ⟨hstream, haq, hvq, htq, rfl, hheld, ht⟩

theorem kept_scratch (s : State) (k : Site) (line n : Nat) : s.kept (s.scratch k line n) k := by
  exact State.kept_of_stored s (s.setCore k _) k (State.stored_setCore s k _ (Core.stored_wrRaw (s.core k) 2 (lineAddr line)
    (bytesOfWords ((List.range (64 * n)).map fun i => Config.freeWord (s.free + i)))))

theorem kept_attendHead (s : State) (k : Site) (d : AttendDesc) (fs : List Word) (h : Nat) : s.kept (s.attendHead k d fs h) k :=
  State.kept_trans (State.kept_foldl k _ (fun _ r => kept_attendAppend _ k d fs h r) _ _)
    (State.kept_foldl k _ (fun t _ => State.kept_foldl k _ (fun _ _ => kept_jwrite ..) _ t) _ _)

theorem kept_attended (s : State) (k : Site) (d : AttendDesc) (fs : List Word) : s.kept (s.attended k d fs) k :=
  State.kept_trans (State.kept_foldl k _ (fun _ h => kept_attendHead _ k d fs h) _ _)
    (State.kept_trans (kept_scratch ..) (kept_fusedOps ..))

theorem opAttend_ok {s : State} {k : Site} {e : QEntry} {d : AttendDesc} {fs : List Word}
    (hflight : (s.core k).inflight = none) (halign : fusedAligned e = true)
    (hdesc : attendDesc ((s.core k).rd 0 (fusedAddr e) 128) = (d, true))
    (hfreqs : (s.core k).freqs (d.faddr % 2 ^ 21) (d.hd / 2) = some fs) (hpsb : d.psb + 128 ≤ 2048)
    (hwin : ∀ f ∈ (s.core k).attendFrames d, (s.core k).inWindow 1 ((s.core k).tab.frameAddr f) frameBytes = true) :
    opAttend s k e = .ok ((s.attended k d fs).mapCore k Core.tilesCleared) := by
  have hframes : ((s.core k).attendFrames d).find? (fun f =>
      !(s.core k).inWindow 1 ((s.core k).tab.frameAddr f) frameBytes) = none :=
    List.find?_eq_none.mpr fun f hf => by simp [hwin f hf]
  unfold opAttend
  simp only [hdesc, hflight, halign, hfreqs, hframes, if_neg (Nat.not_lt.mpr hpsb), Bool.not_true, Bool.or_self,
    Bool.false_eq_true, if_false]
  rfl

theorem Core.chainFrom_congr {c d : Core} (h : ∀ f, d.frameRec f = c.frameRec f) (n f : Nat) :
    d.chainFrom n f = c.chainFrom n f := by
  induction n generalizing f with
  | zero => rfl
  | succ n ih => simp only [Core.chainFrom, h, ih]

/-- A pair's chain is read off the directory and the frame records (R262 to R264). -/
theorem Core.chain_congr {c d : Core} (hframe : ∀ f, d.frameRec f = c.frameRec f)
    (hway : ∀ b w, d.dirWay b w = c.dirWay b w) (seq bind : Nat) : d.chain seq bind = c.chain seq bind := by
  simp only [Core.chain, Core.findWay, hway, Core.chainFrom_congr hframe]

theorem State.coreTook_attendFrames (s : State) (k : Site) (d : AttendDesc) :
    ((s.coreTook k).core k).attendFrames d = (s.core k).attendFrames d := by
  have hchain : ∀ seq bind, ((s.coreTook k).core k).chain seq bind = (s.core k).chain seq bind := by
    rw [State.coreTook_core]
    exact Core.chain_congr (fun _ => rfl) fun _ _ => rfl
  simp only [Core.attendFrames, Core.attendRow, hchain, State.coreTook_rd]

theorem exec_attend_ok {s : State} {k : Site} {w : BitVec 56} {d : AttendDesc} {fs : List Word}
    (h : s.coreIssues k .attend w = true) (hflight : (s.core k).inflight = none)
    (halign : fusedAligned (s.coreEntry k .attend w) = true)
    (hdesc : attendDesc ((s.core k).rd 0 (fusedAddr (s.coreEntry k .attend w)) 128) = (d, true))
    (hfreqs : (s.core k).freqs (d.faddr % 2 ^ 21) (d.hd / 2) = some fs) (hpsb : d.psb + 128 ≤ 2048)
    (hwin : ∀ f ∈ (s.core k).attendFrames d, (s.core k).inWindow 1 ((s.core k).tab.frameAddr f) frameBytes = true) :
    exec (.attend k w) s = .next (((((s.coreTook k).attended k d fs).mapCore k Core.tilesCleared).complete
      k .array w).withQueueOf s) := by
  have hrun : opAttend (s.coreTook k) k (s.coreEntry k .attend w) = _ :=
    opAttend_ok (by rw [State.coreTook_core]; exact hflight) halign (by rw [State.coreTook_rd]; exact hdesc)
      ((s.coreTook_freqs ..).trans hfreqs) hpsb
      (by simpa only [State.coreTook_attendFrames, State.coreTook_inWindow, State.coreTook_tab] using hwin)
  refine exec_queue s k .attend w _ _ h rfl (by decide) hrun ?_
  rw [State.core_mapCore_same]
  exact Core.calm_tilesCleared (calm_of_kept s k _ (s.coreIssues_rest k _ w h) (kept_attended (s.coreTook k) k d fs))

/-! ### GATE (R196 to R198) -/

/-- One row's records, and the free values that ranks beyond the experts may take. -/
def State.gateRow (s : State) (k : Site) (d : GateDesc) (bias : List Word) (r : Nat) : State :=
  let xs := (List.range d.e).map fun i => ((s.core k).line (d.psl + r * ceilDiv d.e 64 + i / 64)).getD (i % 64) 0#32
  let u := s.jwrite k 0 (d.oaddr + 4 * d.k * r) (gateRecords d s.free xs bias) false
  { u with free := s.free + d.k }

theorem kept_gateRow (s : State) (k : Site) (d : GateDesc) (bias : List Word) (r : Nat) : s.kept (s.gateRow k d bias r) k := by
  unfold State.gateRow
  extract_lets xs u
  exact State.kept_trans (kept_jwrite ..) (State.kept_of_core u _ k rfl)

/-- The biases of a gate's experts: none where BADDR is all ones. -/
def Core.gateBias (c : Core) (d : GateDesc) : List Word := if d.baddr = 0xFFFFFFFF then [] else c.words d.baddr d.e

theorem opGate_ok {s : State} {k : Site} {e : QEntry} {d : GateDesc} (halign : fusedAligned e = true)
    (hdesc : gateDesc ((s.core k).rd 0 (fusedAddr e) 64) = (d, true)) (hfits : d.psl + d.nr * ceilDiv d.e 64 ≤ 2048) :
    opGate s k e = .ok (((List.range d.nr).foldl (fun t r => t.gateRow k d ((s.core k).gateBias d) r) s).fusedOps k) := by
  unfold opGate
  simp only [hdesc, halign, if_neg (Nat.not_lt.mpr hfits), Bool.not_true, Bool.or_self, Bool.false_eq_true, if_false]
  rfl

theorem State.coreTook_gateBias (s : State) (k : Site) (d : GateDesc) :
    ((s.coreTook k).core k).gateBias d = (s.core k).gateBias d := by
  rw [State.coreTook_core]; rfl

theorem exec_gate_ok {s : State} {k : Site} {w : BitVec 56} {d : GateDesc} (h : s.coreIssues k .gate w = true)
    (halign : fusedAligned (s.coreEntry k .gate w) = true)
    (hdesc : gateDesc ((s.core k).rd 0 (fusedAddr (s.coreEntry k .gate w)) 64) = (d, true))
    (hfits : d.psl + d.nr * ceilDiv d.e 64 ≤ 2048) :
    exec (.gate k w) s = .next (((((List.range d.nr).foldl (fun t r => t.gateRow k d ((s.core k).gateBias d) r)
      (s.coreTook k)).fusedOps k).complete k .array w).withQueueOf s) := by
  have hrun : opGate (s.coreTook k) k (s.coreEntry k .gate w) = _ :=
    opGate_ok halign (by rw [State.coreTook_rd]; exact hdesc) hfits
  rw [State.coreTook_gateBias] at hrun
  exact exec_queue s k .gate w _ _ h rfl (by decide) hrun (calm_of_kept s k _ (s.coreIssues_rest k _ w h)
    (State.kept_trans (State.kept_foldl k _ (fun _ _ => kept_gateRow ..) _ _) (kept_fusedOps ..)))

/-! ### SAMPLE-FEED (R199, R200) -/

section
variable {s : State} {k : Site} {e : QEntry} {d : FeedDesc} (halign : fusedAligned e = true)
  (hdesc : feedDesc ((s.core k).rd 0 (fusedAddr e) 64) = (d, true)) (hfits : d.psl + d.nr * ceilDiv d.nv 64 ≤ 2048)
include halign hdesc hfits

theorem opSampleFeed_none (hnr : d.nr = 0) : opSampleFeed s k e = .ok (s.sendFlits k []) := by
  unfold opSampleFeed
  simp only [hdesc, halign, if_neg (Nat.not_lt.mpr hfits), Bool.not_true, Bool.or_self, Bool.false_eq_true, if_false,
    if_pos hnr]

theorem opSampleFeed_rows {r : RootEntry} (hnr : d.nr ≠ 0) (hroot : (s.core k).tab.root d.tree = some r) :
    opSampleFeed s k e = .ok (s.sendFlits k ((List.range d.nr).flatMap fun i =>
      (s.core k).feedRow d r.root ((s.cohortOf k).getD 0) i)) := by
  unfold opSampleFeed
  simp only [hdesc, halign, if_neg (Nat.not_lt.mpr hfits), Bool.not_true, Bool.or_self, Bool.false_eq_true, if_false,
    if_neg hnr, hroot]

end

theorem State.coreTook_feedRow (s : State) (k : Site) (d : FeedDesc) (root : Site) (cohort i : Nat) :
    ((s.coreTook k).core k).feedRow d root cohort i = (s.core k).feedRow d root cohort i := by
  rw [State.coreTook_core]; rfl

section
variable {s : State} {k : Site} {w : BitVec 56} {d : FeedDesc} (h : s.coreIssues k .sampleFeed w = true)
  (halign : fusedAligned (s.coreEntry k .sampleFeed w) = true)
  (hdesc : feedDesc ((s.core k).rd 0 (fusedAddr (s.coreEntry k .sampleFeed w)) 64) = (d, true))
  (hfits : d.psl + d.nr * ceilDiv d.nv 64 ≤ 2048)
include h halign hdesc hfits

theorem exec_sampleFeed_none (hnr : d.nr = 0) :
    exec (.sampleFeed k w) s = .next ((((s.coreTook k).sendFlits k []).complete k .array w).withQueueOf s) :=
  exec_sends (op := .sampleFeed) h rfl (by decide)
    (opSampleFeed_none halign (by rw [State.coreTook_rd]; exact hdesc) hfits hnr) (State.kept_refl ..)

theorem exec_sampleFeed_rows {r : RootEntry} (hnr : d.nr ≠ 0) (hroot : (s.core k).tab.root d.tree = some r) :
    exec (.sampleFeed k w) s = .next ((((s.coreTook k).sendFlits k ((List.range d.nr).flatMap fun i =>
      (s.core k).feedRow d r.root ((s.cohortOf k).getD 0) i)).complete k .array w).withQueueOf s) := by
  have hrun := opSampleFeed_rows (s := s.coreTook k) halign (by rw [State.coreTook_rd]; exact hdesc) hfits hnr
    (by rwa [State.coreTook_tab])
  simp only [State.coreTook_feedRow, State.coreTook_cohortOf] at hrun
  exact exec_sends (op := .sampleFeed) h rfl (by decide) hrun (State.kept_refl ..)

end

/-- Settles O21: each command by the steps its legal descriptor asks for. -/
theorem fusedCommands : Obligations.FusedCommands := by
  refine ⟨fun s k w fs h hflight halign hlegal hfreqs hpsb hwin => ?_, fun s k w h halign hlegal hfits => ?_,
    fun s k w h halign hlegal hfits => ⟨fun hnr => ?_, fun r hnr hroot => ?_⟩⟩
  · exact exec_attend_ok h hflight halign (Prod.ext rfl hlegal) hfreqs hpsb hwin
  · exact exec_gate_ok h halign (Prod.ext rfl hlegal) hfits
  · exact exec_sampleFeed_none h halign (Prod.ext rfl hlegal) hfits hnr
  · exact exec_sampleFeed_rows h halign (Prod.ext rfl hlegal) hfits hnr hroot

end Sys2Proof.Machine
end

section
/-! SUPPORT and SETTLED. A word that is no legal instruction: dispatch stops there and reports it (R137, R138, R466, R475). -/

namespace Sys2Proof.Machine

/-- The core with one fetched instruction before its front end. -/
def State.oneFetched (s : State) (k : Site) (op : CoreOp) (w : BitVec 56) : State :=
  s.setCore k { s.core k with stream := [s.coreEntry k op w] }

/-- The front end has stopped at an illegal word and reported it. -/
def State.dispatchStopped (s : State) (k : Site) (op : CoreOp) (w : BitVec 56) : State :=
  (s.mapCore k fun c => { c with stopped := [QueueId.front] }).raise
    { code := 0x0205, cls := .contained, kind := 0, loc := s.coreLoc k, iidx := some (s.core k).idx
      arg0 := (wordOfOp op w).toNat, arg1 := QueueId.front.num }

/-- A fetched word joins the stream of a core at rest, and the pump starts. -/
theorem fetched_eq_pump {s : State} {k : Site} (op : CoreOp) (w : BitVec 56) (hrun : s.coreRuns k = true)
    (hrest : (s.core k).rest = true) : s.fetched k op w = pump k 12 (s.oneFetched k op w) := by
  obtain ⟨hstream, haq, hvq, htq, -⟩ := (Core.rest_iff _).mp hrest
  have hwork : ({ s.core k with stream := [s.coreEntry k op w] } : Core).work = 12 := by simp [Core.work, haq, hvq, htq]
  unfold State.fetched
  simp only [hrun, Bool.not_true, Bool.false_eq_true, if_false, hstream, List.nil_append, State.pumpCore,
    State.core_setCore_same]
  exact congrArg (pump k · _) hwork

/-- What the front end makes of the word is all that happens, if it leaves the core nothing to move. -/
theorem fetched_dispatched {s u : State} {k : Site} {op : CoreOp} {w : BitVec 56} (hrun : s.coreRuns k = true)
    (hrest : (s.core k).rest = true) (hdispatch : dispatchHead (s.oneFetched k op w) k = some u) (hidle : (u.core k).idle)
    (hsettled : (u.core k).settled = true) : s.fetched k op w = u := by
  obtain ⟨-, haq, hvq, htq, -, -, -, -, hheld, -⟩ := (Core.rest_iff _).mp hrest
  obtain ⟨hstream', haq', hvq', htq', hheld'⟩ := hidle
  have hcore : (s.oneFetched k op w).core k = { s.core k with stream := [s.coreEntry k op w] } := State.core_setCore_same ..
  have hissue : ∀ q, issueHead (s.oneFetched k op w) k q = none := fun q =>
    issueHead_empty _ k q (by rw [hcore]; cases q <;> [exact haq; exact hvq; exact htq; rfl])
  have hround : pumpRound (s.oneFetched k op w) k = (u, true) := by
    refine pumpRound_eq _ k (s.oneFetched k op w, false) (s.oneFetched k op w, false) (s.oneFetched k op w, false) _
      (by rw [hcore]; exact hheld) ?_ ?_ ?_ ?_
    · rw [hissue]
    · rw [hissue]
    · rw [hissue]
    · rw [hdispatch]
  have hrun' : (s.oneFetched k op w).coreRuns k = true := by
    simpa [State.oneFetched, State.coreRuns, State.clocksStopped] using hrun
  rw [fetched_eq_pump op w hrun hrest, pump_go k 11 _ u hrun' hround, State.promote_settled u k hsettled]
  exact pump_empty k 11 u hstream' haq' hvq' htq' hheld'

/-- The front end takes an illegal word off the stream and stops (R137, R138). -/
theorem dispatchHead_illegal {s : State} {k : Site} {x : QEntry} (hstream : (s.core k).stream = [x])
    (hgo : ¬(QueueId.front ∈ (s.core k).stopped ∨ (s.core k).atBarrier = true ∨
      ((s.core k).heldSignals.any fun y => y.1 == QueueId.front) = true))
    (hinside : ¬(0 < (s.kindWords k).length ∧ (s.kindWords k).length ≤ (s.core k).idx))
    (hparity : ¬(3, (s.core k).idx) ∈ (s.core k).badParity) (hillegal : legalWord x.op x.word = false) :
    dispatchHead s k = some ((s.setCore k { s.core k with stream := [] }).illegal k .front
      { x with idx := (s.core k).idx, ord := (s.core k).dispatched, s := (s.core k).s, a := (s.core k).a }) := by
  unfold dispatchHead
  simp only [hstream]
  rw [if_neg hgo, if_neg hinside, if_neg hparity, if_pos (by rw [hillegal]; rfl)]

theorem dispatchHead_oneFetched {s : State} {k : Site} {op : CoreOp} {w : BitVec 56} (hrest : (s.core k).rest = true)
    (hidx : s.kindWords k = [] ∨ (s.core k).idx < (s.kindWords k).length) (hillegal : legalWord op w = false) :
    dispatchHead (s.oneFetched k op w) k = some (s.dispatchStopped k op w) := by
  obtain ⟨hstream, -, -, -, -, -, -, -, hheld, hstopped, hbarrier, -, hparity⟩ := (Core.rest_iff _).mp hrest
  have hcore : (s.oneFetched k op w).core k = { s.core k with stream := [s.coreEntry k op w] } := State.core_setCore_same ..
  have hwords : (s.oneFetched k op w).kindWords k = s.kindWords k := by
    simp [State.oneFetched, State.kindWords]
  have hstop : ((s.oneFetched k op w).setCore k { s.core k with stream := [] }).stopQueue k .front =
      s.mapCore k fun c => { c with stopped := [QueueId.front] } := by
    simp only [State.oneFetched, State.stopQueue, State.mapCore_eq, State.setCore_setCore, State.core_setCore_same, hstopped,
      List.not_mem_nil, if_false, List.nil_append, ← hstream]
  rw [dispatchHead_illegal (x := s.coreEntry k op w) (by rw [hcore]) (by simp [hcore, hstopped, hbarrier, hheld])
    (by rw [hcore, hwords]; rcases hidx with h | h <;> [simp [h]; exact fun hpast => Nat.not_le.mpr h hpast.2])
    (by simp [hcore, hparity]) hillegal, hcore]
  exact congrArg some (congrArg (State.raise · _) hstop)

/-- Settles O27: the front end of a core at rest reaches the word, stops and has nothing left to move. -/
theorem illegalWordStops : Obligations.IllegalWordStops := by
  intro s k op w hrun hrest hidx hillegal
  have hcore : (s.dispatchStopped k op w).core k = { s.core k with stopped := [QueueId.front] } :=
    (State.raise_core ..).trans (State.core_mapCore_same ..)
  obtain ⟨-, -, -, -, -, -, -, hsettled, -⟩ := (Core.rest_iff _).mp hrest
  refine fetched_dispatched (u := s.dispatchStopped k op w) hrun hrest (dispatchHead_oneFetched hrest hidx hillegal) ?_ ?_
  · rw [hcore]
    exact rest_idle (s.core k) hrest
  · rw [hcore]
    exact hsettled

end Sys2Proof.Machine
end

section
/-! SUPPORT and SETTLED. Control instructions that write one register: SETI, SOP and TPARM (R140, R201, R202, R205; before
tick 0 TPARM's value is free, notes/assumptions/2). -/

namespace Sys2Proof.Machine

/-! ### Control instructions that run on -/

/-- A control instruction that has run, seen from its command: fetch goes on behind the instruction `n`. -/
theorem exec_front_ran {s t : State} {k : Site} {op : CoreOp} {w : BitVec 56} {i : Instr} {n : Nat}
    (h : s.coreFront k op w = true) (hi : exec i s = onUnit k.ok s fun s => s.fetched k op w) (hq : op.queue = .front)
    (hrun : runCtl (s.coreTookFront k) k (s.coreEntry k op w) = .ran t n) (hkept : (s.coreTookFront k).kept t k)
    (hloops : (t.core k).loops = ((s.coreTookFront k).core k).loops) :
    exec i s = .next ((t.mapCore k fun c => { c with idx := n + 1 }).withQueueOf s) :=
  exec_front i s k op w _ h hi
    (front_ran s k op w t n h hq hrun hkept (hloops.trans (tookFront_loops s k (s.coreFront_rest k op w h))))

/-- A control instruction that has run and left the fetch index to the front end. -/
theorem exec_front_next {s t : State} {k : Site} {op : CoreOp} {w : BitVec 56} {i : Instr}
    (h : s.coreFront k op w = true) (hi : exec i s = onUnit k.ok s fun s => s.fetched k op w) (hq : op.queue = .front)
    (hrun : runCtl (s.coreTookFront k) k (s.coreEntry k op w) = .ran t (s.core k).idx)
    (hkept : (s.coreTookFront k).kept t k) (hloops : (t.core k).loops = ((s.coreTookFront k).core k).loops)
    (hidx : (t.core k).idx = (s.core k).idx) :
    exec i s = .next ((t.mapCore k fun c => { c with idx := c.idx + 1 }).withQueueOf s) := by
  rw [← hidx] at hrun
  exact exec_front_ran h hi hq hrun hkept hloops

/-- A control instruction that has written one register, seen from its command. -/
theorem exec_front_reg {s : State} {k : Site} {op : CoreOp} {w : BitVec 56} {i : Instr} {isA : Bool} {r : Nat} {v : Word}
    (h : s.coreFront k op w = true) (hi : exec i s = onUnit k.ok s fun s => s.fetched k op w) (hq : op.queue = .front)
    (hrun : runCtl (s.coreTookFront k) k (s.coreEntry k op w) =
      .ran ((s.coreTookFront k).mapCore k fun c => c.setReg isA r v) (s.core k).idx) :
    exec i s = .next (((s.coreTookFront k).mapCore k fun c => { c.setReg isA r v with idx := c.idx + 1 }).withQueueOf s) :=
  exec_front i s k op w _ h hi (front_reg s k op w isA r v h hq hrun)

theorem tookFront_reg (s : State) (k : Site) (isA : Bool) (r : Nat) :
    ((s.coreTookFront k).core k).reg isA r = (s.core k).reg isA r := by
  rw [State.coreTookFront_core]; rfl

theorem tookFront_sreg (s : State) (k : Site) (r : Nat) : ((s.coreTookFront k).core k).sreg r = (s.core k).sreg r := by
  rw [State.coreTookFront_core]; rfl

theorem tookFront_idx (s : State) (k : Site) : ((s.coreTookFront k).core k).idx = (s.core k).idx := by
  rw [State.coreTookFront_core]

/-! ### SETI and SOP (R201, R202) -/

/-- The second operand of SOP: a register or the immediate. -/
def Core.sopB (c : Core) (w : BitVec 56) : Word :=
  if flag w 44 then BitVec.ofNat 32 (fld w 31 0) else c.reg (flag w 37) (fld w 36 32)

theorem tookFront_sopB (s : State) (k : Site) (w : BitVec 56) : ((s.coreTookFront k).core k).sopB w = (s.core k).sopB w := by
  rw [Core.sopB, tookFront_reg]; rfl

theorem ctlSop_eq (s : State) (k : Site) (e : QEntry) :
    ctlSop s k e = .ran (s.mapCore k fun c => c.setReg (flag e.word 55) (fld e.word 54 50)
      (sopFn (fld e.word 49 45) ((s.core k).reg (flag e.word 43) (fld e.word 42 38)) ((s.core k).sopB e.word))) e.idx := rfl

theorem exec_seti_ok {s : State} {k : Site} {w : BitVec 56} (h : s.coreFront k .seti w = true) :
    exec (.seti k w) s = .next (((s.coreTookFront k).mapCore k fun c =>
      { c.setReg (flag w 55) (fld w 54 50) (BitVec.ofNat 32 (fld w 31 0)) with idx := c.idx + 1 }).withQueueOf s) :=
  exec_front_reg h rfl rfl rfl

theorem exec_sop_ok {s : State} {k : Site} {w : BitVec 56} (h : s.coreFront k .sop w = true) :
    exec (.sop k w) s = .next (((s.coreTookFront k).mapCore k fun c =>
      { c.setReg (flag w 55) (fld w 54 50) (sopFn (fld w 49 45) ((s.core k).reg (flag w 43) (fld w 42 38))
        ((s.core k).sopB w)) with idx := c.idx + 1 }).withQueueOf s) := by
  refine exec_front_reg (op := .sop) h rfl rfl ((ctlSop_eq ..).trans ?_)
  rw [tookFront_reg, tookFront_sopB]
  rfl

theorem legalWord_sop_fn {w : BitVec 56} (hfn : 13 ≤ fld w 49 45) : legalWord .sop w = false := by
  have hbig : ¬fld w 49 45 ≤ 12 := by omega
  simp [legalWord, hbig]

/-- Settles O22: SETI and SOP each write one register, SOP the value its FN selects; an FN from 13 on fails the word's check. -/
theorem scalarInstructions : Obligations.ScalarInstructions := by
  refine ⟨fun s k w => exec_seti_ok, ?_, fun w => legalWord_sop_fn⟩
  intro s k w v h a b sh hv
  obtain rfl : sopFn (fld w 49 45) a b = v := sopFn_of _ a b v hv
  exact exec_sop_ok h

/-! ### TPARM (R205) -/

theorem tookFront_cohortRows (s : State) (k : Site) : (s.coreTookFront k).cohortRows k = s.cohortRows k := by
  simp only [State.cohortRows, State.cohortOf, State.coreTookFront_core]
  rfl

theorem tookFront_tparm (s : State) (k : Site) (sel : Nat) : (s.coreTookFront k).tparm k sel = s.tparm k sel := by
  simp only [State.tparm, tookFront_cohortRows, State.coreTookFront_core]
  rfl

/-- While a tick runs, SEL picks its parameter (R205). -/
theorem tparm_running {s : State} {k : Site} {sel v : Nat} (hrun : s.tick.running = true)
    (hv : [(s.cohortRows k).length, ((s.cohortRows k).filter fun r => r.kind == .prefill).length,
      ((s.cohortRows k).filter fun r => r.kind == .verify).length,
      s.tick.n + 2 ^ 32 - ((s.core k).tab.assign.map (·.stage)).getD 0, s.tick.n, s.tick.start, s.ltAddr][sel]? = some v) :
    s.tparm k sel = BitVec.ofNat 32 v := by
  simp only [State.tparm, hrun, Bool.not_true, Bool.false_eq_true, if_false, List.countP_eq_length_filter]
  match sel, hv with
  | 0, hv | 1, hv | 2, hv | 3, hv | 4, hv | 5, hv | 6, hv => exact congrArg _ (Option.some.inj hv)

theorem tparm_idle {s : State} {k : Site} {sel : Nat} (hidle : s.tick.running = false) :
    s.tparm k sel = Config.freeWord s.free := by
  simp [State.tparm, hidle]

theorem ctlTparm_running {s : State} {k : Site} {e : QEntry} (hrun : s.tick.running = true) :
    ctlTparm s k e = .ran (s.mapCore k fun c => c.setReg false (fld e.word 54 50) (s.tparm k (fld e.word 49 46))) e.idx := by
  simp [ctlTparm, hrun]

/-- A free value has been taken. -/
def State.freeTaken (s : State) : State := { s with free := s.free + 1 }

theorem core_freeTaken (s : State) (k : Site) : s.freeTaken.core k = s.core k := rfl

theorem mapCore_freeTaken (s : State) (k : Site) (f : Core → Core) : s.freeTaken.mapCore k f = (s.mapCore k f).freeTaken := rfl

theorem ctlTparm_idle {s : State} {k : Site} {e : QEntry} (hidle : s.tick.running = false) :
    ctlTparm s k e = .ran (s.mapCore k fun c => c.setReg false (fld e.word 54 50) (Config.freeWord s.free)).freeTaken e.idx := by
  simp [ctlTparm, hidle, tparm_idle hidle, State.freeTaken]

theorem exec_tparm_running {s : State} {k : Site} {w : BitVec 56} (h : s.coreFront k .tparm w = true)
    (hrun : s.tick.running = true) : exec (.tparm k w) s = .next (((s.coreTookFront k).mapCore k fun c =>
      { c.setReg false (fld w 54 50) (s.tparm k (fld w 49 46)) with idx := c.idx + 1 }).withQueueOf s) := by
  rw [← tookFront_tparm]
  exact exec_front_reg (op := .tparm) h rfl rfl (ctlTparm_running hrun)

theorem exec_tparm_idle {s : State} {k : Site} {w : BitVec 56} (h : s.coreFront k .tparm w = true)
    (hidle : s.tick.running = false) : exec (.tparm k w) s = .next (((s.coreTookFront k).mapCore k fun c =>
      { c.setReg false (fld w 54 50) (Config.freeWord s.free) with idx := c.idx + 1 }).freeTaken.withQueueOf s) := by
  refine (exec_front_next (op := .tparm) h rfl rfl (ctlTparm_idle hidle) (kept_setReg ..) ?_ ?_).trans ?_
  · rw [core_freeTaken, State.core_mapCore_same, loops_setReg]
  · rw [core_freeTaken, State.core_mapCore_same, idx_setReg, tookFront_idx]
  · rw [mapCore_freeTaken, State.mapCore_mapCore]
    rfl

/-- Settles O23: TPARM writes the parameter that SEL picks from the list while a tick runs, and else the free value. -/
theorem tickParameters : Obligations.TickParameters := by
  refine fun s k w h => ⟨fun v hrun hv => ?_, exec_tparm_idle h⟩
  rw [exec_tparm_running h hrun, tparm_running hrun hv]

end Sys2Proof.Machine
end

section
/-! SUPPORT and SETTLED. LOOP, and the fetch index of a running loop (R203). -/

namespace Sys2Proof.Machine

/-! ### LOOP at a core that runs no loop -/

/-- How many times LOOP is to run its body. -/
def Core.loopCount (c : Core) (w : BitVec 56) : Nat := if flag w 55 then fld w 49 34 else (c.sreg (fld w 54 50)).toNat

theorem tookFront_loopCount (s : State) (k : Site) (w : BitVec 56) :
    ((s.coreTookFront k).core k).loopCount w = (s.core k).loopCount w := by
  rw [State.coreTookFront_core]; rfl

theorem ctlLoop_skips {s : State} {k : Site} {e : QEntry} (hloops : (s.core k).loops = [])
    (hlast : e.idx + fld e.word 33 20 ≤ 16383) (hcount : (s.core k).loopCount e.word = 0) :
    ctlLoop s k e = .ran s (e.idx + fld e.word 33 20) := by
  rw [Core.loopCount] at hcount
  simp [ctlLoop, hloops, hlast, hcount]

theorem ctlLoop_begins {s : State} {k : Site} {e : QEntry} (hloops : (s.core k).loops = [])
    (hlast : e.idx + fld e.word 33 20 ≤ 16383) (hcount : 0 < (s.core k).loopCount e.word) :
    ctlLoop s k e = .jumped (s.mapCore k fun c => { c with
      idx := e.idx + 1, loops := [⟨e.idx + 1, e.idx + fld e.word 33 20, (s.core k).loopCount e.word - 1⟩] }) := by
  rw [Core.loopCount] at hcount ⊢
  simp [ctlLoop, hloops, hlast, Nat.ne_of_gt hcount, State.mapCore_eq]

theorem exec_loop_skips {s : State} {k : Site} {w : BitVec 56} (h : s.coreFront k .loop w = true)
    (hlast : (s.core k).idx + fld w 33 20 ≤ 16383) (hcount : (s.core k).loopCount w = 0) :
    exec (.loop k w) s = .next (((s.coreTookFront k).mapCore k fun c =>
      { c with idx := (s.core k).idx + fld w 33 20 + 1 }).withQueueOf s) :=
  exec_front_ran (op := .loop) h rfl rfl (ctlLoop_skips (tookFront_loops s k (s.coreFront_rest k _ w h)) hlast
    ((tookFront_loopCount s k w).trans hcount)) (State.kept_refl ..) rfl

theorem exec_loop_begins {s : State} {k : Site} {w : BitVec 56} (h : s.coreFront k .loop w = true)
    (hlast : (s.core k).idx + fld w 33 20 ≤ 16383) (hcount : 0 < (s.core k).loopCount w) :
    exec (.loop k w) s = .next (((s.coreTookFront k).mapCore k fun c => { c with
      idx := (s.core k).idx + 1
      loops := [⟨(s.core k).idx + 1, (s.core k).idx + fld w 33 20, (s.core k).loopCount w - 1⟩] }).withQueueOf s) := by
  rw [← tookFront_loopCount] at hcount ⊢
  refine exec_front _ s k .loop w _ h rfl (front_jumped s k .loop w _ h rfl
    (ctlLoop_begins (tookFront_loops s k (s.coreFront_rest k _ w h)) hlast hcount) ?_)
  exact State.kept_mapCore _ _ _ ⟨rfl, rfl, rfl, rfl, rfl, rfl, rfl, rfl⟩

/-! ### The iterations of a running loop -/

/-- Fetch takes one instruction and goes on. -/
def Core.fetchOn (c : Core) : Core := c.advance c.idx

/-- How many instructions a loop's body has. -/
def LoopFrame.bodyLen (f : LoopFrame) : Nat := f.last + 1 - f.first

/-- The body is fetched in order, up to its last instruction. -/
theorem fetchOn_body {c : Core} {f : LoopFrame} {r : List LoopFrame} (hloops : c.loops = f :: r) (hidx : c.idx = f.first)
    {j : Nat} (hj : f.first + j ≤ f.last) : Core.fetchOn^[j] c = { c with idx := f.first + j } :=
  body_steps c f r hloops hidx j hj

theorem fetchOn_last {c : Core} {f : LoopFrame} {r : List LoopFrame} (hloops : c.loops = f :: r) :
    ({ c with idx := f.last } : Core).fetchOn =
      { c with loops := (nextFetch 5 (f :: r) f.last).1, idx := (nextFetch 5 (f :: r) f.last).2 } := by
  rw [← hloops]; rfl

/-- One run of the body: fetch then stands where `nextFetch` sends it behind the last instruction. -/
theorem fetchOn_bodyLen {c : Core} {f : LoopFrame} {r : List LoopFrame} (hloops : c.loops = f :: r) (hidx : c.idx = f.first)
    (hle : f.first ≤ f.last) : Core.fetchOn^[f.bodyLen] c =
      { c with loops := (nextFetch 5 (f :: r) f.last).1, idx := (nextFetch 5 (f :: r) f.last).2 } := by
  rw [show f.bodyLen = (f.last - f.first) + 1 by unfold LoopFrame.bodyLen; omega, Function.iterate_succ_apply',
    fetchOn_body hloops hidx (by omega), Nat.add_sub_cancel' hle, fetchOn_last hloops]

theorem fetchOn_body_idx {c : Core} {f : LoopFrame} {r : List LoopFrame} (hloops : c.loops = f :: r) (hidx : c.idx = f.first)
    {j : Nat} (hj : j < f.bodyLen) : (Core.fetchOn^[j] c).idx = f.first + j % f.bodyLen := by
  have hin : f.first + j ≤ f.last := by unfold LoopFrame.bodyLen at hj; omega
  rw [fetchOn_body hloops hidx hin, Nat.mod_eq_of_lt hj]

/-- The fetch order of all iterations of a loop, and the core behind the last of them. -/
theorem fetchOn_iterations (left : Nat) {c : Core} {f : LoopFrame} {r : List LoopFrame} (hleft : f.left = left)
    (hloops : c.loops = f :: r) (hidx : c.idx = f.first) (hle : f.first ≤ f.last) (hr : ∀ g ∈ r.head?, g.last ≠ f.last) :
    (∀ j < f.bodyLen * (left + 1), (Core.fetchOn^[j] c).idx = f.first + j % f.bodyLen) ∧
    Core.fetchOn^[f.bodyLen * (left + 1)] c = { c with loops := r, idx := f.last + 1 } := by
  have hround := fetchOn_bodyLen hloops hidx hle
  induction left generalizing c f with
  | zero =>
    rw [Nat.zero_add, Nat.mul_one]
    exact ⟨fun j => fetchOn_body_idx hloops hidx, hround.trans (by rw [nextFetch_end f r hleft hr])⟩
  | succ left ih =>
    rw [nextFetch_back f r (by omega)] at hround
    let g : LoopFrame := { f with left := f.left - 1 }
    let d : Core := { c with loops := g :: r, idx := f.first }
    obtain ⟨hrest, hend⟩ : (∀ j < f.bodyLen * (left + 1), (Core.fetchOn^[j] d).idx = f.first + j % f.bodyLen) ∧
        Core.fetchOn^[f.bodyLen * (left + 1)] d = { d with loops := r, idx := f.last + 1 } :=
      ih (f := g) (by simp [g, hleft]) rfl rfl hle hr (fetchOn_bodyLen rfl rfl hle)
    refine ⟨fun j hj => ?_, ?_⟩
    · by_cases hin : j < f.bodyLen
      · exact fetchOn_body_idx hloops hidx hin
      · obtain ⟨i, rfl⟩ := Nat.exists_eq_add_of_le' (Nat.not_lt.mp hin)
        rw [Function.iterate_add_apply, hround, Nat.add_mod_right]
        exact hrest i (by rw [Nat.mul_succ] at hj; omega)
    · rw [Nat.mul_succ, Function.iterate_add_apply, hround]
      exact hend

/-- Settles O24: LOOP by its count, then the iterations by induction on how many are left. -/
theorem loops : Obligations.Loops := by
  refine ⟨?_, fun c f r hloops hidx hle hr => fetchOn_iterations f.left rfl hloops hidx hle hr⟩
  intro s k w h count i last hlast
  exact ⟨exec_loop_skips h hlast, exec_loop_begins h hlast⟩

end Sys2Proof.Machine
end

section
/-! SUPPORT and SETTLED. The debug instructions DTAG, DTRACE and DBRK (R209, R210; DTAG's MODE 1 as notes/assumptions/30
reads it). -/

namespace Sys2Proof.Machine

/-- The core has fetched a control instruction and gone on behind it. -/
def State.ranFront (s : State) (k : Site) : State := (s.coreTookFront k).mapCore k fun c => { c with idx := c.idx + 1 }

/-- A change of a core's slot tags and trace ring that is the same before and after fetch goes on. -/
def debugsOnly (f : Core → Core) : Prop :=
  ∀ c : Core, f c = { c with tags := (f c).tags, trace := (f c).trace, traceNext := (f c).traceNext } ∧
    f { c with idx := c.idx + 1 } = { f c with idx := (f c).idx + 1 }

/-- A control instruction that changes slot tags and the trace ring at most. -/
theorem exec_front_debugs {s : State} {k : Site} {op : CoreOp} {w : BitVec 56} {i : Instr} {f : Core → Core}
    (h : s.coreFront k op w = true) (hi : exec i s = onUnit k.ok s fun s => s.fetched k op w) (hq : op.queue = .front)
    (hrun : runCtl (s.coreTookFront k) k (s.coreEntry k op w) = .ran ((s.coreTookFront k).mapCore k f) (s.core k).idx)
    (hf : debugsOnly f) : exec i s = .next (((s.ranFront k).mapCore k f).withQueueOf s) := by
  obtain ⟨hcore, hnext⟩ := hf ((s.coreTookFront k).core k)
  refine (exec_front_next h hi hq hrun (State.kept_mapCore _ _ _ ?_) ?_ ?_).trans ?_
  · rw [hcore]; exact ⟨rfl, rfl, rfl, rfl, rfl, rfl, rfl, rfl⟩
  · rw [State.core_mapCore_same, hcore]
  · rw [State.core_mapCore_same, hcore, tookFront_idx]
  · rw [State.ranFront, State.mapCore_mapCore, State.mapCore_mapCore, State.mapCore_eq, State.mapCore_eq]
    exact congrArg (fun c => Host.Outcome.next (((s.coreTookFront k).setCore k c).withQueueOf s)) hnext.symm

/-- A control instruction without effect. -/
theorem exec_front_nop {s : State} {k : Site} {op : CoreOp} {w : BitVec 56} {i : Instr} (h : s.coreFront k op w = true)
    (hi : exec i s = onUnit k.ok s fun s => s.fetched k op w) (hq : op.queue = .front)
    (hrun : runCtl (s.coreTookFront k) k (s.coreEntry k op w) = .ran (s.coreTookFront k) (s.core k).idx) :
    exec i s = .next ((s.ranFront k).withQueueOf s) :=
  exec_front_next h hi hq hrun (State.kept_refl ..) rfl (tookFront_idx ..)

/-! ### DTAG (R210) -/

/-- DTAG's effect on one slot. -/
def Core.dtagAt (w : BitVec 56) (c : Core) (i : Nat) : Core :=
  match dtagSlot (fld w 36 35) (fld w 34 33) (c.tagOf (fld w 55 47 + i)) with
  | some t => c.setTag (fld w 55 47 + i) t
  | none => { c with tags := delK c.tags (fld w 55 47 + i) }

/-- DTAG's effect on its slots. -/
def Core.dtag (w : BitVec 56) (c : Core) : Core := (List.range (fld w 46 37)).foldl (Core.dtagAt w) c

theorem dtag_debugsOnly (w : BitVec 56) : debugsOnly (Core.dtag w) := by
  intro c
  have htags : c.dtag w = { c with tags := (c.dtag w).tags } := (dtag_only _ _ _ _ c 0).1
  have hnext : Core.dtag w { c with idx := c.idx + 1 } = { c.dtag w with idx := c.idx + 1 } := (dtag_only _ _ _ _ c _).2
  have hidx : (c.dtag w).idx = c.idx := by rw [htags]
  exact ⟨by rw [htags], by rw [hidx]; exact hnext⟩

theorem ctlDtag_off {s : State} {k : Site} {e : QEntry} (hoff : s.debug = false) : ctlDtag s k e = .ran s e.idx := by
  simp [ctlDtag, hoff]

theorem ctlDtag_on {s : State} {k : Site} {e : QEntry} (hon : s.debug = true) :
    ctlDtag s k e = .ran (s.mapCore k (Core.dtag e.word)) e.idx := by
  simp only [ctlDtag, hon, Bool.not_true, Bool.false_eq_true, if_false]
  rfl

theorem exec_dtag_on {s : State} {k : Site} {w : BitVec 56} (h : s.coreFront k .dtag w = true) (hon : s.debug = true) :
    exec (.dtag k w) s = .next (((s.ranFront k).mapCore k (Core.dtag w)).withQueueOf s) :=
  exec_front_debugs h rfl rfl (ctlDtag_on (e := s.coreEntry k .dtag w) hon) (dtag_debugsOnly w)

/-! ### DTRACE (R209) -/

/-- The trace ring after DTRACE of a value at an index and a time. -/
def Core.traced (i : Nat) (v : Word) (time : Nat) (c : Core) : Core :=
  { c with trace := putK c.trace c.traceNext ⟨i, v, time⟩, traceNext := (c.traceNext + 1) % 64 }

theorem ctlDtrace_off {s : State} {k : Site} {e : QEntry} (hoff : s.debug = false) : ctlDtrace s k e = .ran s e.idx := by
  simp [ctlDtrace, hoff]

theorem ctlDtrace_on {s : State} {k : Site} {e : QEntry} (hon : s.debug = true) :
    ctlDtrace s k e = .ran (s.mapCore k (Core.traced e.idx ((s.core k).sreg (fld e.word 54 50)) s.time)) e.idx := by
  simp only [ctlDtrace, hon, Bool.not_true, Bool.false_eq_true, if_false]
  rfl

theorem exec_dtrace_on {s : State} {k : Site} {w : BitVec 56} (h : s.coreFront k .dtrace w = true) (hon : s.debug = true) :
    exec (.dtrace k w) s = .next (((s.ranFront k).mapCore k
      (Core.traced (s.core k).idx ((s.core k).sreg (fld w 54 50)) s.time)).withQueueOf s) := by
  rw [← tookFront_sreg]
  exact exec_front_debugs h rfl rfl (ctlDtrace_on (e := s.coreEntry k .dtrace w) hon) fun _ => ⟨rfl, rfl⟩

/-! ### DBRK (R209) -/

/-- The breakpoint DBRK reports. -/
def State.breakNote (s : State) (k : Site) (i : Nat) (v : Word) : Ev :=
  { code := 0x020E, cls := .note, kind := 0, loc := s.coreLoc k, iidx := some i, arg0 := v.toNat }

/-- The breakpoint is reported, and the freeze asked for. -/
def State.broke (s : State) (k : Site) (i : Nat) (v : Word) : State :=
  (s.raise (s.breakNote k i v)).requestFreeze .breakpoint (s.raise (s.breakNote k i v)).freeze.immediate

theorem core_broke (s : State) (k j : Site) (i : Nat) (v : Word) : (s.broke k i v).core j = s.core j :=
  (State.core_of_cores _ _ _ (requestFreeze_cores ..)).trans (State.raise_core ..)

theorem ctlDbrk_passes {s : State} {k : Site} {e : QEntry}
    (hpass : s.debug = false ∨ flag e.word 55 = true ∧ (s.core k).sreg (fld e.word 54 50) = 0#32) :
    ctlDbrk s k e = .ran s e.idx := by
  refine if_pos ?_
  simpa using hpass

theorem ctlDbrk_breaks {s : State} {k : Site} {e : QEntry} (hon : s.debug = true)
    (hcond : ¬(flag e.word 55 = true ∧ (s.core k).sreg (fld e.word 54 50) = 0#32)) :
    ctlDbrk s k e = .ran (s.broke k e.idx ((s.core k).sreg (fld e.word 54 50))) e.idx := by
  refine if_neg ?_
  simpa [hon] using hcond

theorem exec_dbrk_passes {s : State} {k : Site} {w : BitVec 56} (h : s.coreFront k .dbrk w = true)
    (hpass : s.debug = false ∨ flag w 55 = true ∧ (s.core k).sreg (fld w 54 50) = 0#32) :
    exec (.dbrk k w) s = .next ((s.ranFront k).withQueueOf s) := by
  rw [← tookFront_sreg] at hpass
  exact exec_front_nop h rfl rfl (ctlDbrk_passes (e := s.coreEntry k .dbrk w) hpass)

theorem exec_dbrk_breaks {s : State} {k : Site} {w : BitVec 56} (h : s.coreFront k .dbrk w = true) (hon : s.debug = true)
    (hcond : ¬(flag w 55 = true ∧ (s.core k).sreg (fld w 54 50) = 0#32)) :
    exec (.dbrk k w) s = .next ((((s.coreTookFront k).broke k (s.core k).idx ((s.core k).sreg (fld w 54 50))).mapCore k fun c =>
      { c with idx := c.idx + 1 }).withQueueOf s) := by
  rw [← tookFront_sreg] at hcond ⊢
  exact exec_front_next h rfl rfl (ctlDbrk_breaks (e := s.coreEntry k .dbrk w) hon hcond)
    (State.kept_of_core _ _ _ (core_broke ..)) (by rw [core_broke]) (by rw [core_broke, tookFront_idx])

/-- Settles O26: outside debug mode each of the three only goes on; in it each has its effect, DBRK by its condition. -/
theorem debugInstructions : Obligations.DebugInstructions := by
  intro s k w on v brk
  refine ⟨fun hoff => ⟨fun h => ?_, fun h => ?_, fun h => exec_dbrk_passes h (.inl hoff)⟩,
    fun hon => ⟨fun h => exec_dtag_on h hon, fun h => exec_dtrace_on h hon, fun h hpass => exec_dbrk_passes h (.inr hpass),
      fun h hcond => exec_dbrk_breaks h hon hcond⟩⟩
  · exact exec_front_nop h rfl rfl (ctlDtag_off hoff)
  · exact exec_front_nop h rfl rfl (ctlDtrace_off hoff)

end Sys2Proof.Machine
end

section
/-! SUPPORT and SETTLED. XMOV, XFILL and XTW: what they write and what they leave (R83, R176 to R179), and what reads back
after XFILL. -/

namespace Sys2Proof.Machine

/-! ### What XTW writes (R83, R179) -/

/-- The write of one element of XTW, from source bytes already read. -/
def State.spliceElem (k : Site) (e : QEntry) (src : List Byte) (s : State) (i : Nat) : State :=
  let x := xtwWrite (s.core k) e src i
  s.jwrite k x.1 x.2.1 x.2.2 false

/-- The writes of XTW, element by element. -/
def State.splice (k : Site) (e : QEntry) (src : List Byte) (s : State) : State :=
  (List.range 32).foldl (State.spliceElem k e src) s

theorem stored_splice (k : Site) (e : QEntry) (src : List Byte) (s : State) : s.stored (s.splice k e src) k :=
  State.stored_foldl k (State.spliceElem k e src) (fun _ _ => stored_jwrite ..) (List.range 32) s

theorem opXtw_ok {s : State} {k : Site} {e : QEntry} (hlegal : xtwLegal e = true)
    (hwin : xtwBlock e = true ∨ (s.core k).inWindow 1 (xtwDst e) 512 = true) :
    opXtw s k e = .ok (s.splice k e ((s.core k).rd 0 (xtwSrc e) (4 * xtwWidth e))) := by
  have hin : ¬(!xtwBlock e && !(s.core k).inWindow 1 (xtwDst e) 512) = true := by
    rcases hwin with hblock | hwin
    · simp [hblock]
    · simp [hwin]
  exact (if_neg (by simp [hlegal])).trans (if_neg hin)

theorem exec_xtw_ok {s : State} {k : Site} {w : BitVec 56} (h : s.coreIssues k .xtw w = true) :
    let e := s.coreEntry k .xtw w
    xtwLegal e = true → (xtwBlock e = true ∨ (s.core k).inWindow 1 (xtwDst e) 512 = true) →
    exec (.xtw k w) s = .next ((((s.coreTook k).splice k e
      ((s.core k).rd 0 (xtwSrc e) (4 * xtwWidth e))).complete k .transfer w).withQueueOf s) := by
  intro e hlegal hwin
  rw [← State.coreTook_rd]
  exact exec_stored (op := .xtw) h rfl (by decide) (opXtw_ok hlegal (by rw [State.coreTook_inWindow]; exact hwin))
    (stored_splice ..)

/-! ### Where XTW writes (R82, R83) -/

/-- The block of 1,024 bytes or the tile of 512 bytes that XTW writes a column of. -/
def xtwTarget (e : QEntry) : Nat → Nat → Prop := if xtwBlock e then span 0 (xtwDst e) 1024 else span 1 (xtwDst e) 512

theorem span_within {st a d n m st' b : Nat} (hfit : d + n ≤ m) (h : span st (a + d) n st' b) : span st a m st' b := by
  obtain ⟨hst, i, hi, hb⟩ := h
  exact ⟨hst, d + i, by omega, by rw [hb, Nat.add_assoc]⟩

/-- A legal column of a block lies in each of its 32-byte rows. -/
theorem xtwBlock_fits {e : QEntry} (hlegal : xtwLegal e = true) (hblock : xtwBlock e = true) :
    xtwCol e * xtwWidth e / 8 + xtwWidth e / 8 ≤ 32 := by
  simp only [xtwLegal, hblock, if_true, Bool.and_eq_true, Bool.or_eq_true, beq_iff_eq, decide_eq_true_eq] at hlegal
  obtain ⟨⟨⟨hwidth, hcol⟩, -⟩, -⟩ := hlegal
  rcases hwidth with (hwidth | hwidth) | hwidth <;> rw [hwidth] at hcol ⊢ <;> omega

/-- A legal column of a tile lies in each of its 16-byte rows. -/
theorem xtwTile_fits {e : QEntry} (hlegal : xtwLegal e = true) (htile : xtwBlock e = false) :
    xtwCol e * xtwWidth e / 8 < 16 := by
  simp only [xtwLegal, htile, Bool.false_eq_true, if_false, Bool.and_eq_true, decide_eq_true_eq] at hlegal
  obtain ⟨⟨⟨-, hcol⟩, -⟩, -⟩ := hlegal
  have hpos : 0 < xtwWidth e := by unfold xtwWidth; positivity
  have hbits : xtwCol e * xtwWidth e < 128 :=
    (Nat.mul_lt_mul_of_pos_right hcol hpos).trans_le (Nat.div_mul_le_self ..)
  omega

/-- Every element of a legal XTW goes into its block or tile. -/
theorem xtwWrite_target {e : QEntry} (hlegal : xtwLegal e = true) (c : Core) (src : List Byte) {i : Nat} (hi : i < 32) :
    let x := xtwWrite c e src i
    x.1 ≤ 3 ∧ ∀ st b, span x.1 x.2.1 x.2.2.length st b → xtwTarget e st b := by
  cases hb : xtwBlock e with
  | true =>
    have hfits := xtwBlock_fits hlegal hb
    simp only [xtwWrite, xtwTarget, hb, if_true, natLe_length, Nat.add_assoc]
    exact ⟨by decide, fun st b => span_within (by omega)⟩
  | false =>
    have hfits := xtwTile_fits hlegal hb
    simp only [xtwWrite, xtwTarget, hb, Bool.false_eq_true, if_false, tileCell, List.length_singleton]
    exact ⟨by decide, fun st b => span_within (by omega)⟩

theorem sameBut_splice {e : QEntry} (hlegal : xtwLegal e = true) (k : Site) (src : List Byte) (s : State) :
    (s.core k).sameBut ((s.splice k e src).core k) (xtwTarget e) :=
  (sameBut_foldl k (List.range 32) (fun t i => xtwWrite (t.core k) e src i) (xtwTarget e)
    (fun t _ hi => xtwWrite_target hlegal (t.core k) src (List.mem_range.mp hi)) s).2

/-! ### The frame of the transfers (R176, R177) -/

theorem legalWord_of_issues {s : State} {k : Site} {op : CoreOp} {w : BitVec 56} (h : s.coreIssues k op w = true) :
    legalWord op w = true := by
  obtain ⟨-, -, -, -, -, hlegal⟩ := (s.coreReady_iff k op w).mp (s.coreIssues_ready k op w h)
  exact hlegal

theorem xmovDst_store {s : State} {k : Site} {w : BitVec 56} (h : s.coreIssues k .xmov w = true) :
    (xmovDst (s.coreEntry k .xmov w)).1 ≤ 2 := by
  have hlegal := legalWord_of_issues h
  simp only [legalWord, Bool.and_eq_true, decide_eq_true_eq] at hlegal
  exact hlegal.2

theorem xfillDst_store {s : State} {k : Site} {w : BitVec 56} (h : s.coreIssues k .xfill w = true) :
    (xfillDst (s.coreEntry k .xfill w)).1 ≤ 2 := by
  have hlegal := legalWord_of_issues h
  simp only [legalWord, Bool.and_eq_true, decide_eq_true_eq] at hlegal
  exact hlegal.2

/-- The unit of eight copies of a pattern that XFILL writes. -/
def fillUnit (x : Word) : List Byte := bytesOfWords (List.replicate 8 x)

theorem fillUnit_length (x : Word) : (fillUnit x).length = 32 := by
  rw [fillUnit, bytesOfWords_length, List.length_replicate]

/-- Settles O14: the three transfers by the writes they make, then the frame of each from where those writes go. -/
theorem transfersAndFrame : Obligations.TransfersAndFrame := by
  refine ⟨⟨fun s k w h => exec_xmov_ok h, fun s k w h => exec_xfill_ok h, fun s k w h => exec_xtw_ok h⟩, ?_, ?_, ?_⟩
  · intro s t k w h e hn hsrc hdst hsw hdw ht
    obtain rfl := Host.Outcome.next.inj (ht.symm.trans (exec_xmov_ok h hn hsrc hdst hsw hdw))
    exact wroteOnly_complete s _ k .transfer w _ (stored_copyUnits ..)
      (sameBut_took s _ k _ (sameBut_copyUnits k _ _ _ _ _ _ ((xmovDst_store h).trans (by decide))))
  · intro s t k w h e hn hdst hwin ht
    obtain rfl := Host.Outcome.next.inj (ht.symm.trans (exec_xfill_ok h hn hdst hwin))
    exact wroteOnly_complete s _ k .transfer w _ (stored_fillUnits ..)
      (sameBut_took s _ k _ (sameBut_fillUnits k _ _ _ _ _ ((xfillDst_store h).trans (by decide)) (fillUnit_length _)))
  · intro s t k w h e hlegal hwin ht
    obtain rfl := Host.Outcome.next.inj (ht.symm.trans (exec_xtw_ok h hlegal hwin))
    exact wroteOnly_complete s _ k .transfer w _ (stored_splice ..) (sameBut_took s _ k _ (sameBut_splice hlegal k _ _))

/-! ### What reads back after XFILL -/

theorem natLe_getD {n i : Nat} (hi : i < n) (v : Nat) : (natLe n v).getD i 0#8 = BitVec.ofNat 8 (v / 256 ^ i) := by
  induction n generalizing i v with
  | zero => omega
  | succ n ih =>
    cases i with
    | zero => simp [natLe]
    | succ i =>
      rw [natLe, List.getD_cons_succ, ih (Nat.lt_of_succ_lt_succ hi), Nat.div_div_eq_div_mul, ← Nat.pow_succ']

/-- Copies of a word repeat its four bytes. -/
theorem bytesOfWords_replicate_getD (x : Word) {n i : Nat} (hi : i < 4 * n) :
    (bytesOfWords (List.replicate n x)).getD i 0#8 = BitVec.ofNat 8 (x.toNat / 256 ^ (i % 4)) := by
  induction n generalizing i with
  | zero => omega
  | succ n ih =>
    have hcons : bytesOfWords (List.replicate (n + 1) x) = natLe 4 x.toNat ++ bytesOfWords (List.replicate n x) := rfl
    rw [hcons]
    by_cases hfirst : i < 4
    · rw [List.getD_append _ _ _ _ (by rw [natLe_length]; exact hfirst), natLe_getD hfirst, Nat.mod_eq_of_lt hfirst]
    · rw [List.getD_append_right _ _ _ _ (by rw [natLe_length]; omega), natLe_length, ih (by omega),
        Nat.mod_eq_sub_mod (a := i) (b := 4) (by omega)]

theorem fillUnit_getD (x : Word) {i : Nat} (hi : i < 32) :
    (fillUnit x).getD i 0#8 = BitVec.ofNat 8 (x.toNat / 256 ^ (i % 4)) := bytesOfWords_replicate_getD x hi

theorem storeSize_units (st : Nat) : storeSize st % 32 = 0 := by
  unfold storeSize
  split <;> rfl

/-- Two bytes of a stretch no longer than the store are not the same byte of it. -/
theorem not_span_before {st a i n m : Nat} (hi : i < n) (hfit : n + m ≤ storeSize st) :
    ¬span st (a + n) m st ((a + i) % storeSize st) := by
  rintro ⟨-, j, hj, heq⟩
  rw [Nat.add_assoc] at heq
  have hmod : i ≡ n + j [MOD storeSize st] := Nat.ModEq.add_left_cancel' a heq
  have := Nat.ModEq.eq_of_lt_of_lt hmod (by omega) (by omega)
  omega

/-- One unit that XFILL has written reads back. -/
theorem fillUnits_first {k : Site} {st a n i : Nat} {u : List Byte} (s : State) (hst : st ≤ 3) (hjournal : st ≠ 1)
    (hu : u.length = 32) (halign : a % 32 = 0) (hfit : 32 + 32 * n ≤ storeSize st) (hi : i < 32) :
    Mem.read (((State.fillUnits k st u (n + 1) a s).core k).mem st) ((a + i) % storeSize st) = u.getD i 0#8 := by
  have hpos := storeSize_pos st
  have hunits := storeSize_units st
  have hunit : a % storeSize st % 32 = 0 := by rw [Nat.mod_mod_of_dvd _ (Nat.dvd_of_mod_eq_zero hunits), halign]
  have hstart : a % storeSize st + 32 ≤ storeSize st := by have := Nat.mod_lt a hpos; omega
  have hwhere : (a + i) % storeSize st = a % storeSize st + i := by
    rw [Nat.add_mod, Nat.mod_eq_of_lt (by omega : i < storeSize st), Nat.mod_eq_of_lt (by omega)]
  have hkept := sameBut_fillUnits k st u n (a + 32) (s.jwrite k st a u false) hst hu st hst ((a + i) % storeSize st)
    (Nat.mod_lt _ hpos) (not_span_before hi hfit) fun hone => hjournal hone.1
  rw [Core.rd_one, Core.rd_one, Nat.mod_mod] at hkept
  refine (List.head_eq_of_cons_eq hkept).trans ?_
  rw [hwhere]
  exact jwrite_read_same s k st a i u (by rw [hu]; exact hstart) (by rw [hu]; exact hi)

/-- Every byte of the units filled reads as the unit's. -/
theorem fillUnits_read {k : Site} {st n a i : Nat} {u : List Byte} (s : State) (hst : st ≤ 3) (hjournal : st ≠ 1)
    (hu : u.length = 32) (halign : a % 32 = 0) (hfit : 32 * n ≤ storeSize st) (hi : i < 32 * n) :
    Mem.read (((State.fillUnits k st u n a s).core k).mem st) ((a + i) % storeSize st) = u.getD (i % 32) 0#8 := by
  induction n generalizing s a i with
  | zero => omega
  | succ n ih =>
    by_cases hfirst : i < 32
    · rw [fillUnits_first s hst hjournal hu halign (by omega) hfirst, Nat.mod_eq_of_lt hfirst]
    · obtain ⟨j, rfl⟩ := Nat.exists_eq_add_of_le (Nat.not_lt.mp hfirst)
      rw [← Nat.add_assoc, Nat.add_mod_left]
      exact ih (s.jwrite k st a u false) (by omega) (by omega) (by omega)

/-- A legal count of units fits into the activation and the partial-sum store. -/
theorem fill_fits {c : Core} {st a n : Nat} (hst : st ≤ 2) (hjournal : st ≠ 1) (hn : unitCount n = true)
    (hwin : c.inWindow st a (32 * n) = true) : 32 * n ≤ storeSize st := by
  simp only [unitCount, Bool.and_eq_true, decide_eq_true_eq] at hn
  obtain ⟨-, hmax⟩ := hn
  obtain rfl | rfl : st = 0 ∨ st = 2 := by omega
  · simp only [storeSize]; omega
  · simp only [Core.inWindow, decide_eq_true_eq] at hwin
    simp only [storeSize]; omega

theorem complete_rd (s t : State) (k : Site) (q : QueueId) (w : BitVec 56) (st a n : Nat) :
    (((t.complete k q w).withQueueOf s).core k).rd st a n = (t.core k).rd st a n :=
  Core.sameRegs_stores _ _ (sameRegs_complete t k q w) st a n

/-- Settles O15: unit by unit, as no later unit lies over an earlier one, and each unit repeats the pattern's four bytes. -/
theorem fillReadsBack : Obligations.FillReadsBack := by
  intro s t k w h e hn hdst hjournal hwin ht i hi
  obtain rfl := Host.Outcome.next.inj (ht.symm.trans (exec_xfill_ok h hn hdst hwin))
  have hst := xfillDst_store h
  have hread := fillUnits_read (k := k) (u := fillUnit ((s.core k).sreg (fld w 30 26))) (s.coreTook k) (hst.trans (by decide))
    hjournal (fillUnit_length _) hdst (fill_fits hst hjournal hn hwin) hi
  rw [fillUnit_getD _ (Nat.mod_lt _ (by decide)), Nat.mod_mod_of_dvd _ (by decide)] at hread
  rw [complete_rd, Core.rd_one]
  exact congrArg (fun b => [b]) hread

end Sys2Proof.Machine
end

section
/-! SUPPORT and SETTLED. Barrier releases: when TICK_RELEASE does nothing, how ticks begin from standing still, and what due work
and the end of a tick do to a release in service (R212, R216, R217, R228). -/

namespace Sys2Proof.Machine

variable {s : State} {l : Loaded}

/-! ### The barrier released (R212, R216, R217) -/

theorem release_standing (hl : s.loaded = some l) (hrun : s.tick.running = false) :
    s.release = s.beginTick l (match s.tick.stoppedAt with | some n => n + 1 | none => 0) none := by
  cases hstop : s.tick.stoppedAt <;> simp only [State.release, hl, hrun, hstop, Bool.false_eq_true, if_false]

theorem release_running (hl : s.loaded = some l) (hrun : s.tick.running = true) :
    s.release = if s.endTick.stopsHere then s.endTick.stopTicks else s.endTick.beginTick l (s.tick.n + 1) (some s.tick.n) := by
  simp only [State.release, hl, hrun, if_true]

/-! ### TICK_RELEASE's effect (R216, R228) -/

theorem tickRelease_held (hmay : s.mayRelease = false) (hstuck : s.tickStuck = false) : s.tickRelease = s := by
  simp [State.tickRelease, hmay, hstuck]

/-- Of a package with no UNLOAD waiting, one whose ticks stand still is released with no more ado. -/
theorem tickRelease_standing (hmay : s.mayRelease = true) (hun : s.unloading = none) (hrun : s.tick.running = false) :
    s.tickRelease = s.release := by
  simp [State.tickRelease, hmay, hun, hrun]

/-- In service the due work comes first, and may hold the barrier again (R228). -/
theorem tickRelease_running (hmay : s.mayRelease = true) (hun : s.unloading = none) (hstop : s.power.state ≠ .stopping)
    (hstuck : s.tickStuck = false) (hrun : s.tick.running = true) :
    s.tickRelease = if s.dueWork.mayRelease then s.dueWork.release else s.dueWork := by
  simp [State.tickRelease, hmay, hun, hrun, hstuck, hstop]

/-- Settles O32: standing still the next tick begins at once; in service due work comes first, then the tick's end. -/
theorem tickReleases : Obligations.TickReleases := by
  intro s l hl
  refine ⟨fun hmay hstuck => exec_same _ s _ rfl (tickRelease_held hmay hstuck), fun hmay hun => ⟨fun hrun => ?_, ?_⟩,
    fun m served => ⟨rfl, rfl, rfl, rfl, rfl, rfl, rfl, rfl, rfl⟩⟩
  · exact exec_next _ s _ _ rfl ((tickRelease_standing hmay hun hrun).trans (release_standing hl hrun))
  · intro hrun hstop hstuck
    have hdue := tickRelease_running hmay hun hstop hstuck hrun
    refine ⟨fun hheld => ?_, fun l' hfree hl' hrun' => ?_⟩
    · exact exec_next _ s _ _ rfl (hdue.trans (if_neg (Bool.eq_false_iff.mp hheld)))
    · exact exec_next _ s _ _ rfl ((hdue.trans (if_pos hfree)).trans (release_running hl' hrun'))

end Sys2Proof.Machine
end

section
/-! SUPPORT and SETTLED. Cohorts built once a tick: empty without the host link or on the way to bivouac (R218, R294, R322, R433). -/

namespace Sys2Proof.Machine

variable {s : State} {l : Loaded}

/-- Latency control has run before the choice between an empty cohort and one with rows. -/
theorem built_buildCohort_empty (hl : s.loaded = some l) (h : s.latency.linkUp = false ∨ s.latency.power.state ≠ .running) :
    s.buildCohort.serve.built = some ⟨s.latency.tick.n + 1, 0, [], false⟩ := by
  have hcond : (!s.latency.linkUp || s.latency.power.state != .running) = true := by simpa using h
  simp only [State.buildCohort, hl]
  rw [if_pos hcond]

/-- Whatever rows the three passes choose, the cohort is the next tick's and not lost. -/
theorem built_buildCohort_rows (hl : s.loaded = some l) (hlink : s.latency.linkUp = true) (hpower : s.latency.power.state = .running) :
    ∃ epoch rows, s.buildCohort.serve.built = some ⟨s.latency.tick.n + 1, epoch, rows, false⟩ := by
  have hcond : ¬(!s.latency.linkUp || s.latency.power.state != .running) = true := by simp [hlink, hpower]
  simp only [State.buildCohort, hl]
  rw [if_neg hcond]
  exact ⟨_, _, rfl⟩

/-- Settles O33: the guard of COHORT_BUILD, and the cohort by the link and the power state that latency control leaves. -/
theorem cohortBuilds : Obligations.CohortBuilds := by
  intro s
  refine ⟨fun hrun hbuilt hclk => ⟨?_, fun l hl h => built_buildCohort_empty hl h, fun l hl hlink hpower => ?_⟩, fun h => ?_⟩
  · exact exec_next _ s _ _ rfl (if_pos (by simp [hrun, hbuilt, hclk]))
  · obtain ⟨epoch, rows, h⟩ := built_buildCohort_rows hl hlink hpower
    exact ⟨_, h, rfl, rfl⟩
  · exact exec_same _ s _ rfl (if_neg (by rcases h with h | h | h <;> simp [h]))

end Sys2Proof.Machine
end

section
/-! SUPPORT and SETTLED. The probe past the barrier deadline, and the end of a darning (R229, R276, R486 to R490). That a core at its
barrier stalls nothing is notes/assumptions/45, that DARNING_COMPLETE ends a live darning too is notes/assumptions/78. -/

namespace Sys2Proof.Machine

variable {s : State} {l : Loaded} {silent : List Site}

/-! ### DEADLINE_PROBE (R229) -/

/-- The probed cores that do not answer; those that do and have not signalled; and of these the ones whose issue count stands where
the last probe found it. -/
def State.silentOf (s : State) (silent : List Site) : List (Site × Assign) := s.probed.filter fun x => silent.contains x.1
def State.answering (s : State) (silent : List Site) : List (Site × Assign) :=
  s.probed.filter fun x => !silent.contains x.1 && !(s.core x.1).atBarrier
def State.stuckAt (s : State) (silent : List Site) : List (Site × Assign) :=
  (s.answering silent).filter fun x =>
    (s.core x.1).lastProbe == some (s.core x.1).issued && !s.tick.stalledStages.contains x.2.stage

/-- The probe counted, and every answering core's issue count kept for the next one. -/
def State.probeNoted (s : State) (silent : List Site) : State :=
  (s.answering silent).foldl (fun s x => s.mapCore x.1 fun c => { c with lastProbe := some c.issued })
    { s with tick := { s.tick with probes := s.tick.probes + 1 } }

/-- What a probe that is due does. -/
def State.probeActs (s : State) (silent : List Site) : State :=
  if !(s.silentOf silent).isEmpty then (s.silentOf silent).foldl (fun s x => s.coreDies x.1) (s.probeNoted silent)
  else (s.stuckAt silent).foldl (fun s x => s.stall x.1 x.2) (s.probeNoted silent)

theorem deadlineProbe_eq (hl : s.loaded = some l) : s.deadlineProbe silent =
    if !s.tick.running || s.clocksStopped || s.time < s.probeAt l.t || s.probed.isEmpty then s else s.probeActs silent := by
  unfold State.deadlineProbe
  split
  · next hnone => exact absurd (hl.symm.trans hnone) (Option.some_ne_none l)
  · next l' hl' =>
    obtain rfl := Option.some.inj (hl.symm.trans hl')
    rfl

theorem deadlineProbe_idle (hl : s.loaded = some l)
    (h : s.tick.running = false ∨ s.clocksStopped = true ∨ s.time < s.probeAt l.t ∨ s.probed = []) : s.deadlineProbe silent = s := by
  rw [deadlineProbe_eq hl, if_pos]
  rcases h with h | h | h | h <;> simp [h]

theorem deadlineProbe_due (hl : s.loaded = some l) (hrun : s.tick.running = true) (hclk : s.clocksStopped = false)
    (hdue : s.probeAt l.t ≤ s.time) (hprobed : s.probed ≠ []) : s.deadlineProbe silent = s.probeActs silent := by
  rw [deadlineProbe_eq hl, if_neg]
  simp [hrun, hclk, hdue, hprobed]

theorem probeActs_eq : s.probeActs silent =
    if s.silentOf silent ≠ [] then (s.silentOf silent).foldl (fun s x => s.coreDies x.1) (s.probeNoted silent)
    else (s.stuckAt silent).foldl (fun s x => s.stall x.1 x.2) (s.probeNoted silent) := by
  have hsilent : (!(s.silentOf silent).isEmpty) = true ↔ s.silentOf silent ≠ [] := by simp
  rw [State.probeActs, if_congr hsilent rfl rfl]

/-! ### DARNING_COMPLETE (R276, R486 to R490) -/

theorem darningComplete_idle (h : s.held 2 = false ∨ s.transit.guards ≠ [] ∨ s.transit.closes ≠ [] ∨ s.clocksStopped = true) :
    s.darningComplete = s := by
  refine if_pos ?_
  rcases h with h | h | h | h <;> simp [h]

/-- Every row with a core to darn shifted, every bad frame retired, and what they need asked for (R486 to R488). -/
def State.rowsDarned (s : State) : State :=
  let t := s.darnRows.foldl (fun s r => s.shiftRow r.1 r.2) s
  (t.errors.badFrames.foldl (fun (s : State) x => s.retireFrame x.1 x.2)
    { t with errors := { t.errors with badFrames := [] } }).settleSources State.loadFails

/-- Nothing stands in a darning's way: its hold is placed, no class 3 message is on its way, no row is stuck, no lost core's panel
is dark. -/
def State.mayDarn (s : State) : Prop :=
  (!s.held 2 || s.errors.stuck || !s.transit.guards.isEmpty || !s.transit.closes.isEmpty || s.clocksStopped ||
    s.errors.deadCores.any (fun k => (s.panel k.panel).wentDark)) = false

theorem mayDarn_intro (hheld : s.held 2 = true) (hguards : s.transit.guards = []) (hcloses : s.transit.closes = [])
    (hclk : s.clocksStopped = false) (hstuck : s.errors.stuck = false)
    (hlit : ∀ k ∈ s.errors.deadCores, (s.panel k.panel).wentDark = false) : s.mayDarn := by
  simpa [State.mayDarn, hheld, hguards, hcloses, hclk, hstuck] using hlit

/-- The end of a darning: the hold lifts, and what was darned is reported with the time the hold took. -/
def State.darnEnds (t : State) : State :=
  let since := ((t.holds.find? fun h => h.reason == 2).map (·.since)).getD t.time
  let v := (t.liftHold 2).endCode 0x0A0A
  match v.errors.darned with
  | none => v
  | some (loc, what) =>
    ({ v with errors := { v.errors with darned := none } } : State).raise
      { code := 0x0A0B, cls := .corrected, kind := 0, loc := loc, arg0 := (v.time - since) / 1000, arg1 := what }

theorem darningComplete_eq (hmay : s.mayDarn) :
    s.darningComplete = if s.rowsDarned.errors.stuck || s.rowsDarned.fetching .darn then s.rowsDarned else s.rowsDarned.darnEnds := by
  unfold State.darningComplete
  rw [if_neg (Bool.eq_false_iff.mp hmay)]
  extract_lets shifted bad errors cleared u since lifted errors'
  have hu : s.rowsDarned = u := rfl
  clear_value u
  rw [hu]
  rfl

theorem darnEnds_eq {h : Hold} {loc what : Nat} (hhold : s.holds.find? (fun h => h.reason == 2) = some h)
    (hdarned : ((s.liftHold 2).endCode 0x0A0A).errors.darned = some (loc, what)) :
    s.darnEnds =
      let v := (s.liftHold 2).endCode 0x0A0A
      ({ v with errors := { v.errors with darned := none } } : State).raise
        { code := 0x0A0B, cls := .corrected, kind := 0, loc := loc, arg0 := (v.time - h.since) / 1000, arg1 := what } := by
  simp only [State.darnEnds, hdarned, hhold]
  rfl

/-- Settles O35: the probe by its guard, then by whether a core is silent; the darning by what is left to wait for. -/
theorem deadlineAndDarning : Obligations.DeadlineAndDarning := by
  refine ⟨fun s l silent hl => ⟨fun h => ?_, fun hrun hclk hdue hprobed => ?_⟩, fun s => ⟨fun h => ?_, ?_⟩⟩
  · exact exec_same _ s (State.deadlineProbe · silent) rfl (deadlineProbe_idle hl h)
  · exact exec_next _ s _ (State.deadlineProbe · silent) rfl ((deadlineProbe_due hl hrun hclk hdue hprobed).trans probeActs_eq)
  · exact exec_same _ s State.darningComplete rfl (darningComplete_idle h)
  · intro hheld hguards hcloses hclk hstuck hlit t u
    have hdo := darningComplete_eq (mayDarn_intro hheld hguards hcloses hclk hstuck hlit)
    have hu : s.rowsDarned = u := rfl
    clear_value u
    rw [hu] at hdo
    refine ⟨fun hwait => ?_, fun h loc what hstuck' hfetch hhold hdarned => ?_⟩
    · exact exec_next _ s u State.darningComplete rfl (hdo.trans (if_pos (Bool.or_eq_true_iff.mpr hwait)))
    · have hdone : (u.errors.stuck || u.fetching .darn) = false := Bool.or_eq_false_iff.mpr ⟨hstuck', hfetch⟩
      exact exec_next _ s _ State.darningComplete rfl
        ((hdo.trans (if_neg (Bool.eq_false_iff.mp hdone))).trans (darnEnds_eq hhold hdarned))

end Sys2Proof.Machine
end

section
/-! SUPPORT and SETTLED. Zips of the host: ZIP_OPEN, ZIP_STAGE and ZIP_CLOSE on the control ring, validation in the order of the
closes, and the expiry of a zip left alone (R233 to R235, R345). That identifiers count on modulo 65,536 is notes/assumptions/6, that
the engine's own zips are not among the 64 is notes/assumptions/23. -/

namespace Sys2Proof.Machine

/-- A control command that takes the descriptor at its ring's head. -/
theorem ctrlRun_exec (i : Instr) {s : State} {f kind : Nat} (g : Ctrl → State → State) {c : Ctrl} {u t : State} (hf : fnOk f)
    (h : s.ctrlHead f kind = some (c, u)) (hi : exec i s = onUnit (fnOk f) s fun s => s.ctrlRun f kind g) (hg : g c (u.ctrlNext f) = t) :
    exec i s = .next (t.withQueueOf s) :=
  ctrl_exec i s f kind (fun c s => g c (s.ctrlNext f)) c u t hf h hi hg

variable {s : State} {f : Nat} {c : Ctrl}

theorem not_bnot_of_eq_true {b : Bool} (h : b = true) : ¬(!b) = true := by simp [h]

/-! ### ZIP_OPEN (R234) -/

theorem zipOpen_busy (hd : descClear c.bs [] = true) (h : s.openZip f ≠ none ∨ 64 ≤ s.hostZips) :
    s.zipOpen f c = s.control f c 6 0 0 := by
  refine (if_neg (not_bnot_of_eq_true hd)).trans (if_pos ?_)
  simpa [Option.isSome_iff_ne_none] using h

/-- A function's new zip, under the next identifier. -/
def State.zipOpened (s : State) (f : Nat) : State := { s with
  zips := s.zips ++ [⟨s.nextZip, .host f, [], .open_, s.time, false, none, 0, none⟩]
  nextZip := (s.nextZip + 1) % 65536
  fns := s.fns.map fun e => (e.1, { e.2 with zipsGone := e.2.zipsGone.filter fun x => x.1 ≠ s.nextZip }) }

theorem zipOpen_free (hd : descClear c.bs [] = true) (hopen : s.openZip f = none) (hroom : s.hostZips < 64) :
    s.zipOpen f c = (s.zipOpened f).control f c 0 s.nextZip 0 := by
  refine (if_neg (not_bnot_of_eq_true hd)).trans (if_neg ?_)
  simp [hopen, hroom]

/-! ### ZIP_STAGE (R233, R234) -/

/-- Entries that lie in host memory from an address. -/
def State.zipEntriesAt (s : State) (addr n : Nat) : List ZipEntry :=
  (List.range n).map fun i => zipEntryOf (((s.hostRead addr (16 * n)).drop (16 * i)).take 16)

/-- A zip with entries added: past the 4,096th it is marked failed. -/
def State.zipStaged (s : State) (z : Zip) (all : List ZipEntry) : State :=
  s.mapZip z.id fun z => { z with entries := all.take 4096, full := z.full || decide (4096 < all.length), touched := s.time }

theorem zipStage_named {z : Zip} (hd : descClear c.bs [(4, 16), (8, 64), (0x10, 13)] = true)
    (hpos : 0 < bitsOf (fieldAt c.bs 0x10 4) 12 0) (hmax : bitsOf (fieldAt c.bs 0x10 4) 12 0 ≤ 4096)
    (haddr : fieldAt c.bs 8 8 % 16 = 0) (hz : s.namedZip f (fieldAt c.bs 4 2) = .ok z) :
    s.zipStage f c =
      let all := z.entries ++ s.zipEntriesAt (fieldAt c.bs 8 8) (bitsOf (fieldAt c.bs 0x10 4) 12 0)
      (s.zipStaged z all).control f c 0 (min all.length 4096) 0 := by
  have hbad : ¬(!descClear c.bs [(4, 16), (8, 64), (0x10, 13)] || bitsOf (fieldAt c.bs 0x10 4) 12 0 == 0 ||
      decide (4096 < bitsOf (fieldAt c.bs 0x10 4) 12 0)) = true := by
    simp [hd, hmax, Nat.pos_iff_ne_zero.mp hpos]
  unfold State.zipStage
  extract_lets addr n
  rw [if_neg hbad, if_neg (not_not.mpr haddr), hz]
  rfl

/-! ### ZIP_CLOSE (R235) -/

/-- A zip that awaits its validation, behind those closed before it. -/
def State.zipClosed (s : State) (c : Ctrl) (z : Zip) : State := { s with
  zips := s.zips.filter (fun x => x.id ≠ z.id) ++
    [{ z with phase := .closed, validEnd := s.validAt z.entries.length, close := some (c.idx, c.utag) }] }

theorem zipClose_named {z : Zip} (hd : descClear c.bs [(4, 16)] = true) (hz : s.namedZip f (fieldAt c.bs 4 2) = .ok z) :
    s.zipClose f c = s.zipClosed c z := by
  unfold State.zipClose
  extract_lets id
  rw [if_neg (not_bnot_of_eq_true hd), hz]
  rfl

/-! ### ZIP_VALIDATED and ZIP_EXPIRY (R234, R235) -/

/-- Only the first zip closed may end its validation. -/
def State.zipValidation (s : State) (id : Nat) : State :=
  match (s.zips.filter fun z => z.phase == .closed).head? with
  | some z => if z.id = id then s.validate id else s
  | none => s

theorem zipValidation_some {z : Zip} (h : (s.zips.filter fun z => z.phase == .closed).head? = some z) (id : Nat) :
    s.zipValidation id = if z.id = id then s.validate id else s := by
  rw [State.zipValidation, h]

theorem exec_zipValidated (id : Nat) : exec (.zipValidated id) s = .next ((s.zipValidation id).withQueueOf s) :=
  exec_next _ s _ (State.zipValidation · id) rfl rfl

/-- The open zip of an identifier that was left alone for 1 s. -/
def State.leftAlone (s : State) (id : Nat) : Option Zip :=
  s.zips.find? fun x => x.id == id && x.phase == .open_ && decide (x.touched + 1000000000 ≤ s.time)

theorem leftAlone_eq_none {id : Nat} (h : ∀ x ∈ s.zips, x.id = id → x.phase = .open_ → s.time < x.touched + 1000000000) :
    s.leftAlone id = none := by
  refine List.find?_eq_none.mpr fun x hx hleft => ?_
  simp only [Bool.and_eq_true, beq_iff_eq, decide_eq_true_eq] at hleft
  obtain ⟨⟨hid, hopen⟩, htime⟩ := hleft
  exact absurd htime (Nat.not_le.mpr (h x hx hid hopen))

/-- A zip of `n` entries is gone, its name answers ZIP_EXPIRED, and the expiry is reported. -/
def State.zipExpires (s : State) (f id n : Nat) : State :=
  (({ s with zips := s.zips.filter fun x => x.id ≠ id } : State).mapFn f fun x => { x with zipsGone := putK x.zipsGone id 8 }).raise
    { code := 0x0305, cls := .note, func := some f, count := n, arg0 := id }

/-- An expiry touches the host's zips alone. -/
def State.zipExpiry (s : State) (id : Nat) : State :=
  match s.leftAlone id with
  | some z => match z.owner with
    | .host f => s.zipExpires f id z.entries.length
    | _ => s
  | none => s

theorem zipExpiry_none {id : Nat} (h : s.leftAlone id = none) : s.zipExpiry id = s := by
  rw [State.zipExpiry, h]

theorem zipExpiry_host {z : Zip} (h : s.leftAlone z.id = some z) (hf : z.owner = .host f) :
    s.zipExpiry z.id = s.zipExpires f z.id z.entries.length := by
  simp only [State.zipExpiry, h, hf]

theorem exec_zipExpiry (id : Nat) : exec (.zipExpiry id) s = .next ((s.zipExpiry id).withQueueOf s) :=
  exec_next _ s _ (State.zipExpiry · id) rfl rfl

/-- Settles O37: the ring's commands by the zip they open or name; validation and expiry by the zip they find. -/
theorem zips : Obligations.Zips := by
  refine ⟨fun s f c u hf => ⟨fun h hd => ⟨fun hopen hroom => ?_, fun hbusy => ?_⟩, ?_, fun h hd z hz => ?_⟩,
    fun s z => ⟨fun h => ⟨?_, fun id hid => ?_⟩, fun f h hf => ?_, fun id h => ?_⟩⟩
  · exact ctrlRun_exec _ (fun c s => s.zipOpen f c) hf h rfl (zipOpen_free hd hopen hroom)
  · exact ctrlRun_exec _ (fun c s => s.zipOpen f c) hf h rfl (zipOpen_busy hd hbusy)
  · intro h addr n hd hpos hmax haddr z hz
    exact ctrlRun_exec _ (fun c s => s.zipStage f c) hf h rfl (zipStage_named hd hpos hmax haddr hz)
  · exact ctrlRun_exec _ (fun c s => s.zipClose f c) hf h rfl (zipClose_named hd hz)
  · rw [exec_zipValidated, zipValidation_some h, if_pos rfl]
  · rw [exec_zipValidated, zipValidation_some h, if_neg hid.symm]
    rfl
  · rw [exec_zipExpiry, zipExpiry_host h hf]
    rfl
  · rw [exec_zipExpiry, zipExpiry_none (leftAlone_eq_none h)]
    rfl

end Sys2Proof.Machine
end

section
/-! SUPPORT and SETTLED. EVICT and RESTORE: page images moved as far as the rations allow, with the place reached kept at the ring's
head (R219, R282, R283, R345; what they charge is notes/assumptions/20). -/

namespace Sys2Proof.Machine

variable {s : State} {f : Nat} {c : Ctrl} {x : Seq}

/-- The descriptor at the head ends: nothing of it has moved, it is passed, and its record is made. -/
def State.endsMove (s : State) (f : Nat) (c : Ctrl) (status a b : Nat) : State :=
  ((s.setMoved f 0).ctrlNext f).control f c status a b

/-! ### EVICT (R282) -/

/-- How far an EVICT comes, and the state then. -/
def State.evictRun (s : State) (f : Nat) (c : Ctrl) (x : Seq) : Nat × State :=
  State.evictFrom f (fieldAt c.bs 8 8) (s.fn f).moved ((s.imageFrames x.slot).drop (s.fn f).moved) s

theorem evict_paused (hx : s.pausedSeq f c = .ok x) (hsize : imageBytes * (s.imageFrames x.slot).length ≤ fieldAt c.bs 0x10 8) :
    s.evict f c =
      if (s.evictRun f c x).1 < (s.imageFrames x.slot).length then (s.evictRun f c x).2.setMoved f (s.evictRun f c x).1
      else ((s.evictRun f c x).2.freePages x.slot fun _ => true).endsMove f c 0 (s.imageFrames x.slot).length
        (imageBytes * (s.imageFrames x.slot).length) := by
  unfold State.evict
  rw [hx]
  exact if_neg (Nat.not_lt.mpr hsize)

/-! ### RESTORE (R283) -/

/-- The state with a sequence's pages mapped, if they can be: they are mapped once, with the first frame that moves. -/
def State.restoreMapped (s : State) (f : Nat) (x : Seq) (is : List PageImage) : Option State :=
  if (s.fn f).moved = 0 then s.mapAll x ((is.map (·.lpage)).eraseDups.length) else some s

theorem restoreSeq_paused {is : List PageImage} {t : State} (hx : s.pausedSeq f c = .ok x)
    (his : s.readImages x (fieldAt c.bs 8 8) (fieldAt c.bs 0x10 8) = .ok is) (ht : s.restoreMapped f x is = some t) :
    s.restoreSeq f c =
      let r := State.restoreFrom f x (s.fn f).moved (is.drop (s.fn f).moved) t
      if r.1 = is.length then r.2.endsMove f c 0 is.length 0 else if r.1 = 0 then s else r.2.setMoved f r.1 := by
  unfold State.restoreSeq
  rw [hx]
  dsimp only
  rw [his]
  dsimp only
  rw [show (if (s.fn f).moved = 0 then s.mapAll x ((is.map (·.lpage)).eraseDups.length) else some s) = some t from ht]
  rfl

/-- Settles O39: each by whether the last frame has moved. -/
theorem pageImages : Obligations.PageImages := by
  intro s f c u x hf hx
  refine ⟨fun h hsize => ?_, fun h is t his ht => ?_⟩
  · have hev := evict_paused hx hsize
    refine ⟨fun hpart => ?_, fun hall => ?_⟩
    · exact ctrl_exec _ s f 7 (fun c s => s.evict f c) c u _ hf h rfl (hev.trans (if_pos hpart))
    · exact ctrl_exec _ s f 7 (fun c s => s.evict f c) c u _ hf h rfl (hev.trans (if_neg (Nat.not_lt.mpr hall)))
  · have hre := restoreSeq_paused hx his ht
    refine ⟨fun hall => ?_, fun hpart hpos => ?_⟩
    · exact ctrl_exec _ s f 8 (fun c s => s.restoreSeq f c) c u _ hf h rfl (hre.trans (if_pos hall))
    · exact ctrl_exec _ s f 8 (fun c s => s.restoreSeq f c) c u _ hf h rfl
        (hre.trans ((if_neg hpart).trans (if_neg (Nat.ne_of_gt hpos))))

end Sys2Proof.Machine
end

section
/-! SUPPORT and SETTLED. LOAD, by what its checks find, and UNLOAD, by whether ticks run (R244, R245, R345, R395). That an UNLOAD
holds the ring until it is complete is notes/assumptions/53, that it acts at once on a fatally stopped package is
notes/assumptions/142. -/

namespace Sys2Proof.Machine

variable {s : State} {f : Nat} {c : Ctrl}

/-! ### LOAD (R244, R245, R395) -/

/-- A chained package waits for its group, which is told of it. -/
def State.loadChained (s : State) (l : Loaded) : State :=
  (({ s with
      loadPending := some l
      regs := { s.regs with groupIn := some (s.regs.groupLinks, s.regs.gid.toNat, s.regs.groupDig) } } : State).sendGroup l).settleChain

/-- A LOAD whose descriptor is in order. -/
def State.loadChecked (s : State) (f : Nat) (c : Ctrl) : State :=
  match s.checkLoad f c with
  | .error e => s.control f c e 0 0
  | .ok l =>
    if l.pkg.chained && (s.regs.groupLinks == 0 || s.regs.gid == 0) then s.control f c 0x0010 0 0
    else if l.pkg.chained then s.loadChained l else s.startLoad l

/-- LOAD's effect on the ring's head. -/
def State.loadHead (s : State) (f : Nat) (c : Ctrl) : State :=
  if !descClear c.bs [(8, 64), (0x10, 64), (0x18, 32), (0x1C, 14)] then s.control f c 0x40 0 0
  else if fieldAt c.bs 8 8 % 4096 ≠ 0 then s.control f c 0x41 0 0
  else s.loadChecked f c

theorem exec_load_eq (s : State) (f : Nat) : exec (.load f) s = onUnit (fnOk f) s fun s => s.ctrlRun f 1 fun c s => s.loadHead f c := rfl

theorem loadHead_good (hd : descClear c.bs [(8, 64), (0x10, 64), (0x18, 32), (0x1C, 14)] = true) (haddr : fieldAt c.bs 8 8 % 4096 = 0) :
    s.loadHead f c = s.loadChecked f c :=
  (if_neg (not_bnot_of_eq_true hd)).trans (if_neg (not_not.mpr haddr))

/-- An accepted package is placed, refused for want of a group, or told to its group. -/
theorem loadChecked_ok {l : Loaded} (hl : s.checkLoad f c = .ok l) :
    s.loadChecked f c = if l.pkg.chained = false then s.startLoad l
      else if s.regs.groupLinks = 0 ∨ s.regs.gid = 0 then s.control f c 0x0010 0 0 else s.loadChained l := by
  rw [State.loadChecked, hl]
  dsimp only
  cases l.pkg.chained with
  | false => rfl
  | true => simp

/-! ### UNLOAD (R345) -/

/-- UNLOAD's effect on the ring's head. -/
def State.unloadHead (s : State) (f : Nat) (c : Ctrl) : State :=
  if !descClear c.bs [] then s.control f c 0x40 0 0
  else if f ≠ 0 then s.control f c 0x48 0 0
  else if s.loaded.isNone then s.control f c 0x47 0 0
  else
    let t : State := { s with unloading := some (some (f, c.idx, c.utag)) }
    if t.tick.running && !t.errors.fatal then t else t.unloadNow none

/-- Without a chained load that waits. -/
theorem exec_unload_eq (f : Nat) (h : s.loadPending = none) :
    exec (.unload f) s = onUnit (fnOk f) s fun s => s.ctrlRun f 2 fun c s => s.unloadHead f c := by
  have hwait : ¬(s.loadPending.isSome && decide (f = 0)) = true := by simp [h]
  refine if_congr Iff.rfl (congrArg (fun t : State => done s (t.ctrlRun f 2 fun c s => s.unloadHead f c)) (if_neg ?_)) rfl
  simp [h]

theorem unloadHead_loaded (hd : descClear c.bs [] = true) (hl : s.loaded ≠ none) :
    let t : State := { s with unloading := some (some (0, c.idx, c.utag)) }
    s.unloadHead 0 c = if s.tick.running && !s.errors.fatal then t else t.unloadNow none := by
  have hnone : ¬s.loaded.isNone = true := by simpa using hl
  exact (if_neg (not_bnot_of_eq_true hd)).trans ((if_neg (not_not.mpr rfl)).trans (if_neg hnone))

/-- Settles O40: LOAD by what its checks answer, UNLOAD by whether ticks run and can end. -/
theorem loadAndUnload : Obligations.LoadAndUnload := by
  intro s f c u hf t
  refine ⟨fun h hd haddr => ?_, ?_⟩
  · refine ctrlRun_exec _ (fun c s => s.loadHead f c) hf h rfl ((loadHead_good hd haddr).trans ?_)
    cases hc : t.checkLoad f c with
    | error e => rw [State.loadChecked, hc]
    | ok l => exact loadChecked_ok hc
  · intro hpend h hd t v hl
    have hun := unloadHead_loaded hd hl
    refine ⟨fun hrun hfatal => ?_, fun hend => ?_⟩
    · exact ctrlRun_exec _ (fun c s => s.unloadHead 0 c) (by decide) h (exec_unload_eq 0 hpend) (hun.trans (if_pos (by simp [hrun, hfatal])))
    · exact ctrlRun_exec _ (fun c s => s.unloadHead 0 c) (by decide) h (exec_unload_eq 0 hpend)
        (hun.trans (if_neg (by rcases hend with h | h <;> simp [h])))

end Sys2Proof.Machine
end

section
/-! SUPPORT and SETTLED. Frames over guy links: commands for frames of one type and kind, the markers of a tick group, and the markers'
timers (R230 to R232, R389 to R397, R469). That markers' ticks compare with their sign is notes/assumptions/105, that a HELD marker goes
out each 1 ms until its hold lifts and TICK follows is notes/assumptions/106, that LOSS is not forwarded is notes/assumptions/79. -/

namespace Sys2Proof.Machine

variable {s t : State} {l : Nat} {f : Frame}

/-! ### Commands for frames of one type and kind -/

/-- The first block of a frame as a number. -/
def leadOf (f : Frame) : Nat := (f.blocks.head?.getD 0).toNat

section
variable {typ : Nat} {ok : Nat → Bool} {k : Nat → State → State}

theorem onFrame_other (h : fType f ≠ typ ∨ ok (leadOf f) = false) : s.onFrame l typ ok f k = s :=
  if_pos (h.imp_right fun hok => by rw [← leadOf, hok]; rfl)

theorem onFrame_fits (htype : fType f = typ) (hok : ok (leadOf f) = true) :
    s.onFrame l typ ok f k = if (s.rxFrame l f).2 then k (leadOf f) (s.rxFrame l f).1 else (s.rxFrame l f).1 :=
  if_neg (by rw [← leadOf, htype, hok]; simp)

/-- A command that takes frames of type `typ` whose first block passes `ok`, and does `k` with one taken. -/
def takesFrames (i : Instr) (l : Nat) (f : Frame) (typ : Nat) (ok : Nat → Bool) (k : Nat → State → State) : Prop :=
  ∀ s : State, exec i s = onUnit (linkOk l) s fun s => s.onFrame l typ ok f k

variable {i : Instr}

theorem takesFrames_other (hi : takesFrames i l f typ ok k) (hl : linkOk l) (h : fType f ≠ typ ∨ ok (leadOf f) = false) :
    exec i s = .next s :=
  (hi s).trans (ou_same hl (onFrame_other h))

theorem takesFrames_dropped (hi : takesFrames i l f typ ok k) (hl : linkOk l) (htype : fType f = typ) (hok : ok (leadOf f) = true)
    (hrx : (s.rxFrame l f).2 = false) : exec i s = .next ((s.rxFrame l f).1.withQueueOf s) :=
  (hi s).trans (ou hl ((onFrame_fits htype hok).trans (if_neg (Bool.eq_false_iff.mp hrx))))

theorem takesFrames_taken {u : State} (hi : takesFrames i l f typ ok k) (hl : linkOk l) (htype : fType f = typ) (hok : ok (leadOf f) = true)
    (hrx : s.rxFrame l f = (t, true)) (hk : k (leadOf f) t = u) : exec i s = .next (u.withQueueOf s) :=
  (hi s).trans (ou hl ((onFrame_fits htype hok).trans (by rw [hrx]; exact hk)))

end

/-! ### What the commands do with a frame taken (R383, R389 to R392, R395 to R397, R469) -/

/-- An acknowledgement alone is a LINK frame without a block (R383). -/
theorem takesFrames_guyAckFrame (l : Nat) (f : Frame) :
    takesFrames (.guyAckFrame l f) l f 4 (fun _ => fNb f == 0) fun _ s => s := by
  intro s
  refine if_congr Iff.rfl (congrArg (done s) ?_) rfl
  dsimp only
  by_cases h : fNb f = 0
  · rw [if_pos h, h]
    rfl
  · rw [if_neg h]
    exact (onFrame_other (ok := fun _ => fNb f == 0) (.inr (beq_false_of_ne h))).symm

/-- NOT_HELD: the request of the frame's channel is a failed attempt (R392). -/
def State.notHeld (s : State) (l : Nat) (f : Frame) : State :=
  match (s.guy l).requests.find? (fun r => r.chan == fChan f) with
  | none => s
  | some q => ((s.mapGuy l fun g => { g with requests := g.requests.filter fun r => r.chan ≠ fChan f }).failDigest l q.digest).settleRelays

/-- GROUP: kept for the link, and checked against a LOAD that waits (R395). -/
def State.takeGroup (s : State) (l b : Nat) : State :=
  (s.mapGuy l fun g => { g with
    groupSeen := some (bitsOf b 63 32, bitsOf b 95 64, bitsOf b 159 96, BitVec.ofNat 256 (bitsOf b 415 160)) }).settleChain

/-- WAKE: the module wakes in the block's mode and passes the block on (R397). -/
def State.takeWake (s : State) (l b : Nat) : State :=
  if !s.chained ∨ bitsOf b 191 160 ≠ s.gid ∨ !s.mayWake then s
  else (s.sendPower 3 (bitsOf b 8 8) (bitsOf b 95 32) fun i => i != l).wakeNow (bitOf b 8)

/-- LOSS: a member of the group marks the cohort lost (R469). -/
def State.takeLoss (s : State) (l b : Nat) : State :=
  if !s.chained ∨ s.errors.cohortsLost.any (fun x => x.1 = bitsOf b 127 64) then s
  else { s with errors := { s.errors with cohortsLost := s.errors.cohortsLost ++ [(bitsOf b 127 64, 0xFFFFFFFF, 0, guyLoc l, 1)] } }

theorem takesFrames_stageFrame (l : Nat) (f : Frame) :
    takesFrames (.stageFrame l f) l f 1 (fun _ => true) fun _ s => s.takeStage l f := fun _ => rfl
theorem takesFrames_shardRequest (l : Nat) (f : Frame) : takesFrames (.shardRequest l f) l f 3 (fun b => b % 256 == 1)
    fun b s => s.takeRequest l (fChan f) (BitVec.ofNat 256 (bitsOf b 319 64)) := fun _ => rfl
theorem takesFrames_notHeld (l : Nat) (f : Frame) :
    takesFrames (.notHeld l f) l f 3 (fun b => b % 256 == 3) fun _ s => s.notHeld l f := fun _ => rfl
theorem takesFrames_tickMarker (l : Nat) (f : Frame) :
    takesFrames (.tickMarker l f) l f 4 (fun b => fNb f == 1 && b % 256 == 1) fun b s => s.takeMarker l b := fun _ => rfl
theorem takesFrames_heldMarker (l : Nat) (f : Frame) :
    takesFrames (.heldMarker l f) l f 4 (fun b => fNb f == 1 && b % 256 == 2) fun b s => s.takeMarker l b := fun _ => rfl
theorem takesFrames_group (l : Nat) (f : Frame) :
    takesFrames (.group l f) l f 2 (fun b => b % 256 == 1) fun b s => s.takeGroup l b := fun _ => rfl
theorem takesFrames_bivouac (l : Nat) (f : Frame) :
    takesFrames (.bivouac l f) l f 2 (fun b => b % 256 == 2) fun b s => s.takeBivouac l b := fun _ => rfl
theorem takesFrames_wake (l : Nat) (f : Frame) :
    takesFrames (.wake l f) l f 2 (fun b => b % 256 == 3) fun b s => s.takeWake l b := fun _ => rfl
theorem takesFrames_loss (l : Nat) (f : Frame) :
    takesFrames (.loss l f) l f 2 (fun b => b % 256 == 4) fun b s => s.takeLoss l b := fun _ => rfl

/-- The commands of one frame, with the type each takes and whether this frame's kind fits. -/
def frameCommands (l : Nat) (f : Frame) : List (Instr × Nat × Bool) :=
  [(.stageFrame l f, 1, true), (.guyAckFrame l f, 4, fNb f == 0),
    (.shardRequest l f, 3, leadOf f % 256 == 1), (.notHeld l f, 3, leadOf f % 256 == 3), (.tickMarker l f, 4, fNb f == 1 && leadOf f % 256 == 1),
    (.heldMarker l f, 4, fNb f == 1 && leadOf f % 256 == 2), (.group l f, 2, leadOf f % 256 == 1), (.bivouac l f, 2, leadOf f % 256 == 2),
    (.wake l f, 2, leadOf f % 256 == 3), (.loss l f, 2, leadOf f % 256 == 4)]

theorem frameCommands_take : ∀ x ∈ frameCommands l f, ∃ ok k, takesFrames x.1 l f x.2.1 ok k ∧ ok (leadOf f) = x.2.2 := by
  simp only [frameCommands, List.forall_mem_cons]
  exact ⟨⟨_, _, takesFrames_stageFrame l f, rfl⟩, ⟨_, _, takesFrames_guyAckFrame l f, rfl⟩, ⟨_, _, takesFrames_shardRequest l f, rfl⟩,
    ⟨_, _, takesFrames_notHeld l f, rfl⟩, ⟨_, _, takesFrames_tickMarker l f, rfl⟩, ⟨_, _, takesFrames_heldMarker l f, rfl⟩,
    ⟨_, _, takesFrames_group l f, rfl⟩, ⟨_, _, takesFrames_bivouac l f, rfl⟩, ⟨_, _, takesFrames_wake l f, rfl⟩,
    ⟨_, _, takesFrames_loss l f, rfl⟩, fun _ h => absurd h List.not_mem_nil⟩

/-- SHARD_DATA passes over frames of other types (R391). -/
theorem exec_shardData (hl : linkOk l) (frs : List Frame) :
    exec (.shardData l frs) s = .next ((frs.foldl (fun (s : State) f => if fType f = 3 then
      (if (s.rxFrame l f).2 = true then (s.rxFrame l f).1.takeData l f else (s.rxFrame l f).1) else s) s).withQueueOf s) :=
  ou (f := fun s => frs.foldl (fun s f => if fType f ≠ typBulk then s
    else if (s.rxFrame l f).2 then (s.rxFrame l f).1.takeData l f else (s.rxFrame l f).1) s) hl
    (List.foldl_ext _ _ _ fun _ _ _ => ite_not _ _ _)

theorem notHeld_asked {q : BulkReq} (h : (s.guy l).requests.find? (fun r => r.chan == fChan f) = some q) :
    s.notHeld l f =
      ((s.mapGuy l fun g => { g with requests := g.requests.filter fun r => r.chan ≠ fChan f }).failDigest l q.digest).settleRelays := by
  rw [State.notHeld, h]

variable {b : Nat}

theorem takeBivouac_fresh (hchain : s.chained = true) (hgid : bitsOf b 191 160 = s.gid)
    (hpower : s.power.state = .running ∨ s.power.state = .entering) (hfresh : ∀ u, s.power.groupStop = some u → u < bitsOf b 95 32) :
    s.takeBivouac l b = ({ s with power := { s.power with
      state := .entering, groupStop := some (bitsOf b 95 32) } } : State).sendPower 2 0 (bitsOf b 95 32) fun i => i != l := by
  have hgroup : ¬((!s.chained) = true ∨ bitsOf b 191 160 ≠ s.gid ∨ (s.power.state ≠ .running ∧ s.power.state ≠ .entering)) := by
    rcases hpower with h | h <;> simp [hchain, hgid, h]
  refine (if_neg hgroup).trans ?_
  cases hstop : s.power.groupStop with
  | none => rfl
  | some u => exact if_neg (by simpa using hfresh u hstop)

theorem takeWake_group (hchain : s.chained = true) (hgid : bitsOf b 191 160 = s.gid) (hwake : s.mayWake = true) :
    s.takeWake l b = (s.sendPower 3 (bitsOf b 8 8) (bitsOf b 95 32) fun i => i != l).wakeNow (bitOf b 8) :=
  if_neg (by simp [hchain, hgid, hwake])

theorem takeLoss_new (hchain : s.chained = true) (hnew : ∀ x ∈ s.errors.cohortsLost, x.1 ≠ bitsOf b 127 64) :
    s.takeLoss l b = { s with errors := { s.errors with
      cohortsLost := s.errors.cohortsLost ++ [(bitsOf b 127 64, 0xFFFFFFFF, 0, guyLoc l, 1)] } } :=
  if_neg fun h => by
    rcases h with h | h
    · simp [hchain] at h
    · obtain ⟨x, hx, hn⟩ := List.any_eq_true.mp h
      exact hnew x hx (of_decide_eq_true hn)

/-! ### Markers of a tick group (R230 to R232, R393, R394, R396) -/

/-- A marker's tick counts as seen, and what the partner has seen as acknowledged. -/
def State.markerSeen (s : State) (l b : Nat) : State := s.mapGuy l fun g => { g with
  highest := if signed64 g.highest < signed64 (bitsOf b 95 32) then bitsOf b 95 32 else g.highest
  partnerAck := if signed64 g.partnerAck < signed64 (bitsOf b 159 96) then bitsOf b 159 96 else g.partnerAck }

/-- A marker from beyond the next tick (R232). -/
def State.markerBeyond (u : State) (l b : Nat) : State :=
  ({ u.placeHold 6 with tick := { (u.placeHold 6).tick with badMarker := true } } : State).raise
    { code := 0x0304, cls := .contained, kind := 5, loc := guyLoc l, arg0 := l, arg1 := bitsOf b 95 32, arg2 := (u.guy l).partner }

theorem guy_placeHold (s : State) (reason l : Nat) : (s.placeHold reason).guy l = s.guy l := by
  unfold State.placeHold
  split <;> rfl

/-- The hold leaves the link's partner as it was. -/
theorem markerBeyond_eq (u : State) (l b : Nat) :
    u.markerBeyond l b =
      let w : State := { u.placeHold 6 with tick := { (u.placeHold 6).tick with badMarker := true } }
      w.raise { code := 0x0304, cls := .contained, kind := 5, loc := guyLoc l, arg0 := l, arg1 := bitsOf b 95 32, arg2 := (w.guy l).partner } := by
  rw [State.markerBeyond, ← guy_placeHold u 6 l]
  rfl

/-- A marker kept: a held one by its time, a tick's once for the tick in progress and once for the next (R231, R394). -/
def State.markerKept (v : State) (cur at_ : Int) (l : Nat) (held : Bool) : State :=
  if held then { v with tick := { v.tick with heldSeen := putK v.tick.heldSeen l v.time } }
  else if at_ = cur then
    if v.tick.markers.any fun m => m.1 == l then v else { v with tick := { v.tick with markers := v.tick.markers ++ [(l, v.time)] } }
  else if at_ = cur + 1 then
    if v.tick.early.contains l then v else { v with tick := { v.tick with early := v.tick.early ++ [l] } }
  else v

variable {u v : State} {cur at_ : Int} {held : Bool}

theorem takeMarker_outside (h : (s.markerSeen l b).chained = false ∨ (s.markerSeen l b).groupLinks.contains l = false) :
    s.takeMarker l b = s.markerSeen l b :=
  if_pos (Bool.or_eq_true_iff.mpr (h.imp (congrArg not) (congrArg not)))

theorem takeMarker_group (hu : s.markerSeen l b = u) (hchain : u.chained = true) (hlink : u.groupLinks.contains l = true) :
    s.takeMarker l b = if u.markerTick + 1 < signed64 (bitsOf b 95 32) then u.markerBeyond l b
      else (u.markerBack l).markerKept u.markerTick (signed64 (bitsOf b 95 32)) l (b % 256 == 2) := by
  have hin : (!u.chained || !u.groupLinks.contains l) = false := by rw [hchain, hlink]; rfl
  unfold State.takeMarker
  extract_lets at_ ack seen cur held tick beyond kept keptTick
  have hseen : seen = u := hu
  clear_value seen
  subst hseen
  rw [if_neg (Bool.eq_false_iff.mp hin)]
  rw [markerBeyond_eq]
  exact if_congr Iff.rfl rfl (if_congr beq_iff_eq.symm rfl rfl)

theorem any_key_eq_false {α : Type} {ms : List (Nat × α)} (h : ∀ m ∈ ms, m.1 ≠ l) : (ms.any fun m => m.1 == l) = false :=
  List.any_eq_false.mpr fun m hm => by simpa using h m hm

theorem any_key_eq_true {α : Type} {ms : List (Nat × α)} {m : Nat × α} (hm : m ∈ ms) (h : m.1 = l) :
    (ms.any fun m => m.1 == l) = true :=
  List.any_eq_true.mpr ⟨m, hm, beq_iff_eq.mpr h⟩

theorem markerKept_held : v.markerKept cur at_ l true = { v with tick := { v.tick with heldSeen := putK v.tick.heldSeen l v.time } } := rfl

theorem markerKept_now (hat : at_ = cur) (hnew : ∀ m ∈ v.tick.markers, m.1 ≠ l) :
    v.markerKept cur at_ l false = { v with tick := { v.tick with markers := v.tick.markers ++ [(l, v.time)] } } := by
  exact (if_neg Bool.false_ne_true).trans ((if_pos hat).trans (if_neg (Bool.eq_false_iff.mp (any_key_eq_false hnew))))

theorem markerKept_next (hat : at_ = cur + 1) (hnew : l ∉ v.tick.early) :
    v.markerKept cur at_ l false = { v with tick := { v.tick with early := v.tick.early ++ [l] } } := by
  have hnone : ¬v.tick.early.contains l = true := by simpa using hnew
  exact (if_neg Bool.false_ne_true).trans ((if_neg (by omega)).trans ((if_pos hat).trans (if_neg hnone)))

theorem markerKept_past (hat : at_ < cur) : v.markerKept cur at_ l false = v :=
  (if_neg Bool.false_ne_true).trans ((if_neg (by omega)).trans (if_neg (by omega)))

/-- A TICK or a HELD marker, each on its command, of a frame taken. -/
theorem exec_marker {i : Instr} (hl : linkOk l) (hrx : s.rxFrame l f = (t, true)) (htype : fType f = 4) (hnb : fNb f = 1)
    (hi : (i = .tickMarker l f ∧ leadOf f % 256 = 1 ∧ held = false) ∨ (i = .heldMarker l f ∧ leadOf f % 256 = 2 ∧ held = true)) :
    exec i s = .next ((t.takeMarker l (leadOf f)).withQueueOf s) ∧ (leadOf f % 256 == 2) = held := by
  obtain ⟨rfl, hkind, rfl⟩ | ⟨rfl, hkind, rfl⟩ := hi
  · exact ⟨takesFrames_taken (takesFrames_tickMarker l f) hl htype (by simp [hnb, hkind]) hrx rfl, by simp [hkind]⟩
  · exact ⟨takesFrames_taken (takesFrames_heldMarker l f) hl htype (by simp [hnb, hkind]) hrx rfl, by simp [hkind]⟩

/-! ### The markers' timers (R231, R232, R393) -/

/-- MARKER_REPEAT's effect for a link whose latest marker is known. -/
def State.markerAgain (s : State) (l m h t : Nat) : State :=
  if (s.guy l).up && decide ((s.guy l).markerAt + 2000 ≤ s.time) && decide (signed64 (s.guy l).partnerAck < signed64 t) then
    (s.sendMarker l m h t).mapGuy l fun g => g.count 10 1
  else s

def State.markerRepeat (s : State) (l : Nat) : State :=
  match (s.guy l).marker with
  | some (m, h, t) => s.markerAgain l m h t
  | none => s

theorem exec_markerRepeat {m h t : Nat} (hl : linkOk l) (hm : (s.guy l).marker = some (m, h, t)) :
    exec (.markerRepeat l) s = .next ((s.markerAgain l m h t).withQueueOf s) :=
  ou (f := (State.markerRepeat · l)) hl (by rw [State.markerRepeat, hm])

/-- What HELD_MARKER_TIMER does on one link of the group: a HELD marker each 1 ms under a hold, then the tick's own. -/
def State.heldMarkerOn (u : State) (l : Nat) : State :=
  let held := ((u.guy l).marker.any fun x => x.1 == 2) = true
  match u.holds with
  | h :: _ => if held ∧ u.time < (u.guy l).markerAt + 1000000 then u else u.sendMarker l 2 h.reason u.tick.n
  | [] => if held ∧ u.allDone = true then u.sendMarker l 1 0 u.tick.n else u

theorem heldMarkers_idle (h : s.chained = false ∨ s.tick.running = false) : s.heldMarkers = s :=
  if_pos (by rcases h with h | h <;> simp [h])

theorem heldMarkers_group (hchain : s.chained = true) (hrun : s.tick.running = true) :
    s.heldMarkers = s.groupLinks.foldl State.heldMarkerOn s := by
  refine (if_neg (by simp [hchain, hrun])).trans (List.foldl_ext _ _ _ fun u l _ => ?_)
  dsimp only [State.heldMarkerOn]
  cases u.holds with
  | nil => cases (u.guy l).marker <;> exact if_congr Bool.and_eq_true_iff rfl rfl
  | cons h hs => cases (u.guy l).marker <;> exact if_congr (Bool.and_eq_true_iff.trans (and_congr_right' decide_eq_true_iff)) rfl rfl

/-- TICK_MARKER_TIMEOUT's effect: neither a marker nor a held marker has come on a link of the group, 5 ms past the deadline. -/
def State.markerTimeout (s : State) (l : Nat) : State :=
  let came := (s.tick.markers.any fun m => m.1 == l) || s.tick.heldSeen.any fun m => m.1 == l
  if !s.chained || !s.tick.running || !s.groupLinks.contains l || came || (s.guy l).lostMarker ||
      decide (s.time < s.deadlineAt + 5000000) then s
  else
    ((s.mapGuy l fun g => { g with lostMarker := true }).placeHold 6).raise
      { code := 0x0303, cls := .contained, kind := 5, loc := guyLoc l, arg0 := l, arg1 := (s.guy l).partner }

theorem exec_tickMarkerTimeout (hl : linkOk l) : exec (.tickMarkerTimeout l) s = .next ((s.markerTimeout l).withQueueOf s) :=
  ou (f := (State.markerTimeout · l)) hl rfl

theorem markerTimeout_lost (hchain : s.chained = true) (hrun : s.tick.running = true)
    (hlink : s.groupLinks.contains l = true) (hmarkers : ∀ m ∈ s.tick.markers, m.1 ≠ l) (hheld : ∀ m ∈ s.tick.heldSeen, m.1 ≠ l)
    (hlost : (s.guy l).lostMarker = false) (htime : s.deadlineAt + 5000000 ≤ s.time) :
    s.markerTimeout l = ((s.mapGuy l fun g => { g with lostMarker := true }).placeHold 6).raise
      { code := 0x0303, cls := .contained, kind := 5, loc := guyLoc l, arg0 := l, arg1 := (s.guy l).partner } := by
  refine if_neg ?_
  rw [hchain, hrun, hlink, any_key_eq_false hmarkers, any_key_eq_false hheld, hlost, decide_eq_false (Nat.not_lt.mpr htime)]
  decide

theorem markerTimeout_same (h : s.chained = false ∨ s.tick.running = false ∨ (∃ m ∈ s.tick.markers, m.1 = l) ∨
    (∃ m ∈ s.tick.heldSeen, m.1 = l) ∨ (s.guy l).lostMarker = true ∨ s.time < s.deadlineAt + 5000000) : s.markerTimeout l = s := by
  refine if_pos ?_
  rcases h with h | h | ⟨m, h, hm⟩ | ⟨m, h, hm⟩ | h | h
  · simp [h]
  · simp [h]
  · simp [any_key_eq_true h hm]
  · simp [any_key_eq_true h hm]
  · simp [h]
  · simp [h]

/-- Settles O46: the commands of frames by their type and kind, then by whether the link takes the frame; markers by the tick they
name; the timers by their guards. -/
theorem guyLinkFrames : Obligations.GuyLinkFrames := by
  refine ⟨fun s l f hl => ⟨fun x hx h => ?_, fun x hx htype hfits hrx => ?_, exec_shardData hl, ?_⟩, ?_, ?_, ?_, ?_⟩
  · obtain ⟨ok, k, hi, hok⟩ := frameCommands_take x hx
    exact takesFrames_other hi hl (h.imp_right hok.trans)
  · obtain ⟨ok, k, hi, hok⟩ := frameCommands_take x hx
    exact takesFrames_dropped hi hl htype (hok.trans hfits) hrx
  · intro t hrx k pay
    refine ⟨fun htype => ?_, fun htype hnb => ?_, fun htype hb => ?_, fun htype hb q hq => ?_, fun htype hb => ?_, ?_, ?_, ?_⟩
    · exact takesFrames_taken (takesFrames_stageFrame l f) hl htype rfl hrx rfl
    · exact takesFrames_taken (takesFrames_guyAckFrame l f) hl htype (beq_iff_eq.mpr hnb) hrx rfl
    · exact takesFrames_taken (takesFrames_shardRequest l f) hl htype (beq_iff_eq.mpr hb) hrx rfl
    · exact takesFrames_taken (takesFrames_notHeld l f) hl htype (beq_iff_eq.mpr hb) hrx (notHeld_asked hq)
    · exact takesFrames_taken (takesFrames_group l f) hl htype (beq_iff_eq.mpr hb) hrx rfl
    · intro htype hb hchain hgid hpower hfresh
      exact takesFrames_taken (takesFrames_bivouac l f) hl htype (beq_iff_eq.mpr hb) hrx (takeBivouac_fresh hchain hgid hpower hfresh)
    · intro htype hb hchain hgid hwake
      exact takesFrames_taken (takesFrames_wake l f) hl htype (beq_iff_eq.mpr hb) hrx (takeWake_group hchain hgid hwake)
    · intro htype hb hchain hnew
      exact takesFrames_taken (takesFrames_loss l f) hl htype (beq_iff_eq.mpr hb) hrx (takeLoss_new hchain hnew)
  · intro s l f t hl hrx htype hnb b at_ u cur v i held hi
    obtain ⟨hexec, hheld⟩ : exec i s = .next ((t.takeMarker l b).withQueueOf s) ∧ (b % 256 == 2) = held :=
      exec_marker hl hrx htype hnb hi
    have hu : t.markerSeen l b = u := rfl
    refine ⟨fun hout => hexec.trans (by rw [takeMarker_outside hout]; rfl), fun hchain hlink => ?_⟩
    have htake : t.takeMarker l b = if cur + 1 < at_ then u.markerBeyond l b else v.markerKept cur at_ l (b % 256 == 2) :=
      takeMarker_group hu hchain hlink
    rw [htake, hheld] at hexec
    clear hu htake
    clear_value v cur u at_
    rw [hexec]
    refine ⟨fun hbeyond => ?_, fun hnear hh => ?_, fun hnow hh hnew => ?_, fun hnext hh hnew => ?_, fun hpast hh => ?_⟩
    · rw [if_pos hbeyond]
      rfl
    · rw [if_neg (not_lt.mpr hnear), hh, markerKept_held]
    · rw [if_neg (by omega), hh, markerKept_now hnow hnew]
    · rw [if_neg (by omega), hh, markerKept_next hnext hnew]
    · rw [if_neg (by omega), hh, markerKept_past hpast]
  · intro s l hl m h t hm
    refine ⟨fun hup htime hack => ?_, fun hnot => ?_⟩
    · rw [exec_markerRepeat hl hm, State.markerAgain, if_pos (by simp [hup, htime, hack])]
    · rw [exec_markerRepeat hl hm, State.markerAgain, if_neg (by rcases hnot with h | h | h <;> simp [h])]
      rfl
  · intro s
    refine ⟨fun h => exec_same _ s State.heldMarkers rfl (heldMarkers_idle h), fun hchain hrun => ?_⟩
    exact exec_next _ s _ State.heldMarkers rfl (heldMarkers_group hchain hrun)
  · intro s l hl
    refine ⟨fun hchain hrun hlink hmarkers hheld hlost htime => ?_, fun h => ?_⟩
    · rw [exec_tickMarkerTimeout hl, markerTimeout_lost hchain hrun hlink hmarkers hheld hlost htime]
    · rw [exec_tickMarkerTimeout hl, markerTimeout_same h]
      rfl


end Sys2Proof.Machine
end

section
/-! SUPPORT and SETTLED. Requests of an open Viumond session: what one that is taken up does, then the requests that read and those
that act on the run (R219, R228, R433, R511, R512, R520 to R523). The statuses and bounds of the answers are notes/assumptions/123,
124, 125, 131, 132, 133 and 134. -/

namespace Sys2Proof.Machine

variable {s t : State} {d : Datagram} {x : Session} {i : Instr} {typ : Nat}

/-! ### A request taken up (R508, R509, R511, R512) -/

section
variable {least : Nat → Nat} {lay : Nat → Layout} {run : State → Session → Nat → Reply}

/-- A reply with its answer given, if it has one yet. -/
def Reply.settle (r : Reply) (x : Session) (d : Datagram) : State :=
  match r.1 with
  | some (st, body) => r.2.answer x d st body
  | none => r.2

theorem serveRequest_run (hknown : typeKnown d.typ.toNat = true) (hsigned : x.unsigned = true → s.mgmt.pufOk = true ∨ d.typ = 5#8)
    (hbody : bodyOk d (least (leNat d.body)) (lay (leNat d.body)) = true) :
    s.serveRequest x d least lay run = (run s x (leNat d.body)).settle x d := by
  have hkey : (x.unsigned && !s.mgmt.pufOk && d.typ != 5#8) = false := by
    cases hu : x.unsigned with
    | false => rfl
    | true => rcases hsigned hu with h | h <;> simp [h]
  exact (if_neg (not_bnot_of_eq_true hknown)).trans ((if_neg (Bool.eq_false_iff.mp hkey)).trans (if_neg (not_bnot_of_eq_true hbody)))

/-- A new request is entered in its session, then served. -/
theorem viumond_request (h : s.requestOf typ d x) : s.viumond typ d least lay run = (s.entered d x).serveRequest x d least lay run := by
  obtain ⟨hpower, hrun, hgood, htyp, hsession, htag, hnew, -⟩ := h
  have hguard : (!s.powered || !s.mgmt.running || !datagramOk d || (typeKnown d.typ.toNat && d.typ.toNat != typ)) = false := by
    simp [hpower, hrun, hgood, htyp]
  have hrepeat : x.lastReqId ≠ some d.reqid.toNat := fun hm => Nat.lt_irrefl _ (hnew _ hm)
  have hstale : ¬(x.lastReqId.any fun m => decide (d.reqid.toNat < m)) = true := by
    cases hm : x.lastReqId with
    | none => exact Bool.false_ne_true
    | some m => simpa using (hnew m hm).le
  unfold State.viumond
  rw [if_neg (Bool.eq_false_iff.mp hguard), hsession]
  dsimp only
  rw [if_neg (not_not.mpr htag), if_neg hrepeat, if_neg hstale]
  rfl

theorem viumond_run (hreq : s.requestOf typ d x) (hknown : typeKnown typ = true)
    (hbody : bodyOk d (least (leNat d.body)) (lay (leNat d.body)) = true) :
    s.viumond typ d least lay run = (run (s.entered d x) x (leNat d.body)).settle x d := by
  obtain ⟨-, -, -, htyp, -, -, -, hsigned⟩ := id hreq
  rw [viumond_request hreq, serveRequest_run (s := s.entered d x) (htyp ▸ hknown) hsigned hbody]

/-- The command's effect is the Viumond request of a TYPE. -/
def asks (s : State) (i : Instr) (typ : Nat) (d : Datagram) (least : Nat → Nat) (lay : Nat → Layout)
    (run : State → Session → Nat → Reply) : Prop := exec i s = .next ((s.viumond typ d least lay run).withQueueOf s)

theorem answers_of_run {st : Nat} {body : List Byte} (hi : asks s i typ d least lay run) (hreq : s.requestOf typ d x)
    (hknown : typeKnown typ = true) (hbody : bodyOk d (least (leNat d.body)) (lay (leNat d.body)) = true)
    (hrun : run (s.entered d x) x (leNat d.body) = (some (st, body), t)) : s.answers i d x t st body := by
  rw [State.answers, hi, viumond_run hreq hknown hbody, hrun, Reply.settle]

/-- A request whose answer comes later. -/
theorem next_of_run (hi : asks s i typ d least lay run) (hreq : s.requestOf typ d x) (hknown : typeKnown typ = true)
    (hbody : bodyOk d (least (leNat d.body)) (lay (leNat d.body)) = true)
    (hrun : run (s.entered d x) x (leNat d.body) = (none, t)) : exec i s = .next (t.withQueueOf s) := by
  rw [hi, viumond_run hreq hknown hbody, hrun, Reply.settle]

end

/-! ### Registers (R511, R512, R529) -/

/-- READ_REG's reply. -/
def State.readRegReply (s : State) (v : Nat) : Reply :=
  if bitsOf v 63 32 % 4 ≠ 0 ∨ bitsOf v 72 64 = 0 ∨ 256 < bitsOf v 72 64 ∨ windowSize (bitsOf v 8 0) < bitsOf v 63 32 + 4 * bitsOf v 72 64 then
    reply stRange s
  else replyOk (readWords (bitsOf v 8 0) (bitsOf v 72 64) (bitsOf v 63 32) s).1 (readWords (bitsOf v 8 0) (bitsOf v 72 64) (bitsOf v 63 32) s).2

theorem asks_readReg : asks s (.readReg d) 2 d (fun _ => 10) (fun _ => [(0, 9), (32, 32), (64, 9)]) fun s _ v => s.readRegReply v := rfl

theorem asks_writeReg : asks s (.writeReg d) 3 d (fun _ => 16) (fun _ => [(0, 9), (32, 32), (64, 32), (96, 32)]) fun s _ v =>
    s.viuWrite (bitsOf v 8 0) (bitsOf v 63 32) (BitVec.ofNat 32 (bitsOf v 95 64)) (BitVec.ofNat 32 (bitsOf v 127 96)) := rfl

section
variable {f off a : Nat} {w comp : Word}

theorem viuWrite_pair (hf : f = 0) (ha : gpOf off = some (a, false)) :
    s.viuWrite f off w comp = reply (if (s.viuPair a w comp).1 then 0 else 6) (s.viuPair a w comp).2 := by
  unfold State.viuWrite
  rw [if_pos hf, ha]
  dsimp only
  cases (s.viuPair a w comp).1 <;> rfl

theorem viuWrite_complement (hf : f = 0) (ha : gpOf off = some (a, true)) : s.viuWrite f off w comp = reply 4 s := by
  unfold State.viuWrite
  rw [if_pos hf, ha]
  rfl

theorem viuWrite_plain (h : f ≠ 0 ∨ gpOf off = none) :
    s.viuWrite f off w comp = if comp ≠ 0#32 ∨ windowSize f ≤ off then reply 4 s else replyOk [] (s.writeReg f off w) := by
  have hgp : (if f = 0 then gpOf off else none) = none := by
    rcases h with h | h
    · exact if_neg h
    · rw [h, ite_self]
  unfold State.viuWrite
  rw [hgp]
  rfl

end

/-! ### Stores, events, traces, scan bits (R209, R219, R480, R512, R521) -/

theorem asks_readMem : asks s (.readMem d) 4 d readMemLeast readMemLayout fun s x _ => s.readMem x d := rfl

theorem readMem_nowhere (h : s.siteOfLoc (fieldAt d.body 0 8) = none) : s.readMem x d = reply 4 s := by
  rw [State.readMem, h]
  rfl

/-- A READ_MEM out of range, or of a unit that is no core. -/
def readMemBad (d : Datagram) : Prop :=
  readMemLen d = 0 ∨ 4000 < readMemLen d ∨ storeSize (readMemStore d) < readMemAddr d + readMemLen d ∨ bitsOf (fieldAt d.body 0 8) 20 18 ≠ 3

section
variable {k : Site}

theorem readMem_bad (h : s.siteOfLoc (fieldAt d.body 0 8) = some k) (hbad : readMemBad d) : s.readMem x d = reply 4 s := by
  rw [State.readMem, h]
  exact if_pos hbad

theorem readMem_off (h : s.siteOfLoc (fieldAt d.body 0 8) = some k) (hbad : ¬readMemBad d)
    (hoff : ((s.panel k.panel).dom.get VMEM).on = false) : s.readMem x d = reply 5 s := by
  have hstores : (!s.storesOn k) = true := by rw [State.storesOn, hoff]; rfl
  rw [State.readMem, h]
  exact (if_neg hbad).trans (if_pos hstores)

/-- The read queues for its units of the management ration (R219, R220). -/
theorem readMem_queued (h : s.siteOfLoc (fieldAt d.body 0 8) = some k) (hbad : ¬readMemBad d)
    (hon : ((s.panel k.panel).dom.get VMEM).on = true) : s.readMem x d =
      (none, ({ s with mgmt := { s.mgmt with reads := s.mgmt.reads ++ [⟨x.id, d, k, ceilDiv (readMemLen d) 64⟩] } } : State).serveReads) := by
  have hstores : ¬(!s.storesOn k) = true := by rw [State.storesOn, hon]; exact Bool.false_ne_true
  rw [State.readMem, h]
  exact (if_neg hbad).trans (if_neg hstores)

end

/-- EVENTS' reply: up to `n` records of the log from a SEQ, and the SEQ behind the last. -/
def State.eventsReply (s : State) (v : Nat) : Reply :=
  let n := bitsOf v 23 16
  if n = 0 ∨ 60 < n then reply stRange s
  else
    let es := (logFrom s.errors.log (bitsOf v 15 0)).take n
    replyOk (eventsBody es (match es.getLast? with
      | some e => nextSeqOf e.seq
      | none => bitsOf v 15 0)) s

theorem asks_events : asks s (.events d) 5 d (fun _ => 3) (fun _ => [(0, 16), (16, 8)]) fun s _ v => s.eventsReply v := rfl

/-- TRACE's reply. -/
def State.traceReply (s : State) (v : Nat) : Reply :=
  match s.siteOfLoc (bitsOf v 63 0) with
  | some k => if bitsOf v 20 18 = 3 then replyOk (traceBody (s.core k)) s else reply stRange s
  | none => reply stRange s

theorem asks_trace : asks s (.trace d) 18 d (fun _ => 8) (fun _ => [(0, 64)]) fun s _ v => s.traceReply v := rfl

theorem traceReply_core {v : Nat} {k : Site} (h : s.siteOfLoc (bitsOf v 63 0) = some k) (hkind : bitsOf v 20 18 = 3) :
    s.traceReply v = replyOk (traceBody (s.core k)) s := by
  rw [State.traceReply, h]
  exact if_pos hkind

theorem traceReply_other {v : Nat} (h : s.siteOfLoc (bitsOf v 63 0) = none ∨ bitsOf v 20 18 ≠ 3) : s.traceReply v = reply 4 s := by
  rw [State.traceReply]
  split
  · next k hk => exact if_neg (h.resolve_left (by simp [hk]))
  · rfl

/-- SCAN's reply. -/
def State.scanReply (s : State) (v : Nat) : Reply :=
  let n := bitsOf v 143 128
  let bit := fun i => Config.scanBit s.freeze.since (BitVec.ofNat 64 (bitsOf v 63 0)) (bitsOf v 79 64) (bitsOf v 127 96 + i)
  if n = 0 ∨ 32000 < n then reply stRange s
  else if s.freeze.state != .frozen && s.freeze.state != .dead then reply stState s
  else replyOk (natLe 2 n ++ List.replicate 6 0#8 ++ natLe (ceilDiv n 8) (bitsNat ((List.range n).map bit))) s

theorem asks_scan : asks s (.scan d) 19 d (fun _ => 18) (fun _ => [(0, 64), (64, 16), (96, 32), (128, 16)]) fun s _ v => s.scanReply v := rfl

theorem not_zero_or_above {n m : Nat} (hpos : 0 < n) (hmax : n ≤ m) : ¬(n = 0 ∨ m < n) := by omega

/-! ### Holds and freezes (R228, R520, R522) -/

/-- The lowest bit of a body chooses between two commands of one TYPE. -/
def bodyBit (d : Datagram) : Bool := (d.body.getD 0 0#8).getLsbD 0

/-- HOLD_PLACE's reply. -/
def State.holdReply (s : State) : Reply :=
  if s.loaded.isNone then reply stState s
  else reply stOk (if s.held 7 then s else { s with mgmt := { s.mgmt with opHold := true } })

section
variable {least : Nat → Nat} {lay : Nat → Layout} {run : State → Session → Nat → Reply}

theorem asks_bit_clear (hi : exec i s = onUnit True s fun s => if bodyBit d then s else s.viumond typ d least lay run)
    (hbit : bodyBit d = false) : asks s i typ d least lay run :=
  exec_next i s _ _ hi (if_neg (Bool.eq_false_iff.mp hbit))

theorem asks_bit_set (hi : exec i s = onUnit True s fun s => if bodyBit d then s.viumond typ d least lay run else s)
    (hbit : bodyBit d = true) : asks s i typ d least lay run :=
  exec_next i s _ _ hi (if_pos hbit)

end

theorem asks_holdPlace (hbit : bodyBit d = false) :
    asks s (.holdPlace d) 8 d (fun _ => 1) (fun _ => [(0, 1)]) fun s _ _ => s.holdReply := asks_bit_clear rfl hbit

theorem asks_holdLift (hbit : bodyBit d = true) : asks s (.holdLift d) 8 d (fun _ => 1) (fun _ => [(0, 1)]) fun s _ _ =>
    reply stOk (({ s with mgmt := { s.mgmt with opHold := false } } : State).liftHold 7).freezeSettle := asks_bit_set rfl hbit

/-- A FREEZE by either of its commands. -/
theorem asks_freeze {c : Instr} (hc : (c = .freezeTickAligned d ∧ bodyBit d = false) ∨ (c = .freezeImmediate d ∧ bodyBit d = true)) :
    asks s c 9 d (fun _ => 1) (fun _ => [(0, 1)]) fun s _ _ => reply stOk (s.viuFreeze (bodyBit d)) := by
  obtain ⟨rfl, hbit⟩ | ⟨rfl, hbit⟩ := hc
  · rw [hbit]
    exact asks_bit_clear rfl hbit
  · rw [hbit]
    exact asks_bit_set rfl hbit

theorem viuFreeze_waits (imm : Bool) (h : s.power.state = .standby ∨ s.power.state = .pitching) :
    s.viuFreeze imm = { s with freeze := { s.freeze with waitPitch := some (imm || s.freeze.waitPitch == some true) } } := by
  refine if_pos ?_
  rcases h with h | h <;> simp [State.freezeWaits, h]

theorem viuFreeze_now (imm : Bool) (hstandby : s.power.state ≠ .standby) (hpitch : s.power.state ≠ .pitching) :
    s.viuFreeze imm = s.requestFreeze .viumond imm :=
  if_neg (by simp [State.freezeWaits, hstandby, hpitch])

theorem asks_resume : asks s (.resume d) 10 d (fun _ => 0) (fun _ => []) fun s _ _ => s.viuResume := rfl

/-- The sources of a freeze that RESUME releases. -/
def State.released (s : State) : State := { s with freeze := { s.freeze with sviu := false, sbrk := false, waitPitch := none } }

/-- RESUME by the state of the freeze: one that has stopped the clocks can be resumed for 100 ms (R522). -/
def State.resumeFrom (s : State) : FreezeState → Reply
  | .dead => reply 5 s
  | .frozen => if s.time ≤ s.freeze.since + 100000000 then reply 0 s.released.tryResume else reply 5 s
  | .pending => reply 0 s.released.tryResume
  | .running => if s.freeze.waitPitch.isSome then reply 0 s.released else reply 5 s

theorem viuResume_eq {f : FreezeState} (h : s.freeze.state = f) : s.viuResume = s.resumeFrom f :=
  h ▸ (rfl : s.viuResume = s.resumeFrom s.freeze.state)

theorem viuResume_refused (h : s.freeze.state = .dead ∨ (s.freeze.state = .frozen ∧ s.freeze.since + 100000000 < s.time) ∨
    (s.freeze.state = .running ∧ s.freeze.waitPitch = none)) : s.viuResume = reply 5 s := by
  rcases h with h | ⟨h, htime⟩ | ⟨h, hwait⟩
  · exact viuResume_eq h
  · exact (viuResume_eq h).trans (if_neg (Nat.not_le.mpr htime))
  · exact (viuResume_eq h).trans (if_neg (by simp [hwait]))

theorem viuResume_stopped (h : (s.freeze.state = .frozen ∧ s.time ≤ s.freeze.since + 100000000) ∨ s.freeze.state = .pending) :
    s.viuResume = reply 0 s.released.tryResume := by
  rcases h with ⟨h, htime⟩ | h
  · exact (viuResume_eq h).trans (if_pos htime)
  · exact viuResume_eq h

/-! ### Reset and power (R433, R434, R511, R523) -/

theorem asks_reset (p : Pitch) : asks s (.reset d p) 11 d (fun _ => 0) (fun _ => []) fun s _ _ =>
    reply stOk (s.startReset (some (p, true))) := rfl

/-- A POWER request's reply. -/
def State.powerReply (s : State) (n : Nat) : Reply :=
  if (s.powerCmd n).1 then replyOk [] (s.powerCmd n).2 else reply stState (s.powerCmd n).2

/-- The three power commands and the operation each is. -/
theorem exec_powerCmd {c : Instr} {n : Nat} (hc : (c = .bivouacEntry (.viumond d) ∧ n = 1) ∨ (c = .wakeImmediate (.viumond d) ∧ n = 2) ∨
    (c = .wakeStaggered (.viumond d) ∧ n = 3)) : exec c s = onUnit True s fun s => s.powerRequest (.viumond d) n := by
  obtain ⟨rfl, rfl⟩ | ⟨rfl, rfl⟩ | ⟨rfl, rfl⟩ := hc <;> rfl

theorem asks_power {c : Instr} {n : Nat} (hi : exec c s = onUnit True s fun s => s.powerRequest (.viumond d) n)
    (hn : (d.body.getD 0 0#8).toNat % 4 = n) : asks s c 12 d (fun _ => 1) (fun _ => [(0, 2)]) fun s _ _ => s.powerReply n :=
  exec_next c s _ _ hi (if_neg (not_not.mpr hn))

theorem powerReply_eq (n : Nat) : s.powerReply n = reply (if (s.powerCmd n).1 then 0 else 5) (s.powerCmd n).2 := by
  unfold State.powerReply
  cases (s.powerCmd n).1 <;> rfl

/-- Settles O57: each request is taken up by the one session's number and tag, then replies by its own checks. -/
theorem viumondCommands : Obligations.ViumondCommands := by
  refine ⟨fun s d x => ⟨?_, ?_, ?_, ?_, ?_, ?_⟩, fun s d x => ⟨?_, ?_, ?_, ?_, ?_⟩⟩
  · intro hreq hbody f off n bad
    refine ⟨fun hbad => ?_, fun hgood => ?_⟩
    · exact answers_of_run asks_readReg hreq rfl hbody (if_pos hbad)
    · exact answers_of_run asks_readReg hreq rfl hbody (if_neg hgood)
  · intro hreq hbody f off w comp
    refine ⟨fun a hf ha => ?_, fun a hf ha => ?_, fun hplain hbad => ?_, fun hplain hcomp hoff => ?_⟩
    · exact answers_of_run asks_writeReg hreq rfl hbody (viuWrite_pair hf ha)
    · exact answers_of_run asks_writeReg hreq rfl hbody (viuWrite_complement hf ha)
    · exact answers_of_run asks_writeReg hreq rfl hbody ((viuWrite_plain hplain).trans (if_pos hbad))
    · exact answers_of_run asks_writeReg hreq rfl hbody ((viuWrite_plain hplain).trans
        (if_neg (not_or.mpr ⟨not_not.mpr hcomp, Nat.not_le.mpr hoff⟩)))
  · intro hreq hbody loc n a bad
    refine ⟨fun hnone => ?_, fun k hk => ⟨fun hbad => ?_, fun hgood hoff => ?_, fun hgood hon => ?_⟩⟩
    · exact answers_of_run asks_readMem hreq rfl hbody (readMem_nowhere hnone)
    · exact answers_of_run asks_readMem hreq rfl hbody (readMem_bad hk hbad)
    · exact answers_of_run asks_readMem hreq rfl hbody (readMem_off hk hgood hoff)
    · exact next_of_run asks_readMem hreq rfl hbody (readMem_queued hk hgood hon)
  · intro hreq hbody n first es
    refine ⟨fun hbad => ?_, fun hpos hmax => ?_⟩
    · exact answers_of_run asks_events hreq rfl hbody (if_pos hbad)
    · exact answers_of_run asks_events hreq rfl hbody (if_neg (not_zero_or_above hpos hmax))
  · intro hreq hbody
    refine ⟨fun k hk hkind => ?_, fun hother => ?_⟩
    · exact answers_of_run asks_trace hreq rfl hbody (traceReply_core hk hkind)
    · exact answers_of_run asks_trace hreq rfl hbody (traceReply_other hother)
  · intro hreq hbody n bit
    refine ⟨fun hbad => ?_, fun hpos hmax hrun hdead => ?_, fun hpos hmax hstop => ?_⟩
    · exact answers_of_run asks_scan hreq rfl hbody (if_pos hbad)
    · exact answers_of_run asks_scan hreq rfl hbody ((if_neg (not_zero_or_above hpos hmax)).trans (if_pos (by simp [hrun, hdead])))
    · exact answers_of_run asks_scan hreq rfl hbody ((if_neg (not_zero_or_above hpos hmax)).trans
        (if_neg (by rcases hstop with h | h <;> simp [h])))
  · intro hreq hbody
    refine ⟨fun hbit hnone => ?_, fun hbit hsome => ?_, fun hbit => ?_⟩
    · exact answers_of_run (asks_holdPlace hbit) hreq rfl hbody (if_pos (Option.isNone_iff_eq_none.mpr hnone))
    · exact answers_of_run (asks_holdPlace hbit) hreq rfl hbody (if_neg (mt Option.isNone_iff_eq_none.mp hsome))
    · exact answers_of_run (asks_holdLift hbit) hreq rfl hbody rfl
  · intro hreq hbody c hc
    refine ⟨fun hwait => ?_, fun hstandby hpitch => ?_⟩
    · exact answers_of_run (asks_freeze hc) hreq rfl hbody (congrArg (reply 0) (viuFreeze_waits _ hwait))
    · exact answers_of_run (asks_freeze hc) hreq rfl hbody (congrArg (reply 0) (viuFreeze_now _ hstandby hpitch))
  · intro hreq hbody u
    refine ⟨fun h => ?_, fun h => ?_, fun hrun hwait => ?_⟩
    · exact answers_of_run asks_resume hreq rfl hbody (viuResume_refused h)
    · exact answers_of_run asks_resume hreq rfl hbody (viuResume_stopped h)
    · exact answers_of_run asks_resume hreq rfl hbody
        ((viuResume_eq hrun).trans (if_pos (Option.isSome_iff_ne_none.mpr hwait)))
  · exact fun hreq hbody p => answers_of_run (asks_reset p) hreq rfl hbody rfl
  · intro hreq hbody c n hc
    have hi := exec_powerCmd hc (s := s)
    refine ⟨fun hn => ?_, fun hn => ?_⟩
    · exact answers_of_run (asks_power hi hn) hreq rfl hbody (powerReply_eq n)
    · exact exec_same c s _ hi (if_pos hn)

end Sys2Proof.Machine
end

section
/-! SUPPORT and SETTLED. A buddy's check of the oldest sampled operation, guard updates XORed into their parity frames, and close
markers (R273, R274, R472, R474). -/

namespace Sys2Proof.Machine

variable {s : State} {k src : Site}

/-! ### DUP_CHECK (R472, R474) -/

theorem recompute_agrees_iff (m : DupMsg) :
    (m.recompute.1 == m.results && m.recompute.2 == m.resultP) = true ↔ m.recompute = (m.results, m.resultP) := by
  rw [Bool.and_eq_true, beq_iff_eq, beq_iff_eq, Prod.ext_iff]

/-- A buddy that may check takes the oldest sampled operation, whatever the check finds. -/
theorem exec_dupCheck {m : DupMsg} {r : List DupMsg} (hk : k.ok) (hrun : s.coreRuns k = true) (hvq : (s.core k).vq = [])
    (hdup : (s.core k).dupIn = m :: r) :
    let u := s.mapCore k fun c => { c with dupIn := r }
    exec (.dupCheck k) s =
      .next ((if m.recompute = (m.results, m.resultP) then u else u.dupMismatch k m).withQueueOf s) := by
  change execDupCheck k s = _
  refine ou hk ?_
  have hfree : (!s.coreRuns k || !(s.core k).vq.isEmpty) = false := by simp [hrun, hvq]
  simp only [hdup, hfree, Bool.false_eq_true, if_false]
  exact if_congr (recompute_agrees_iff m) rfl rfl

/-! ### Bytes of a store read and written one at a time -/

theorem Core.rd_getD {c : Core} {st a n i : Nat} (hfit : a + n ≤ storeSize st) (hi : i < n) :
    c.rd st (a + i) 1 = [(c.rd st a n).getD i 0#8] := by
  have hread : c.rd st a n = Mem.readN (c.mem st) a n := by
    simp only [Core.rd, Nat.mod_eq_of_lt (by omega : a < storeSize st), if_pos hfit]
  rw [Core.rd_one, hread, Mem.readN_eq, Nat.mod_eq_of_lt (by omega)]
  simp [hi]

theorem Core.rd_wrRaw_same {c : Core} {st a i : Nat} {bs : List Byte} (hfit : a + bs.length ≤ storeSize st) (hi : i < bs.length) :
    (c.wrRaw st a bs).rd st (a + i) 1 = [bs.getD i 0#8] := by
  have ha : a % storeSize st = a := Nat.mod_eq_of_lt (by omega)
  have hread := c.wrRaw_read_same st a i bs (by rw [ha]; exact hfit) hi
  rw [ha] at hread
  rw [Core.rd_one, Nat.mod_eq_of_lt (by omega), hread]

theorem Core.sameBut_wrRaw (c : Core) (a : Nat) (bs : List Byte) {st : Nat} (hst : st ≤ 3) :
    c.sameBut (c.wrRaw st a bs) (span st a bs.length) := by
  intro st' hst' b hb hout _
  rw [Core.rd_one, Core.rd_one, Nat.mod_eq_of_lt hb, Core.wrRaw_read c st a st' b bs hst hst' hb hout]

/-! ### GUARD_UPDATE (R274) -/

/-- The core after an update is XORed into its weight store. -/
def Core.guardXor (c : Core) (a : Nat) (delta : List Byte) : Core := c.wrRaw 1 a (xorBytes (c.rd 1 a delta.length) delta)

theorem xorBytes_rd_length (c : Core) (a : Nat) (delta : List Byte) :
    (xorBytes (c.rd 1 a delta.length) delta).length = delta.length := by
  rw [xorBytes, List.length_zipWith, Core.rd_length, Nat.min_self]

theorem xorBytes_getD {x y : List Byte} {i : Nat} (hx : i < x.length) (hy : i < y.length) :
    (xorBytes x y).getD i 0#8 = x.getD i 0#8 ^^^ y.getD i 0#8 := by
  simp [xorBytes, List.getD_eq_getElem?_getD, hx, hy]

theorem sameBut_guardXor (c : Core) (a : Nat) (delta : List Byte) : c.sameBut (c.guardXor a delta) (span 1 a delta.length) := by
  have h := c.sameBut_wrRaw a (xorBytes (c.rd 1 a delta.length) delta) (st := 1) (by decide)
  rwa [xorBytes_rd_length] at h

theorem guardXor_rd {c : Core} {a i : Nat} {delta : List Byte} (hfit : a + delta.length ≤ storeSize 1) (hi : i < delta.length) :
    (c.guardXor a delta).rd 1 (a + i) 1 = xorBytes (c.rd 1 (a + i) 1) [delta.getD i 0#8] := by
  have hlen := xorBytes_rd_length c a delta
  have hwritten := c.rd_wrRaw_same (by rw [hlen]; exact hfit) (by rw [hlen]; exact hi)
  rw [xorBytes_getD (by rw [Core.rd_length]; exact hi) hi] at hwritten
  rw [Core.rd_getD (c := c) hfit hi]
  exact hwritten

/-- An update inside a frame leaves the list of those under way and is XORed in. -/
theorem exec_guardUpdate {frame off tick : Nat} {delta : List Byte} (hk : k.ok) (hsrc : src.ok)
    (hframe : frame < (s.core k).tab.frames) (hoff : off + delta.length ≤ frameBytes) :
    exec (.guardUpdate k src frame off delta tick) s = .next ((({ s with transit := { s.transit with
        guards := s.transit.guards.erase ⟨k, src, frame, off, delta, tick⟩ } } : State).setCore k
      ((s.core k).guardXor ((s.core k).tab.frameAddr frame + off) delta)).withQueueOf s) := by
  change execGuardUpdate k src frame off delta tick s = _
  exact ou ⟨hk, hsrc⟩ (if_neg (not_or.mpr ⟨Nat.not_le.mpr hframe, Nat.not_lt.mpr hoff⟩))

/-! ### GUARD_CLOSE_MARKER (R273, R274) -/

/-- The frame by which core `k` guards a frame of core `src` in a group, the group's parity frame first. -/
def guardFrame (k src : Site) : List (Site × Nat) → Option Nat
  | p :: r => if p.1 = k ∧ r.any (fun x => x.1 == src) then some p.2 else none
  | [] => none

/-- The frames of core `k` that guard frames of core `src`. -/
def State.guardFrames (s : State) (k src : Site) : List Nat := s.guardMap.filterMap (guardFrame k src)

theorem mem_guardFrames {f : Nat} {r : List (Site × Nat)} (hgroup : (k, f) :: r ∈ s.guardMap) (hsrc : ∃ x ∈ r, x.1 = src) :
    f ∈ s.guardFrames k src :=
  List.mem_filterMap.mpr ⟨_, hgroup, if_pos ⟨rfl, by simpa using hsrc⟩⟩

/-- The marker takes the place of the source's older ticks at the frames that guard it. -/
theorem exec_guardCloseMarker {tick : Nat} (hk : k.ok) (hsrc : src.ok) :
    exec (.guardCloseMarker k src tick) s = .next ((({ s with transit := { s.transit with
        closes := s.transit.closes.erase ⟨k, src, tick⟩ } } : State).setCore k { s.core k with
      guardTicks := ((s.core k).guardTicks.filter fun x => ¬(x.2.1 = src ∧ x.1 ∈ s.guardFrames k src)) ++
        (s.guardFrames k src).map fun f => (f, src, tick) }).withQueueOf s) := by
  change execGuardCloseMarker k src tick s = _
  exact ou ⟨hk, hsrc⟩ rfl

/-- Settles O30: the check by its two outcomes, the update by the bytes it writes, the marker by the frames it is kept for. -/
theorem duplicationAndGuards : Obligations.DuplicationAndGuards := by
  refine ⟨fun s k m r hk hrun hvq hdup => ⟨fun hsame => ?_, fun hdiff => ?_⟩,
    fun s k src frame off delta tick hk hsrc hframe hoff => ⟨_, exec_guardUpdate hk hsrc hframe hoff, ?_, ?_, ?_⟩,
    fun s k src tick hk hsrc => ⟨_, exec_guardCloseMarker hk hsrc, ?_, ?_⟩⟩
  · rw [exec_dupCheck hk hrun hvq hdup, if_pos hsame]
  · rw [exec_dupCheck hk hrun hvq hdup, if_neg hdiff]
  · exact fun j hj => State.core_setCore_other _ k _ j hj
  · rw [State.core_setCore_same]
    exact sameBut_guardXor _ _ _
  · intro hfit i hi
    rw [State.core_setCore_same]
    exact guardXor_rd hfit hi
  · exact fun j hj => State.core_setCore_other _ k _ j hj
  · intro f r hgroup hguards
    rw [State.core_setCore_same]
    exact List.mem_append_right _ (List.mem_map_of_mem (mem_guardFrames hgroup hguards))

end Sys2Proof.Machine
end

section
/-! SUPPORT and SETTLED. Lanterns: the lists they keep or discard, and the tokens they draw (R309, R311, R312, R314 to R316). That a
draw takes a free value, and with it a step of their counter, is notes/assumptions/2 and 34. -/

namespace Sys2Proof.Machine

variable {s : State} {i n row : Nat} {sv : Serving}

/-! ### Lists that arrive (R309) -/

/-- The flits of a list that Lantern `i` takes are no longer on their way. -/
def State.listTaken (s : State) (i : Nat) (sv : Serving) (fs : List Flit) : State :=
  { s with transit := { s.transit with lists := fs.foldl (fun l x => l.erase (sv.scan * 4 + i, x)) s.transit.lists } }

/-- A list goes to the `j`-th cohort that Lantern `i` accepts, or is counted as discarded. -/
def State.listGoes (s : State) (i : Nat) (fs : List Flit) : Option Nat → State
  | some j => s.setLantern i { s.lantern i with
      accepting := (s.lantern i).accepting.modify j fun c => { c with lists := c.lists ++ [listOf fs] } }
  | none => s.setLantern i { s.lantern i with discarded := (s.lantern i).discarded + 1 }

/-- The accepted cohort that a COHORT field names. -/
def Lantern.named (x : Lantern) (cohort : Nat) : Option Nat := x.accepting.findIdx? fun c => c.cohort % 256 == cohort

theorem Lantern.named_eq_none {x : Lantern} {cohort : Nat} (h : ∀ c ∈ x.accepting, c.cohort % 256 ≠ cohort) : x.named cohort = none :=
  List.findIdx?_eq_none_iff.mpr fun c hc => beq_eq_false_iff_ne.mpr (h c hc)

/-- A list goes where its first flit says. -/
theorem exec_lanternListArrival {f : Flit} {r : List Flit} (hi : lanternOk i) (hsv : s.serving = some sv) :
    exec (.lanternListArrival i (f :: r)) s =
      .next (((s.listTaken i sv (f :: r)).listGoes i (f :: r) ((s.lantern i).named (pCohort f))).withQueueOf s) := by
  refine (exec_unit _ s (·.listArrival i (f :: r)) rfl hi).trans ?_
  unfold State.listArrival
  rw [hsv]
  rfl

/-! ### Tokens drawn (R311, R314, R316) -/

/-- The token of a row put among those drawn. -/
def State.drawnWith (s : State) (n row : Nat) (c : Cohort) (x : Seq) (r : Row) (l : List Cand × Bool) : State :=
  let d := drawRow (s.drawIn c x row r) (Config.freeWord s.free).toNat l.1
  { s with
    free := s.free + 1
    serve := { s.serve with drawn := s.serve.drawn ++
      [⟨r.slot, n, row, d.token, d.prob, d.forced, l.2 || l.1.any fun c => isNan32 c.val, d.dead⟩] } }

theorem exec_lanternDraw (hi : lanternOk i) : exec (.lanternDraw i n row) s = .next ((s.lanternDraw i n row).withQueueOf s) :=
  exec_unit _ s (·.lanternDraw i n row) rfl hi

/-- Row `r` of cohort `c` is Lantern `i`'s to draw, and not drawn yet. -/
structure State.RowToDraw (s : State) (i n row : Nat) (sv : Serving) (c : Cohort) (r : Row) : Prop where
  serving : s.serving = some sv
  cohort : s.cohortNum n = some c
  notLost : c.lost = false
  inRows : c.rows[row]? = some r
  mine : row % sv.lanterns = i
  draws : r.draws = true
  notDiscarded : r.discard = false
  notStarved : r.starved = false
  notDrawn : r.drawn = false
  noToken : ∀ d ∈ s.serve.drawn, ¬(d.cohort = n ∧ d.row = row)

/-- Such a row of a live sequence is drawn from its list. -/
theorem lanternDraw_row {c : Cohort} {r : Row} {x : Seq} {a : LanternCohort} {l : List Cand × Bool} (h : s.RowToDraw i n row sv c r)
    (hx : s.seqAt r.slot = some x) (hlive : x.state.terminal = false)
    (ha : (s.lantern i).accepting.find? (fun y => y.cohort == n) = some a) (hl : a.lists[row / sv.lanterns]? = some l) :
    s.lanternDraw i n row = s.drawnWith n row c x r l := by
  have hdone : (s.serve.drawn.any fun d => d.cohort == n && d.row == row) = false :=
    List.any_eq_false.mpr fun d hd => by simpa using h.noToken d hd
  have hlist : ((s.lantern i).accepting.find? (fun y => y.cohort == n)).bind (fun y => y.lists[row / sv.lanterns]?) = some l := by
    rw [ha]
    exact hl
  simp only [State.lanternDraw, h.serving, h.cohort, h.inRows]
  rw [if_neg (by simp [h.mine, h.draws, h.notDiscarded, h.notStarved, h.notDrawn, h.notLost, hdone]), hx, hlist]
  exact if_neg (Bool.eq_false_iff.mp hlive)

/-- A row is drawn once. -/
theorem lanternDraw_again (h : ∃ d ∈ s.serve.drawn, d.cohort = n ∧ d.row = row) : s.lanternDraw i n row = s := by
  have hdone : (s.serve.drawn.any fun d => d.cohort == n && d.row == row) = true := by simpa using h
  unfold State.lanternDraw
  cases s.serving with
  | none => rfl
  | some sv =>
    cases s.cohortNum n with
    | none => rfl
    | some c =>
      cases hr : c.rows[row]? with
      | none => simp only [hr]
      | some r =>
        simp only [hr]
        exact if_pos (by simp [hdone])

/-! ### What a draw gives (R311, R314) -/

variable {d : DrawIn} {free : Nat} {l : List Cand}

/-- At temperature 0 the best candidate is drawn, at probability 1. -/
theorem drawRow_greedy {c : Cand} {r : List Cand} (h : drawable d l = c :: r) (htemp : (ofF32 d.samp.temp).cmp (Fp.ofInt 0) = 0) :
    drawRow d free l = ⟨c.idx, one32, false, false⟩ := by
  rw [drawRow, h]
  exact if_pos htemp

theorem drawRow_forced {t : Nat} (h : drawable d l = []) (hforce : forceOf d = some t) :
    drawRow d free l = ⟨t, one32, true, false⟩ := by
  simp only [drawRow, h, hforce]

theorem drawRow_dead (h : drawable d l = []) (hforce : forceOf d = none) : drawRow d free l = ⟨0, 0#32, false, true⟩ := by
  simp only [drawRow, h, hforce]

/-- Settles O34: lists by whether their cohort is accepted, rows by whether they are drawn yet, draws by what is left to draw. -/
theorem lanternWork : Obligations.LanternWork := by
  refine ⟨fun s i f r sv hi hsv => ⟨fun j hj => ?_, fun hnone => ?_⟩, ?_, fun s i n row hi hdrawn => ?_,
    fun d free l c r h htemp => drawRow_greedy h htemp, fun d free l h => ?_⟩
  · rw [exec_lanternListArrival hi hsv, Lantern.named, hj]
    rfl
  · rw [exec_lanternListArrival hi hsv, Lantern.named_eq_none hnone]
    rfl
  · intro s i n row sv c r x a l hi hsv hc hlost hr hmine hdraws hdiscard hstarved hundrawn hfresh hx hlive ha hl
    have hrow : s.RowToDraw i n row sv c r := ⟨hsv, hc, hlost, hr, hmine, hdraws, hdiscard, hstarved, hundrawn, hfresh⟩
    rw [exec_lanternDraw hi, lanternDraw_row hrow hx hlive ha hl]
    rfl
  · rw [exec_lanternDraw hi, lanternDraw_again hdrawn]
    rfl
  · cases hforce : forceOf d with
    | none => exact drawRow_dead h hforce
    | some t => exact drawRow_forced h hforce

end Sys2Proof.Machine
end

section
/-! SUPPORT and SETTLED. CANCEL of a descriptor already fetched, by where its request stands, and AUTOMATON with an image that is
legal and fits (R304, R313, R345, R346). -/

namespace Sys2Proof.Machine

variable {s u : State} {f ring idx : Nat} {c : Ctrl}

/-! ### CANCEL (R304, R346) -/

/-- Has a descriptor's request a live sequence, or is it queued? -/
def State.requestLive (s : State) (f ring idx : Nat) : Bool :=
  (s.serve.seqs.any fun x => x.req.is f ring idx && !x.state.terminal && x.state != .kept) ||
    s.serve.queued.any fun r => r.is f ring idx

/-- A descriptor's request marked cancelled, in the queue and at its sequence. -/
def State.cancelMarked (s : State) (f ring idx : Nat) : State :=
  { s with serve := { s.serve with
      queued := s.serve.queued.map fun r => if r.is f ring idx then { r with cancelled := true } else r
      seqs := s.serve.seqs.map fun x =>
        if x.req.is f ring idx && x.state != .kept then { x with req := { x.req with cancelled := true } } else x } }

theorem markCancel_live (h : s.requestLive f ring idx = true) : s.markCancel f ring idx = (0, s.cancelMarked f ring idx) := if_pos h

theorem markCancel_gone (h : s.requestLive f ring idx = false) :
    s.markCancel f ring idx = (if s.serve.ended.contains (f, ring, idx) then 0x46 else 0x45, s) := by
  refine (if_neg (Bool.eq_false_iff.mp h)).trans ?_
  split <;> rfl

/-- The submission ring that a CANCEL names. -/
def Ctrl.cancelRing (c : Ctrl) : Nat := bitsOf (fieldAt c.bs 4 4) 2 0

/-- The index in that ring that it names. -/
def Ctrl.cancelIdx (c : Ctrl) : Nat := fieldAt c.bs 8 4

/-- The state once the ring a CANCEL names is fetched as far as it can be, up to its index. -/
def State.cancelReady (u : State) (f : Nat) (c : Ctrl) : State := State.fetchUpTo f c.cancelRing c.cancelIdx 65536 u

/-- A legal CANCEL of a descriptor that has been fetched answers what its mark finds. -/
theorem exec_cancel {status : Nat} {t : State} (hf : fnOk f) (h : s.ctrlHead f 6 = some (c, u))
    (hd : descClear c.bs [(4, 3), (8, 32)] = true) (hring : c.cancelRing ≤ 3) (hbegun : u.begun = true)
    (hfetched : (((u.cancelReady f c).fn f).ring c.cancelRing).waiting ≤
      (2 ^ 32 - (((u.cancelReady f c).fn f).ring c.cancelRing).own + c.cancelIdx) % 2 ^ 32)
    (hmark : ((u.cancelReady f c).ctrlNext f).markCancel f c.cancelRing c.cancelIdx = (status, t)) :
    exec (.cancel f) s = .next ((t.control f c status 0 0).withQueueOf s) := by
  refine ctrl_exec _ s f 6 _ c u _ hf h rfl ?_
  have hlegal : ¬(!descClear c.bs [(4, 3), (8, 32)] || decide (3 < c.cancelRing)) = true := by simp [hd, hring]
  refine (if_neg hlegal).trans ((if_neg (not_bnot_of_eq_true hbegun)).trans ((if_neg (Nat.not_lt.mpr hfetched)).trans ?_))
  exact congrArg (fun x : Nat × State => x.2.control f c x.1 0 0) hmark

/-! ### AUTOMATON (R313) -/

/-- Does the image of a slot constrain a live sequence? -/
def State.slotUsed (s : State) (slot : Nat) : Bool :=
  s.serve.seqs.any fun x => x.req.samp.autoEn && x.req.samp.auto == slot && !x.state.terminal && x.state != .kept

theorem slotUsed_eq_false {slot : Nat} (h : ∀ x ∈ s.serve.seqs,
    ¬(x.req.samp.autoEn = true ∧ x.req.samp.auto = slot ∧ x.state.terminal = false ∧ x.state ≠ .kept)) :
    s.slotUsed slot = false := by
  refine List.any_eq_false.mpr fun x hx hused => h x hx ?_
  simp only [Bool.and_eq_true, beq_iff_eq, Bool.not_eq_true', bne_iff_ne] at hused
  obtain ⟨⟨⟨hen, hslot⟩, hlive⟩, hkept⟩ := hused
  exact ⟨hen, hslot, hlive, hkept⟩

/-- The images of the slots but one. -/
def State.autosBut (s : State) (slot : Nat) : List (Nat × Automaton) := s.serve.autos.filter fun a => a.1 ≠ slot

/-- The slot that an AUTOMATON names. -/
def Ctrl.autoSlot (c : Ctrl) : Nat := bitsOf (fieldAt c.bs 4 1) 5 0

/-- An image that is legal and fits takes the place of its slot's image. -/
theorem loadAutomaton_legal {sv : Serving} {a : Automaton} (hd : descClear c.bs [(4, 6), (8, 64), (0x10, 64)] = true)
    (haddr : fieldAt c.bs 8 8 % 8 = 0) (hown : (s.fn f).autos.getLsbD c.autoSlot = true) (hsv : s.serving = some sv)
    (hused : s.slotUsed c.autoSlot = false) (hsize : fieldAt c.bs 0x10 8 ≤ 16 + 8 * 4194304)
    (ha : readAutomaton (s.hostRead (fieldAt c.bs 8 8) (fieldAt c.bs 0x10 8)) sv.vocab = some a)
    (hfit : ((s.autosBut c.autoSlot).map fun a => a.2.records).sum + a.records ≤ 4194304) :
    s.loadAutomaton f c = ({ s with serve := { s.serve with
      autos := s.autosBut c.autoSlot ++ [(c.autoSlot, a)] } } : State).control f c 0 0 0 := by
  unfold State.loadAutomaton
  extract_lets slot addr size
  refine (if_neg (not_bnot_of_eq_true hd)).trans ((if_neg (not_not.mpr haddr)).trans ((if_neg (not_bnot_of_eq_true hown)).trans ?_))
  rw [hsv]
  refine (if_neg (Bool.eq_false_iff.mp hused)).trans ?_
  rw [if_pos hsize, ha]
  exact if_neg (Nat.not_lt.mpr hfit)

/-- Settles O38: CANCEL by whether its request is live, AUTOMATON by the checks its image passes. -/
theorem cancelAndAutomaton : Obligations.CancelAndAutomaton := by
  refine fun s f c u hf => ⟨?_, ?_⟩
  · intro h ring idx t v r hd hring hbegun hfetched live
    refine ⟨fun hlive => ?_, fun hgone => ?_⟩
    · exact exec_cancel hf h hd hring hbegun hfetched (markCancel_live hlive)
    · exact exec_cancel hf h hd hring hbegun hfetched (markCancel_gone hgone)
  · intro h t slot addr size others hd haddr hown sv a hsv hused hsize ha hfit
    exact ctrlRun_exec _ (fun c s => s.loadAutomaton f c) hf h rfl
      (loadAutomaton_legal hd haddr hown hsv (slotUsed_eq_false hused) hsize ha hfit)

end Sys2Proof.Machine
end

section
/-! SUPPORT and SETTLED. REQUEST and CONTINUE: what a fetch makes of the descriptor at a submission ring's head, and which of the two
commands fetches it (R285, R289, R336 to R338, R342). -/

namespace Sys2Proof.Machine

variable {s : State} {f ring : Nat}

/-! ### The descriptor at the head (R336, R337) -/

/-- The index at a submission ring's head. -/
def State.subIndex (s : State) (f ring : Nat) : Nat := ((s.fn f).ring ring).own

/-- The descriptor at a submission ring's head. -/
def State.subHead (s : State) (f ring : Nat) : List Byte := s.ringEntry ((s.fn f).ring ring) (s.subIndex f ring)

/-- The head of a submission ring taken. -/
def State.subNext (s : State) (f ring : Nat) : State := s.mapRing f ring fun r => { r with own := (r.own + 1) % 2 ^ 32 }

/-- The request in the descriptor at the head, or the code that refuses it. -/
def State.headRequest (s : State) (f ring : Nat) : Except Nat Request :=
  (s.subNext f ring).readRequest f ring (s.subIndex f ring) (s.subHead f ring)

/-- The descriptor at the head taken and refused: it has ended, and its DONE record goes out (R337, R342). -/
def State.subRefused (s : State) (f ring e : Nat) : State :=
  let t := s.subNext f ring
  ({ t with serve := { t.serve with ended := t.serve.ended ++ [(f, ring, s.subIndex f ring)] } } : State).addRec f
    ⟨4, 0x300 + e, ring, s.subIndex f ring, none, fieldAt (s.subHead f ring) 0x38 8, none, 0, 0⟩

/-- The descriptor at the head taken and its request queued, what it read charged to the function (R285, R337). -/
def State.subQueued (s : State) (f ring : Nat) (q : Request) : State :=
  let t := s.subNext f ring
  let u := t.dmaCharge (servePanel t.leadCanopy) f (4 * q.prompt.length + 64 + 8 * q.samp.bias.length)
  { u with serve := { u.serve with queued := u.serve.queued ++ [q] } }

theorem fetchSub_refused {e : Nat} (h : s.headRequest f ring = .error e) : s.fetchSub f ring = s.subRefused f ring e := by
  simp only [State.headRequest, State.subIndex, State.subHead, State.subNext] at h
  simp only [State.fetchSub, h]
  rfl

theorem fetchSub_queued {q : Request} (h : s.headRequest f ring = .ok q) : s.fetchSub f ring = s.subQueued f ring q := by
  simp only [State.headRequest, State.subIndex, State.subHead, State.subNext] at h
  simp only [State.fetchSub, h]
  rfl

/-! ### The two commands (R289, R336, R338) -/

/-- The command whose descriptor stands at a submission ring's head: CONTINUE for KIND 2, REQUEST for any other. -/
def State.fetchedBy (s : State) (f ring : Nat) (i : Instr) : Prop :=
  (i = .request f ring ∧ s.headKind f ring ≠ 2) ∨ (i = .continue_ f ring ∧ s.headKind f ring = 2)

/-- That command fetches the descriptor where it may. -/
theorem exec_fetchedBy {i : Instr} (hf : fnOk f) (hr : subRingOk ring) (hi : s.fetchedBy f ring i) :
    exec i s = .next ((if s.mayFetch f ring = true then s.fetchSub f ring else s).withQueueOf s) := by
  obtain ⟨rfl, hkind⟩ | ⟨rfl, hkind⟩ := hi
  · change execRequest f ring s = _
    exact ou ⟨hf, hr⟩ (by simp [hkind])
  · change execContinue f ring s = _
    exact ou ⟨hf, hr⟩ (by simp [hkind])

theorem exec_request_continuation (hf : fnOk f) (hr : subRingOk ring) (h : s.headKind f ring = 2) :
    exec (.request f ring) s = .next s := by
  change execRequest f ring s = _
  exact ou_same ⟨hf, hr⟩ (by simp [h])

theorem exec_continue_other (hf : fnOk f) (hr : subRingOk ring) (h : s.headKind f ring ≠ 2) :
    exec (.continue_ f ring) s = .next s := by
  change execContinue f ring s = _
  exact ou_same ⟨hf, hr⟩ (by simp [h])

/-- Settles O42: the command the head belongs to fetches it where it may, to its refusal or into the queue; the other does nothing. -/
theorem submissions : Obligations.Submissions := by
  intro s f ring hf hr r d t
  refine ⟨fun i hi => ⟨fun hmay => ⟨fun e he => ?_, fun q hq => ?_⟩, fun hmay => ?_⟩,
    exec_request_continuation hf hr, exec_continue_other hf hr⟩
  · rw [exec_fetchedBy hf hr hi, if_pos hmay, fetchSub_refused he]
    rfl
  · rw [exec_fetchedBy hf hr hi, if_pos hmay, fetchSub_queued hq]
    rfl
  · rw [exec_fetchedBy hf hr hi, if_neg (Bool.eq_false_iff.mp hmay)]
    rfl

end Sys2Proof.Machine
end

section
/-! SUPPORT and SETTLED. Control commands that find no descriptor of their kind at the ring's head (R345, R346). -/

namespace Sys2Proof.Machine

variable {s : State} {f kind : Nat} {i : Instr}

/-- Does a command act on the control descriptor of a kind, and in no other way? -/
def actsOnHead (f kind : Nat) (i : Instr) (s : State) : Prop :=
  ∃ g, exec i s = onUnit (fnOk f) s fun s => s.ctrlPeek f kind g

/-- The state once the descriptors of reserved kinds at the head of a control ring are refused. -/
def State.kindsRefused (s : State) (f : Nat) : State := State.refuseKinds f ((s.fn f).ring 4).waiting s

theorem exec_headless (hf : fnOk f) (hi : actsOnHead f kind i s) (h : s.ctrlHead f kind = none) :
    exec i s = .next ((s.kindsRefused f).withQueueOf s) := by
  obtain ⟨g, hg⟩ := hi
  exact hg.trans (ou hf (ctrlPeek_none s f kind g h))

/-- The control commands but UNLOAD, each with its KIND. -/
theorem actsOnHead_of_mem (f : Nat) (s : State) :
    ∀ x ∈ [(3, Instr.zipOpen f), (4, .zipStage f), (5, .zipClose f), (6, .cancel f), (7, .evict f), (8, .restore f),
      (9, .automaton f), (1, .load f), (0x20, .source f), (0x21, .serve f), (0x22, .replace f), (0x23, .copyBuild f),
      (0x24, .copyDiscard f)], actsOnHead f x.1 x.2 s := by
  simp only [List.forall_mem_cons]
  exact ⟨⟨_, rfl⟩, ⟨_, rfl⟩, ⟨_, rfl⟩, ⟨_, rfl⟩, ⟨_, rfl⟩, ⟨_, rfl⟩, ⟨_, rfl⟩, ⟨_, rfl⟩, ⟨_, rfl⟩, ⟨_, rfl⟩, ⟨_, rfl⟩, ⟨_, rfl⟩,
    ⟨_, rfl⟩, fun _ h => nomatch h⟩

/-- UNLOAD too acts on its descriptor alone, unless it abandons a chained load that waits (R395). -/
theorem actsOnHead_unload (h : s.loadPending = none ∨ f ≠ 0) : actsOnHead f 2 (.unload f) s := by
  have hkeep : ¬(s.loadPending.isSome && decide (f = 0)) = true := by
    rcases h with h | h <;> simp [h]
  exact ⟨fun c s => (s.ctrlNext f).unloadHead f c,
    if_congr Iff.rfl (congrArg (fun t : State => done s (t.ctrlRun f 2 fun c s => s.unloadHead f c)) (if_neg hkeep)) rfl⟩

/-- Settles O36: every control command acts on its descriptor alone. -/
theorem controlHeads : Obligations.ControlHeads := by
  refine fun s f hf => ⟨fun x hx h => ?_, fun hload h => ?_⟩
  · exact exec_headless hf (actsOnHead_of_mem f s x hx) h
  · exact exec_headless hf (actsOnHead_unload hload) h

end Sys2Proof.Machine
end

section
/-! SUPPORT and SETTLED. Doorbell lines: snoops, reads and polls of them, what an index a line gives does to its ring, and messages that
waited for their moderation interval (R331 to R334, R348). -/

namespace Sys2Proof.Machine

variable {s : State} {f i j idx : Nat}

/-! ### Rings of a function -/

@[simp] theorem Fn.ring_setRing_same (x : Fn) (hi : i < 7) (r : Ring) : (x.setRing i r).ring i = r := by
  simp [Fn.ring, Fn.setRing, List.getD_eq_getElem?_getD, Vector.toList_setIfInBounds, hi]

theorem Fn.ring_setRing_other (x : Fn) (h : j ≠ i) (r : Ring) : (x.setRing i r).ring j = x.ring j := by
  simp [Fn.ring, Fn.setRing, List.getD_eq_getElem?_getD, Vector.toList_setIfInBounds, Ne.symm h]

theorem ring_mapRing_same (hi : i < 7) (g : Ring → Ring) : ((s.mapRing f i g).fn f).ring i = g ((s.fn f).ring i) := by
  rw [State.mapRing, State.fn_mapFn_same, Fn.ring_setRing_same _ hi]

theorem ring_mapRing_other (h : j ≠ i) (g : Ring → Ring) : ((s.mapRing f i g).fn f).ring j = (s.fn f).ring j := by
  rw [State.mapRing, State.fn_mapFn_same, Fn.ring_setRing_other _ h]

theorem ring_fnSticky (m : BitVec 3) (n : Nat) : ((s.fnSticky f m n).fn f).ring i = (s.fn f).ring i := by
  rw [State.fnSticky, State.fn_mapFn_same]
  rfl

/-! ### Lines (R333, R334) -/

/-- What a snoop does by cases is one update of the line's three marks. -/
theorem snooped_eq : ∀ x : Fn,
    (if x.readOut then { x with readAgain := true } else if x.lineHeld then { x with lineHeld := false, readOut := true } else x) =
      { x with readAgain := x.readAgain || x.readOut, lineHeld := x.lineHeld && x.readOut, readOut := x.readOut || x.lineHeld }
  | { readOut := true, .. } => by simp
  | { readOut := false, lineHeld := true, .. } => by simp
  | { readOut := false, lineHeld := false, .. } => by simp

theorem exec_doorbellSnoop (hf : fnOk f) : exec (.doorbellSnoop f) s = .next ((s.mapFn f fun x => { x with
    readAgain := x.readAgain || x.readOut, lineHeld := x.lineHeld && x.readOut, readOut := x.readOut || x.lineHeld }).withQueueOf s) := by
  change execDoorbellSnoop f s = _
  exact ou hf (congrArg (s.mapFn f) (funext snooped_eq))

theorem exec_doorbellRead_out (hf : fnOk f) (hlink : s.linkUp = true) (hout : (s.fn f).readOut = true) :
    exec (.doorbellRead f) s = .next (((s.mapFn f fun x => { x with
      lineHeld := true, readOut := x.readAgain, readAgain := false }).readLine f).withQueueOf s) := by
  change execDoorbellRead f s = _
  exact ou hf (if_neg (by simp [hlink, hout]))

theorem exec_doorbellRead_none (hf : fnOk f) (h : s.linkUp = false ∨ (s.fn f).readOut = false) :
    exec (.doorbellRead f) s = .next s := by
  change execDoorbellRead f s = _
  exact ou_same hf (if_pos (by simpa using h))

/-- The poll of one function's line: it is read if one of its rings is enabled, its interval has passed and the ration grants it. -/
def State.pollLine (s : State) (g : Nat) : State :=
  let p := servePanel s.leadCanopy
  if (s.fn g).anyRing = true ∧ (s.fn g).polled + s.regs.poll * 1000 ≤ s.time ∧ s.dmaOk p g = true then
    ((s.dmaCharge p g 64).mapFn g fun x => { x with polled := s.time }).readLine g else s

theorem exec_doorbellPoll_watching (hlink : s.linkUp = true) (hcache : s.cacheUsed = false) :
    exec .doorbellPoll s = .next (((s.fns.map (·.1)).foldl State.pollLine s).withQueueOf s) := by
  change execDoorbellPoll s = _
  refine ou trivial ((if_neg (by simp [hlink, hcache])).trans ?_)
  congr 1
  funext s g
  exact if_congr (by simp [and_assoc]) rfl rfl

theorem exec_doorbellPoll_none (h : s.linkUp = false ∨ s.cacheUsed = true) : exec .doorbellPoll s = .next s := by
  change execDoorbellPoll s = _
  exact ou_same trivial (if_pos (by simpa [or_comm] using h))

/-! ### Messages that wait (R348) -/

/-- A vector's state. -/
def State.vector (s : State) (f vec : Nat) : MsiVector := getK (s.fn f).vectors vec {}

/-- A vector that has just sent. -/
def State.vectorSent (s : State) (v : MsiVector) : MsiVector := { v with last := some s.time, waiting := false, sentTick := s.tickNow }

/-- A vector's state replaced. -/
def State.putVector (s : State) (f vec : Nat) (v : MsiVector) : State := s.mapFn f fun x => { x with vectors := putK x.vectors vec v }

theorem vector_putVector (s : State) (f vec : Nat) (v : MsiVector) : (s.putVector f vec v).vector f vec = v := by
  rw [State.vector, State.putVector, State.fn_mapFn_same, getK_putK_same]

/-- A message goes out at once on a vector that is not masked and may send. -/
theorem sendMsi_sent {vec : Nat} (hmask : (s.vector f vec).masked = false) (hfree : vectorFree s f (s.vector f vec) = true)
    (hlink : s.linkUp = true) :
    s.sendMsi f vec false = { s.putVector f vec (s.vectorSent (s.vector f vec)) with msiOut := s.msiOut ++ [(f, vec)] } :=
  (if_neg (Bool.eq_false_iff.mp hmask)).trans ((if_pos (Bool.or_eq_true_iff.mpr (.inr hfree))).trans (if_pos hlink))

theorem vector_sendMsi {vec : Nat} (hmask : (s.vector f vec).masked = false) (hfree : vectorFree s f (s.vector f vec) = true)
    (hlink : s.linkUp = true) : (s.sendMsi f vec false).vector f vec = s.vectorSent (s.vector f vec) := by
  rw [sendMsi_sent hmask hfree hlink]
  exact vector_putVector ..

/-! ### An index a line gives (R331) -/

/-- Is an index wrong for a ring: a tail that moves back or passes the ring's size, a head beyond the tail? -/
def Ring.wrongIndex (r : Ring) (i idx : Nat) : Prop :=
  if i < 5 then r.size < (2 ^ 32 - r.own + idx) % 2 ^ 32 ∨ (2 ^ 32 - r.own + idx) % 2 ^ 32 < r.waiting
  else r.size < (2 ^ 32 - idx + r.own) % 2 ^ 32

theorem badIndex_iff (r : Ring) : r.badIndex i idx = true ↔ r.wrongIndex i idx := by
  unfold Ring.badIndex Ring.wrongIndex
  split <;> simp

theorem seeIndex_ignored (h : ((s.fn f).ring i).en = false ∨ ((s.fn f).ring i).stopped = true ∨ idx = ((s.fn f).ring i).seen) :
    s.seeIndex f i idx = s :=
  if_pos (by simpa [or_assoc] using h)

/-- An index that an enabled, running ring has not seen yet is wrong or taken. -/
theorem seeIndex_new (hen : ((s.fn f).ring i).en = true) (hrun : ((s.fn f).ring i).stopped = false)
    (hnew : idx ≠ ((s.fn f).ring i).seen) :
    s.seeIndex f i idx = if ((s.fn f).ring i).badIndex i idx then s.stopRing f i idx
      else (s.mapRing f i fun r => { r with seen := idx }).gainRoom f i :=
  if_neg (by simp [hen, hrun, hnew])

/-- Settles O43: each command by what its line or vector awaits, an index by whether its ring takes, refuses or ignores it. -/
theorem doorbells : Obligations.Doorbells := by
  refine ⟨fun s f hf => ⟨exec_doorbellSnoop hf, exec_doorbellRead_out hf, exec_doorbellRead_none hf, exec_doorbellPoll_watching,
    exec_doorbellPoll_none, fun vec => ⟨ou hf rfl, fun _ hmask hfree hlink => ⟨?_, vector_sendMsi hmask hfree hlink⟩⟩⟩,
    fun s f i idx hi => ⟨seeIndex_ignored, fun hen hrun hnew hwrong => ⟨?_, ?_⟩, fun hen hrun hnew hright => ⟨?_, ?_, ?_, ?_⟩⟩⟩
  · rw [sendMsi_sent hmask hfree hlink]
  · exact (seeIndex_new hen hrun hnew).trans (if_pos ((badIndex_iff _).mpr hwrong))
  · rw [ring_fnSticky, ring_mapRing_same hi]
  · exact (seeIndex_new hen hrun hnew).trans (if_neg ((badIndex_iff _).not.mpr hright))
  · exact ring_mapRing_same hi _
  · exact fun j _ hj => ring_mapRing_other hj _
  · exact fun g hg => State.fn_mapFn_other _ _ _ _ hg

end Sys2Proof.Machine
end

section
/-! SUPPORT and SETTLED. The host link's loss and return, HOST_PERST_N, and function-level resets (R322, R326, R336, R549). The width and
the cache protocol of a link that comes back are the host's choice (notes/assumptions/44). -/

namespace Sys2Proof.Machine

variable {s : State} {f g : Nat}

/-! ### The link (R322, R549) -/

theorem hostDown_up (h : s.linkUp = true) :
    s.hostDown = (((s.fns.map (·.1)).foldl State.dropLine { s with linkUp := false }).raise
      { code := 0x0501, cls := .degraded, kind := 6, loc := hostLoc, arg0 := s.widthNow }) :=
  if_neg (by simp [h])

theorem hostDown_down (h : s.linkUp = false) : s.hostDown = s := if_pos (by simp [h])

/-- The link trained anew, nothing held any more. -/
def State.linkTrained (s : State) : State :=
  { s with
    linkUp := true, heldWrites := [], linkWidth := if Config.linkWide s.free then 16 else 8
    regs := { s.regs with cacheNeg := Config.cacheNegotiated s.free }, free := s.free + 1 }

/-- The writes that were held gone out in their order. -/
def State.heldSent (s : State) : State := s.heldWrites.foldl State.putHeld s.linkTrained

theorem hostUp_down (hlink : s.linkUp = false) (hperst : s.perstLow = false) :
    s.hostUp = (s.heldSent.fns.map (·.1)).foldl State.watchLine s.heldSent :=
  if_neg (by simp [hlink, hperst])

theorem hostUp_none (h : s.linkUp = true ∨ s.perstLow = true) : s.hostUp = s := if_pos (by simpa using h)

theorem exec_hostPerstN_short {ns : Nat} (h : ns < 1000) : exec (.hostPerstN true ns) s = .next s := by
  change execHostPerstN true ns s = _
  exact ou_same trivial (if_pos h)

theorem exec_hostPerstN_long {ns : Nat} (h : 1000 ≤ ns) :
    exec (.hostPerstN true ns) s = .next (((({ s with perstLow := true } : State).hostDown).resetPf).withQueueOf s) := by
  change execHostPerstN true ns s = _
  exact ou trivial (if_neg (Nat.not_lt.mpr h))

/-! ### One function's reset (R326) -/

/-- A function at its reset values, but for what a reset keeps (notes/assumptions/75). -/
def resetOf (f : Nat) (x : Fn) : Fn :=
  { x with
    rings := (fnReset f).rings, heldRecs := [], dropped := 0, moved := 0, zipsGone := [], lineHeld := false, readOut := false
    readAgain := false, seqQuota := (fnReset f).seqQuota, kvQuota := (fnReset f).kvQuota, ceil := (fnReset f).ceil
    dmaCap := (fnReset f).dmaCap, autos := (fnReset f).autos }

theorem resetFn_fn (s : State) (f g : Nat) : (s.resetFn f).fn g = (s.mapFn f (resetOf f)).fn g := rfl

theorem resetFn_fn_same (s : State) (f : Nat) : (s.resetFn f).fn f = resetOf f (s.fn f) :=
  (resetFn_fn s f f).trans (State.fn_mapFn_same ..)

theorem resetFn_fn_other (h : g ≠ f) : (s.resetFn f).fn g = s.fn g :=
  (resetFn_fn s f g).trans (State.fn_mapFn_other _ _ _ _ h)

@[simp] theorem resetFn_hostMem (s : State) (f : Nat) : (s.resetFn f).hostMem = s.hostMem := rfl
@[simp] theorem resetFn_loaded (s : State) (f : Nat) : (s.resetFn f).loaded = s.loaded := rfl
@[simp] theorem resetFn_tick (s : State) (f : Nat) : (s.resetFn f).tick = s.tick := rfl
@[simp] theorem resetFn_errors (s : State) (f : Nat) : (s.resetFn f).errors = s.errors := rfl

@[simp] theorem resetFn_zips (s : State) (f : Nat) : (s.resetFn f).zips = s.zips.filter (fun z => z.owner.fn ≠ some f) :=
  List.filter_congr fun z _ => by
    by_cases h : z.owner.fn = some f <;> simp [h]

/-- A function's sequences will end without a record. -/
theorem resetFn_silent {x : Seq} (hx : x ∈ (s.resetFn f).serve.seqs) (hf : x.req.func = f) : x.silent = true := by
  obtain ⟨y, -, rfl⟩ := List.mem_map.mp hx
  by_cases hy : y.req.func = f
  · rw [if_pos hy]
  · rw [if_neg hy] at hf
    exact absurd hf hy

/-! ### The physical function's reset (R326) -/

/-- Every function reset. -/
def State.resetAll (s : State) : State := (0 :: s.fns.map (·.1)).eraseDups.foldl State.resetFn s

/-- A field that no function's reset touches. -/
theorem resetFn_foldl_field {α : Type} (field : State → α) (h : ∀ (s : State) (f : Nat), field (s.resetFn f) = field s)
    (fs : List Nat) : field (fs.foldl State.resetFn s) = field s := by
  induction fs generalizing s with
  | nil => rfl
  | cons f fs ih => exact ih.trans (h s f)

/-- Every function reset, the load that waits abandoned and the halves of guarded pairs gone. -/
def State.pfCleared (s : State) : State :=
  { s.resetAll with
    loadPending := none
    regs := { s.resetAll.regs with halves := [], groupIn := if s.resetAll.loaded.isSome then s.resetAll.regs.groupIn else none } }

/-- The package, if one is loaded, unloaded as UNLOAD does. -/
theorem resetPf_eq (s : State) : s.resetPf = if s.loaded.isNone then s.pfCleared
    else if s.tick.running && !s.errors.fatal then { s.pfCleared with unloading := some none }
    else ({ s.pfCleared with unloading := some none } : State).unloadNow none := by
  have hloaded : s.pfCleared.loaded = s.loaded := resetFn_foldl_field (·.loaded) resetFn_loaded _
  have htick : s.pfCleared.tick = s.tick := resetFn_foldl_field (·.tick) resetFn_tick _
  have herrors : s.pfCleared.errors = s.errors := resetFn_foldl_field (·.errors) resetFn_errors _
  rw [← hloaded, ← htick, ← herrors]
  rfl

theorem exec_resetVf (hf : fnOk f) (h : f ≠ 0) : exec (.functionLevelReset f) s = .next ((s.resetFn f).withQueueOf s) := by
  change execFunctionLevelReset f s = _
  exact ou hf (if_neg h)

theorem exec_resetPf {t : State} (h : s.resetPf = t) : exec (.functionLevelReset 0) s = .next (t.withQueueOf s) := by
  change execFunctionLevelReset 0 s = _
  exact ou (by decide) h

/-- Settles O44: the link's and PERST's effects by whether the link is up, the resets by what they leave. -/
theorem hostResets : Obligations.HostResets := by
  refine ⟨fun s => ⟨fun h => ?_, fun h => ?_, fun hlink hperst => ?_, fun h => ?_, fun ns => rfl, fun ns => exec_hostPerstN_short,
    fun ns => exec_hostPerstN_long⟩,
    fun s f hf => ⟨exec_resetVf hf, ?_, ?_⟩⟩
  · exact exec_next _ s _ State.hostDown rfl (hostDown_up h)
  · exact exec_same _ s State.hostDown rfl (hostDown_down h)
  · exact exec_next _ s _ State.hostUp rfl (hostUp_down hlink hperst)
  · exact exec_same _ s State.hostUp rfl (hostUp_none h)
  · intro t
    rw [show t.fn f = resetOf f (s.fn f) from resetFn_fn_same s f]
    exact ⟨rfl, rfl, rfl, rfl, rfl, rfl, rfl, rfl, resetFn_zips s f, fun x => resetFn_silent, fun g => resetFn_fn_other,
      resetFn_hostMem s f⟩
  · refine ⟨fun h => ?_, fun h hrun hfatal => ?_, fun h hend => ?_⟩
    · exact exec_resetPf ((resetPf_eq s).trans (if_pos (by simp [h])))
    · exact exec_resetPf ((resetPf_eq s).trans ((if_neg (by simp [h])).trans (if_pos (by simp [hrun, hfatal]))))
    · exact exec_resetPf ((resetPf_eq s).trans ((if_neg (by simp [h])).trans (if_neg (by rcases hend with h | h <;> simp [h]))))

end Sys2Proof.Machine
end

section
/-! SUPPORT and SETTLED. Guarded pairs, sequence clears, zip-staged goals, ring control, doorbell addresses, HOST_CTRL, page-table access,
EXT_SEL and the register file (R328, R332, R525 to R538). That REGISTER_WRITE does the work of rows of their own, and that the
page-table window's work is done with the write, are notes/assumptions/113 and 112. -/

namespace Sys2Proof.Machine

variable {s : State} {f off a : Nat} {v : Word} {isC : Bool} {h : GpHalf}

/-! ### Guarded pairs (R529) -/

/-- The half that waits for the other of a guarded register. -/
def State.halfWaiting (s : State) (a : Nat) : Option GpHalf := s.regs.halves.find? fun h => h.off == a

/-- A half that comes now. -/
def State.halfNow (s : State) (a : Nat) (isC : Bool) (v : Word) : GpHalf :=
  { off := a, isComplement := isC, value := v, at_ := s.time, sel := s.regs.tenSel }

/-- The half of a guarded register that waits taken out. -/
def State.halfTaken (s : State) (a : Nat) : State :=
  { s with regs := { s.regs with halves := s.regs.halves.filter fun x => x.off ≠ a } }

/-- The value that a waiting half and the other one give: that of the half that is not the complement. -/
def GpHalf.valueWith (h : GpHalf) (isC : Bool) (v : Word) : Word := if isC then h.value else v

/-- Does the other half agree with one that waited, and may their value come into force? -/
def State.pairGood (s : State) (h : GpHalf) (a : Nat) (isC : Bool) (v : Word) : Prop :=
  h.value = ~~~v ∧ (0x1104 ≤ a → a ≤ 0x1114 → h.sel = s.regs.tenSel) ∧ s.gpOk a (h.valueWith isC v).toNat = true

theorem gpWrite_unguarded (hoff : gpOf off = none) : s.gpWrite off v = s := by
  rw [State.gpWrite, hoff]

theorem gpWrite_first (hoff : gpOf off = some (a, isC)) (hwait : s.expireHalves.halfWaiting a = none) :
    s.gpWrite off v = s.expireHalves.addHalf (s.expireHalves.halfNow a isC v) := by
  rw [State.halfWaiting] at hwait
  simp only [State.gpWrite, hoff, hwait]
  rfl

theorem gpWrite_again (hoff : gpOf off = some (a, isC)) (hwait : s.expireHalves.halfWaiting a = some h) (hsame : h.isComplement = isC) :
    s.gpWrite off v = ((s.expireHalves.halfTaken a).guardFault (some 0) a).addHalf (s.expireHalves.halfNow a isC v) := by
  rw [State.halfWaiting] at hwait
  simp only [State.gpWrite, hoff, hwait]
  exact if_pos hsame

/-- The other half completes the pair. -/
theorem gpWrite_pair (hoff : gpOf off = some (a, isC)) (hwait : s.expireHalves.halfWaiting a = some h) (hother : h.isComplement ≠ isC) :
    s.gpWrite off v = (s.expireHalves.halfTaken a).gpComplete (some 0) a h.sel.toNat
      (h.value == ~~~v && (!(decide (0x1104 ≤ a) && decide (a ≤ 0x1114)) || h.sel == (s.expireHalves.halfTaken a).regs.tenSel))
      (h.valueWith isC v) := by
  rw [State.halfWaiting] at hwait
  simp only [State.gpWrite, hoff, hwait]
  exact if_neg hother

/-- The checks of a completed pair. -/
theorem pairGood_iff (s : State) (h : GpHalf) (a : Nat) (isC : Bool) (v : Word) :
    ((h.value == ~~~v && (!(decide (0x1104 ≤ a) && decide (a ≤ 0x1114)) || h.sel == s.regs.tenSel)) &&
      s.gpOk a (h.valueWith isC v).toNat) = true ↔ s.pairGood h a isC v := by
  simp only [State.pairGood, Bool.and_eq_true, Bool.or_eq_true, Bool.not_eq_true', Bool.and_eq_false_iff, decide_eq_false_iff_not, beq_iff_eq,
    and_assoc]
  tauto

theorem gpWrite_good (hoff : gpOf off = some (a, isC)) (hwait : s.expireHalves.halfWaiting a = some h) (hother : h.isComplement ≠ isC)
    (hgood : (s.expireHalves.halfTaken a).pairGood h a isC v) :
    s.gpWrite off v = (s.expireHalves.halfTaken a).gpApply a h.sel.toNat (h.valueWith isC v).toNat :=
  (gpWrite_pair hoff hwait hother).trans (if_pos ((pairGood_iff ..).mpr hgood))

theorem gpWrite_bad (hoff : gpOf off = some (a, isC)) (hwait : s.expireHalves.halfWaiting a = some h) (hother : h.isComplement ≠ isC)
    (hbad : ¬(s.expireHalves.halfTaken a).pairGood h a isC v) :
    s.gpWrite off v = (s.expireHalves.halfTaken a).guardFault (some 0) a :=
  (gpWrite_pair hoff hwait hother).trans (if_neg ((pairGood_iff ..).not.mpr hbad))

theorem exec_guardedPair {t : State} (ht : s.gpWrite off v = t) : exec (.guardedPair off v) s = .next (t.withQueueOf s) :=
  exec_next _ s t (fun s => s.gpWrite off v) rfl ht

/-- With room for one more half, none is discarded. -/
theorem addHalf_room (hroom : s.regs.halves.length < 16) (h : GpHalf) :
    s.addHalf h = { s with regs := { s.regs with halves := s.regs.halves ++ [h] } } := by
  unfold State.addHalf
  split
  · rw [if_neg (Nat.not_le.mpr hroom)]
  · rfl

/-- A waiting half of a guarded register past its 256 register-clock cycles is discarded as a guard fault. -/
def State.halfTimeout (s : State) (off : Nat) : State :=
  match gpOf off with
  | none => s
  | some (a, _) =>
    match s.halfWaiting a with
    | none => s
    | some h => if s.time < h.at_ + gpWindow then s else (s.halfTaken a).guardFault (some 0) a

theorem halfTimeout_unguarded (hoff : gpOf off = none) : s.halfTimeout off = s := by
  rw [State.halfTimeout, hoff]

theorem halfTimeout_none (hoff : gpOf off = some (a, isC)) (hwait : s.halfWaiting a = none) : s.halfTimeout off = s := by
  simp only [State.halfTimeout, hoff, hwait]

theorem halfTimeout_waiting (hoff : gpOf off = some (a, isC)) (hwait : s.halfWaiting a = some h) :
    s.halfTimeout off = if s.time < h.at_ + gpWindow then s else (s.halfTaken a).guardFault (some 0) a := by
  simp only [State.halfTimeout, hoff, hwait]

theorem exec_guardPairTimeout {t : State} (ht : s.halfTimeout off = t) : exec (.guardPairTimeout off) s = .next (t.withQueueOf s) :=
  exec_next _ s t (fun s => s.halfTimeout off) rfl ht

/-! ### Sequence clears and zip-staged goals (R528, R531) -/

theorem exec_sequenceClear {t : State} (hf : fnOk f) (ht : s.sqWrite f off v = t) :
    exec (.sequenceClear f off v) s = .next (t.withQueueOf s) := by
  change execSequenceClear f off v s = _
  exact ou hf ht

theorem sqClear_iff {seq : Nat} : sqClear seq v = true ↔ v.toNat / 2 ^ 16 = seq := beq_iff_eq

theorem sqWrite_fnStatus (s : State) (f : Nat) (v : Word) :
    s.sqWrite f 0x04 v = if sqClear (s.fn f).seq v then s.mapFn f fun x => { x with sticky := 0 } else s := rfl

theorem sqWrite_errStatus (s : State) (v : Word) :
    s.sqWrite 0 0x4064 v = if sqClear s.errors.seq v then { s with errors := { s.errors with sticky := 0 } } else s := rfl

theorem exec_zpWrite_goal (hf : fnOk f) (hgoal : f = 0 ∧ 0x3000 ≤ off ∧ off < 0x3020 ∧ off % 4 = 0) :
    exec (.zpWrite f off v) s = .next ((s.zpWrite f off v).withQueueOf s) := by
  change execZpWrite f off v s = _
  exact ou hf (if_pos hgoal)

theorem exec_zpWrite_other (hf : fnOk f) (hother : f ≠ 0 ∨ off < 0x3000 ∨ 0x3020 ≤ off ∨ off % 4 ≠ 0) :
    exec (.zpWrite f off v) s = .next s := by
  change execZpWrite f off v s = _
  exact ou_same hf (if_neg (by omega))

/-! ### Ring control (R328, R532) -/

section
variable {i : Nat}

/-- The LSIZE of a word for RCTRL. -/
def rctrlSize (v : Word) : Nat := bitsOf v.toNat 4 1

/-- Is it a size that a ring can have? -/
abbrev rctrlLegal (v : Word) : Prop := 6 ≤ rctrlSize v ∧ rctrlSize v ≤ 16

/-- A ring given its size, where that is legal. -/
def State.ringSized (s : State) (f i : Nat) (v : Word) : State :=
  if rctrlLegal v then s.mapRing f i fun r => { r with lsize := rctrlSize v } else s

theorem rctrlWrite_eq (s : State) (f i : Nat) (v : Word) : s.rctrlWrite f i v =
    if v.getLsbD 0 then
      (if ((s.fn f).ring i).en then s.ringSized f i v
        else if rctrlLegal v then s.enableRing f i (rctrlSize v) else s)
    else if ((s.fn f).ring i).en then (s.ringSized f i v).disableRing f i else s.ringSized f i v := by
  simp only [State.rctrlWrite, Bool.and_eq_true, decide_eq_true_eq]
  rfl

theorem rctrlWrite_sized (hen : v.getLsbD 0 = true) (hr : ((s.fn f).ring i).en = true) : s.rctrlWrite f i v = s.ringSized f i v := by
  rw [rctrlWrite_eq, if_pos hen, if_pos hr]

theorem rctrlWrite_enables (hen : v.getLsbD 0 = true) (hr : ((s.fn f).ring i).en = false) (hlegal : rctrlLegal v) :
    s.rctrlWrite f i v = s.enableRing f i (rctrlSize v) := by
  rw [rctrlWrite_eq, if_pos hen, if_neg (Bool.eq_false_iff.mp hr), if_pos hlegal]

theorem rctrlWrite_illegal (hen : v.getLsbD 0 = true) (hr : ((s.fn f).ring i).en = false) (hlegal : ¬rctrlLegal v) :
    s.rctrlWrite f i v = s := by
  rw [rctrlWrite_eq, if_pos hen, if_neg (Bool.eq_false_iff.mp hr), if_neg hlegal]

theorem rctrlWrite_disables (hdis : v.getLsbD 0 = false) (hr : ((s.fn f).ring i).en = true) :
    s.rctrlWrite f i v = (s.ringSized f i v).disableRing f i := by
  rw [rctrlWrite_eq, if_neg (Bool.eq_false_iff.mp hdis), if_pos hr]

theorem rctrlWrite_disabled (hdis : v.getLsbD 0 = false) (hr : ((s.fn f).ring i).en = false) :
    s.rctrlWrite f i v = s.ringSized f i v := by
  rw [rctrlWrite_eq, if_neg (Bool.eq_false_iff.mp hdis), if_neg (Bool.eq_false_iff.mp hr)]

theorem exec_ringEnable {t : State} (hf : fnOk f) (hi : ringOk i) (hen : v.getLsbD 0 = true) (ht : s.rctrlWrite f i v = t) :
    exec (.ringEnable f i v) s = .next (t.withQueueOf s) := by
  change execRingEnable f i v s = _
  exact ou ⟨hf, hi⟩ ((if_pos hen).trans ht)

theorem exec_ringDisable {t : State} (hf : fnOk f) (hi : ringOk i) (hdis : v.getLsbD 0 = false) (ht : s.rctrlWrite f i v = t) :
    exec (.ringDisable f i v) s = .next (t.withQueueOf s) := by
  change execRingDisable f i v s = _
  exact ou ⟨hf, hi⟩ ((if_neg (Bool.eq_false_iff.mp hdis)).trans ht)

theorem exec_ringEnable_none (hf : fnOk f) (hi : ringOk i) (hdis : v.getLsbD 0 = false) : exec (.ringEnable f i v) s = .next s := by
  change execRingEnable f i v s = _
  exact ou_same ⟨hf, hi⟩ (if_neg (Bool.eq_false_iff.mp hdis))

theorem exec_ringDisable_none (hf : fnOk f) (hi : ringOk i) (hen : v.getLsbD 0 = true) : exec (.ringDisable f i v) s = .next s := by
  change execRingDisable f i v s = _
  exact ou_same ⟨hf, hi⟩ (if_pos hen)

end

/-! ### Doorbell addresses and HOST_CTRL (R332, R334) -/

theorem exec_doorbellAddressWrite {hi : Word} (hf : fnOk f) :
    exec (.doorbellAddressWrite f hi) s = .next ((s.dbWrite f hi).withQueueOf s) := by
  change execDoorbellAddressWrite f hi s = _
  exact ou hf rfl

/-- The two fields of HOST_CTRL stored, POLL as the nearer limit. -/
def State.hostCtrlSet (s : State) (v : Word) : State :=
  { s with regs := { s.regs with cacheEn := v.getLsbD 0, poll := max 1 (min 1000 (bitsOf v.toNat 11 2)) } }

theorem hostCtrl_kept (h : s.regs.cacheEn = v.getLsbD 0) : s.hostCtrl v = s.hostCtrlSet v :=
  (if_neg (by simp [h])).trans (if_neg (by simp [h]))

/-- As CACHE_EN falls, every line is given up. -/
theorem hostCtrl_falls (hwas : s.regs.cacheEn = true) (hv : v.getLsbD 0 = false) :
    s.hostCtrl v = (s.fns.map (·.1)).foldl State.dropLine (s.hostCtrlSet v) :=
  if_pos (by rw [hwas, hv]; rfl)

/-- As CACHE_EN rises, every line is watched. -/
theorem hostCtrl_rises (hwas : s.regs.cacheEn = false) (hv : v.getLsbD 0 = true) :
    s.hostCtrl v = (s.fns.map (·.1)).foldl State.watchLine (s.hostCtrlSet v) :=
  (if_neg (by simp [hwas])).trans (if_pos (by rw [hwas, hv]; rfl))

theorem exec_cacheEnWrite {t : State} (ht : s.hostCtrl v = t) : exec (.cacheEnWrite v) s = .next (t.withQueueOf s) :=
  exec_next _ s t (fun s => s.hostCtrl v) rfl ht

/-! ### Page-table access (R538) -/

section
variable {hi : Word} {k : Site} {fr : Nat}

/-- PT_DATA with its high word written. -/
def State.ptDataSet (s : State) (hi : Word) : State :=
  { s with regs := { s.regs with ptData := hi.zeroExtend 64 <<< 32 ||| (s.regs.ptData &&& 0xFFFFFFFF#64) } }

/-- A record refused with a code. -/
def State.ptRefused (s : State) (c : Nat) : State :=
  { s with regs := { s.regs with ptCode := c, modSticky := s.regs.modSticky ||| 0b010#3 } }

/-- The record in PT_DATA put in a frame's place. -/
def State.ptPut (s : State) (k : Site) (fr : Nat) : State :=
  ({ s with regs := { s.regs with ptCode := 0 } } : State).putFrameRec k fr (frameRecOf s.regs.ptData.toNat)

/-- The state of a frame. -/
def State.frameSt (s : State) (k : Site) (fr : Nat) : Nat := ((s.core k).frameRec fr).st

theorem ptSubmit_noFrame (hsite : (s.ptDataSet hi).ptSite = none) : s.ptSubmit hi = (s.ptDataSet hi).ptRefused 3 := by
  rw [State.ptDataSet] at hsite
  simp only [State.ptSubmit, hsite]
  rfl

theorem ptSubmit_frame (hsite : (s.ptDataSet hi).ptSite = some (k, fr)) : s.ptSubmit hi =
    let t := s.ptDataSet hi
    if t.frameSt k fr = 1 then t.ptRefused 1
    else if t.frameSt k fr = 2 ∨ (t.regs.ptData.toNat ≠ 0 ∧ t.regs.ptData.toNat ≠ 3) then t.ptRefused 2
    else t.ptPut k fr := by
  rw [State.ptDataSet] at hsite
  simp only [State.ptSubmit, hsite]
  rfl

theorem ptSubmit_mapped (hsite : (s.ptDataSet hi).ptSite = some (k, fr)) (hst : (s.ptDataSet hi).frameSt k fr = 1) :
    s.ptSubmit hi = (s.ptDataSet hi).ptRefused 1 :=
  (ptSubmit_frame hsite).trans (if_pos hst)

theorem ptSubmit_illegal (hsite : (s.ptDataSet hi).ptSite = some (k, fr))
    (hbad : (s.ptDataSet hi).frameSt k fr = 2 ∨ ((s.ptDataSet hi).frameSt k fr ≠ 1 ∧
      (s.ptDataSet hi).regs.ptData.toNat ≠ 0 ∧ (s.ptDataSet hi).regs.ptData.toNat ≠ 3)) :
    s.ptSubmit hi = (s.ptDataSet hi).ptRefused 2 :=
  (ptSubmit_frame hsite).trans ((if_neg (by omega)).trans (if_pos (by tauto)))

theorem ptSubmit_legal (hsite : (s.ptDataSet hi).ptSite = some (k, fr)) (h1 : (s.ptDataSet hi).frameSt k fr ≠ 1)
    (h2 : (s.ptDataSet hi).frameSt k fr ≠ 2)
    (hd : (s.ptDataSet hi).regs.ptData.toNat = 0 ∨ (s.ptDataSet hi).regs.ptData.toNat = 3) :
    s.ptSubmit hi = (s.ptDataSet hi).ptPut k fr :=
  (ptSubmit_frame hsite).trans ((if_neg h1).trans (if_neg (by tauto)))

theorem exec_ptWrite {t : State} (ht : s.ptSubmit hi = t) : exec (.ptWrite hi) s = .next (t.withQueueOf s) :=
  exec_next _ s t (fun s => s.ptSubmit hi) rfl ht

end

/-! ### Any register (R525, R526, R530) -/

theorem exec_registerWrite {t : State} (hf : fnOk f) (ht : s.writeReg f off v = t) :
    exec (.registerWrite f off v) s = .next (t.withQueueOf s) := by
  change execRegisterWrite f off v s = _
  exact ou hf ht

theorem writeReg_outside (hout : off % 4 ≠ 0 ∨ 0x10000 ≤ off ∨ (f ≠ 0 ∧ 0x1000 ≤ off)) : s.writeReg f off v = s := by
  unfold State.writeReg
  by_cases hbad : off % 4 ≠ 0 ∨ 0x10000 ≤ off
  · exact if_pos hbad
  · obtain ⟨hf, hoff⟩ : f ≠ 0 ∧ 0x1000 ≤ off := by tauto
    rw [if_neg hbad, if_neg (Nat.not_lt.mpr hoff), if_pos hf]

theorem writeReg_fnBlock (hal : off % 4 = 0) (hoff : off < 0x1000) : s.writeReg f off v = s.fnWrite f off v :=
  (if_neg (by omega)).trans (if_pos hoff)

/-- A write beyond the function block of the physical function's window. -/
theorem writeReg_page (hal : off % 4 = 0) (hlo : 0x1000 ≤ off) (hhi : off < 0x10000) : s.writeReg 0 off v =
    if (gpOf off).isSome then s.gpWrite off v
    else if 0x3000 ≤ off ∧ off < 0x3020 then s.zpWrite 0 off v else s.pageWrite off v :=
  (if_neg (by omega)).trans ((if_neg (Nat.not_lt.mpr hlo)).trans (if_neg (not_not.mpr rfl)))

section
variable (hal : off % 4 = 0) (hlo : 0x1000 ≤ off) (hhi : off < 0x10000)
include hal hlo hhi

theorem writeReg_guarded (hgp : gpOf off ≠ none) : s.writeReg 0 off v = s.gpWrite off v :=
  (writeReg_page hal hlo hhi).trans (if_pos (Option.isSome_iff_ne_none.mpr hgp))

theorem writeReg_goal (hgp : gpOf off = none) (hlo' : 0x3000 ≤ off) (hhi' : off < 0x3020) : s.writeReg 0 off v = s.zpWrite 0 off v :=
  (writeReg_page hal hlo hhi).trans ((if_neg (by simp [hgp])).trans (if_pos ⟨hlo', hhi'⟩))

theorem writeReg_plain (hgp : gpOf off = none) (hout : off < 0x3000 ∨ 0x3020 ≤ off) : s.writeReg 0 off v = s.pageWrite off v :=
  (writeReg_page hal hlo hhi).trans ((if_neg (by simp [hgp])).trans (if_neg (by omega)))

end

/-- Settles O60: each register by the case its rule makes of the write. -/
theorem registers : Obligations.Registers := by
  have hpf : fnOk 0 := by decide
  refine ⟨fun s off v => ⟨fun hoff => ?_, fun a isC hoff => ⟨?_, fun h hwait => ⟨?_, ?_, ?_⟩, ?_, fun h hwait => ⟨?_, ?_⟩⟩, addHalf_room⟩,
    fun s f hf => ⟨fun v => ⟨fun h => ?_, fun h => ?_, fun h => ?_, fun h => ?_⟩, fun off v => ⟨?_, exec_zpWrite_other hf⟩,
      fun i v hi => ⟨fun hen => ⟨?_, ?_, ?_, exec_ringDisable_none hf hi hen⟩, fun hdis => ⟨?_, ?_, exec_ringEnable_none hf hi hdis⟩⟩,
      fun hi => exec_doorbellAddressWrite hf, fun v => ⟨?_, ?_, ?_⟩, fun v => ⟨rfl, rfl⟩,
      fun hi => ⟨?_, fun k fr hsite => ⟨?_, ?_, ?_⟩⟩, fun v => rfl, fun off v => ⟨?_, ?_, fun hal hlo hhi => ⟨?_, ?_, ?_⟩⟩⟩⟩
  · exact ⟨exec_guardedPair (gpWrite_unguarded hoff), exec_guardPairTimeout (halfTimeout_unguarded hoff)⟩
  · exact fun hwait => exec_guardedPair (gpWrite_first hoff hwait)
  · exact fun hsame => exec_guardedPair (gpWrite_again hoff hwait hsame)
  · exact fun hother hgood => exec_guardedPair (gpWrite_good hoff hwait hother hgood)
  · exact fun hother hbad => exec_guardedPair (gpWrite_bad hoff hwait hother hbad)
  · exact fun hwait => exec_guardPairTimeout (halfTimeout_none hoff hwait)
  · exact fun hsoon => exec_guardPairTimeout ((halfTimeout_waiting hoff hwait).trans (if_pos hsoon))
  · exact fun hlate => exec_guardPairTimeout ((halfTimeout_waiting hoff hwait).trans (if_neg (Nat.not_lt.mpr hlate)))
  · exact exec_sequenceClear hf ((sqWrite_fnStatus s f v).trans (if_pos (sqClear_iff.mpr h)))
  · exact exec_sequenceClear hf ((sqWrite_fnStatus s f v).trans (if_neg (sqClear_iff.not.mpr h)))
  · exact exec_sequenceClear hpf ((sqWrite_errStatus s v).trans (if_pos (sqClear_iff.mpr h)))
  · exact exec_sequenceClear hpf ((sqWrite_errStatus s v).trans (if_neg (sqClear_iff.not.mpr h)))
  · exact fun h0 hlo hhi hal => exec_zpWrite_goal hf ⟨h0, hlo, hhi, hal⟩
  · exact fun hr => exec_ringEnable hf hi hen (rctrlWrite_sized hen hr)
  · exact fun hr hlegal => exec_ringEnable hf hi hen (rctrlWrite_enables hen hr hlegal)
  · exact fun hr hlegal => exec_ringEnable hf hi hen (rctrlWrite_illegal hen hr hlegal)
  · exact fun hr => exec_ringDisable hf hi hdis (rctrlWrite_disables hdis hr)
  · exact fun hr => exec_ringDisable hf hi hdis (rctrlWrite_disabled hdis hr)
  · exact fun hkept => exec_cacheEnWrite (hostCtrl_kept hkept)
  · exact fun hwas hv => exec_cacheEnWrite (hostCtrl_falls hwas hv)
  · exact fun hwas hv => exec_cacheEnWrite (hostCtrl_rises hwas hv)
  · exact fun hsite => exec_ptWrite (ptSubmit_noFrame hsite)
  · exact fun h1 => exec_ptWrite (ptSubmit_mapped hsite h1)
  · exact fun hbad => exec_ptWrite (ptSubmit_illegal hsite hbad)
  · exact fun h1 h2 hd => exec_ptWrite (ptSubmit_legal hsite h1 h2 hd)
  · exact fun hout => exec_registerWrite hf (writeReg_outside hout)
  · exact fun hal hoff => exec_registerWrite hf (writeReg_fnBlock hal hoff)
  · exact fun hgp => exec_registerWrite hpf (writeReg_guarded hal hlo hhi hgp)
  · exact fun hgp hlo' hhi' => exec_registerWrite hpf (writeReg_goal hal hlo hhi hgp hlo' hhi')
  · exact fun hgp hout => exec_registerWrite hpf (writeReg_plain hal hlo hhi hgp hout)

end Sys2Proof.Machine
end

section
/-! SUPPORT and SETTLED. SOURCE, SERVE, REPLACE and the copy operations on the descriptor at the control ring's head, the limit of a drain,
shards that partners send, and scrubs of held shards (R355 to R363, R370 to R373). That digests are compared as little-endian numbers is
notes/assumptions/139, that a scrubbed shard is charged its words but at most what the ration has left is notes/assumptions/141. -/

namespace Sys2Proof.Machine

variable {s t : State} {rec : Nat} {k : Site} {bs : List Byte}

/-! ### The stages of a copy (R372) -/

theorem not_any_set_lacks_copy {gs : List Nat} {m : Manifest}
    (h : ∀ g ∈ gs, ∀ x ∈ s.setsOf g, ((m.sets[x]?).map (·.copy)).getD false = true) :
    ¬(gs.any fun g => (s.setsOf g).any fun x => !((m.sets[x]?).map (·.copy)).getD false) = true := by
  rw [Bool.not_eq_true, List.any_eq_false]
  intro g hg
  rw [Bool.not_eq_true, List.any_eq_false]
  exact fun x hx => not_bnot_of_eq_true (h g hg x hx)

theorem not_area_taken {g a : Nat} (harea : ∀ x ∈ s.weights.areas, ¬(x.stage = g ∧ x.area = a)) (hcopy : (g, a) ∉ s.weights.copies) :
    ¬((s.weights.areas.any fun x => x.stage == g && x.area == a) || s.weights.copies.contains (g, a)) = true := by
  simpa using ⟨fun x hx hg ha => harea x hx ⟨hg, ha⟩, hcopy⟩

/-! ### The drain's limit (R370) -/

theorem exec_replaceDrainLimit {m : Manifest} {limit done : Nat} {left : List Nat}
    (h : s.weights.op = .replace m (some limit) left false done) :
    exec .replaceDrainLimit s = .next ((if limit ≤ s.time then s.endDrain else s).withQueueOf s) := by
  change execReplaceDrainLimit s = _
  refine ou trivial ?_
  rw [h]

/-! ### A shard from a partner (R359, R391) -/

section
variable {f : Fetch} {r : ShardRec} {second : Bool} {unload : State → State}

/-- The link that the attempt uses has its request answered, and the shard is taken up. -/
theorem shardArrival_guy {l : Nat} (hf : s.fetchOf rec k = some f) (hsrc : s.sourceNow f.tries0 f.tries1 = some (second, .guy l))
    (hr : s.fetchRec f = some r) :
    s.shardArrival rec k bs unload =
      (s.mapGuy l fun g => { g with requests := g.requests.filter fun x => x.digest ≠ r.digest }).takeShard f second bs unload := by
  unfold State.shardArrival
  rw [hf]
  dsimp only
  rw [hsrc, hr]

theorem takeShard_wrong (hr : s.fetchRec f = some r) (hbad : bs.length ≠ r.size ∨ digestOf bs ≠ r.digest) :
    s.takeShard f second bs unload = s.attemptFails f second unload := by
  unfold State.takeShard
  rw [hr]
  exact if_pos hbad

theorem exec_shardArrival (hk : k.ok) (ht : s.shardArrival rec k bs State.loadFails = t) :
    exec (.shardArrival rec k bs) s = .next (t.withQueueOf s) := by
  change execShardArrival rec k bs s = _
  exact ou hk ht

/-- A verified shard written to the weight store: no fetch is left of it, and it is held as clean as of now. -/
def State.shardLaid (s : State) (f : Fetch) (r : ShardRec) (stored : List Byte) : State :=
  let u := s.mapCore f.core fun c => c.wrRaw 1 (f.area * c.tab.span + r.dest) stored
  { u with weights := { u.weights with
    fetches := u.weights.fetches.filter (· ≠ f)
    shards := u.weights.shards ++ [⟨f.shard, f.core, f.area, r.digest, u.time⟩] } }

theorem takeShard_right {stored : List Byte} (hr : s.fetchRec f = some r) (hsize : bs.length = r.size) (hdig : digestOf bs = r.digest)
    (hexp : expandShard (r.packed / 410) bs = .ok stored) :
    s.takeShard f second bs unload = ((s.shardLaid f r stored).fetchEnd f.why f.core).pumpFetches := by
  have hgood : ¬(bs.length ≠ r.size ∨ digestOf bs ≠ r.digest) := by simp [hsize, hdig]
  unfold State.takeShard
  rw [hr]
  refine (if_neg hgood).trans ?_
  rw [hexp]
  rfl

end

/-! ### A scrubbed shard (R361, R362) -/

/-- The state with a shard of a panel charged to its ration and counted in its pass. -/
def State.scrubCharged (s : State) (rec : Nat) (k : Site) (r : ShardRec) : State :=
  let words := ceilDiv r.stored 128
  (s.charge k.panel ratScrub (min words ((s.rationLeft k.panel ratScrub).getD words))).mapPanel k.panel fun x =>
    { x with scrubDone := x.scrubDone ++ [(rec, k)] }

/-- The held shard passes its scrub now. -/
def State.shardClean (s : State) (h : HeldShard) : State :=
  { s with weights := { s.weights with shards := s.weights.shards.map fun y => if y = h then { y with clean := s.time } else y } }

/-- The held shard is put down for repair, reported with the time it last passed, and observed. -/
def State.shardCorrupt (s : State) (rec : Nat) (k : Site) (h : HeldShard) : State :=
  (({ s with weights := { s.weights with
    repairs := if (rec, k) ∈ s.weights.repairs then s.weights.repairs else s.weights.repairs ++ [(rec, k)] } } : State).raise
      { code := 0x0602, cls := .corrected, kind := 0, loc := s.coreLoc k, arg0 := rec, arg1 := h.clean }).observe k false 3

theorem scrubHashed_held {h : HeldShard} {r : ShardRec} (hrun : s.tick.running = true) (hration : s.rationOk k.panel ratScrub = true)
    (hheld : s.weights.shards.find? (fun h => h.shard == rec && h.core == k && s.scrubbed h) = some h) (hr : s.recOfHeld h = some r) :
    s.scrubHashed rec k = (if digestOf ((s.core k).carried r h.area) = h.digest then (s.scrubCharged rec k r).shardClean h
      else (s.scrubCharged rec k r).shardCorrupt rec k h).scrubPass k.panel := by
  have hgranted : ¬(!s.tick.running || !s.rationOk k.panel ratScrub) = true := by simp [hrun, hration]
  unfold State.scrubHashed
  rw [hheld]
  refine (if_neg hgranted).trans ?_
  rw [hr]
  exact congrArg (State.scrubPass · k.panel) (if_congr beq_iff_eq rfl rfl)

theorem exec_scrubShardHashed (hk : k.ok) (ht : s.scrubHashed rec k = t) :
    exec (.scrubShardHashed rec k) s = .next (t.withQueueOf s) := by
  change execScrubShardHashed rec k s = _
  exact ou hk ht

/-- Settles O41: each weight operation past its first checks and its own; a shard by its digest, on arrival and at a scrub. -/
theorem weightOperations : Obligations.WeightOperations := by
  refine ⟨fun s c u => ⟨?_, ?_, ?_, ?_, ?_⟩, fun s m t left done h => exec_replaceDrainLimit h, ?_, ?_⟩
  · intro h hd w kind addr hkind haddr
    exact weight_exec _ s _ _ _ _ c u _ h rfl hd nofun ((if_neg hkind).trans (if_neg fun hbad => hbad.2 (haddr hbad.1)))
  · intro h hd
    exact weight_exec _ s _ _ _ _ c u _ h rfl hd nofun rfl
  · intro h hd hl hop m old hm hold hepoch ms
    refine weight_exec _ s _ _ _ _ c u _ h rfl hd (fun _ => ⟨hl, hop⟩) ?_
    rw [hm, hold]
    exact if_neg (Nat.not_lt.mpr hepoch)
  · intro h hd hl hop m hm gs target hgs hcopy hfree jobs
    refine weight_exec _ s _ _ _ _ c u _ h rfl hd (fun _ => ⟨hl, hop⟩) ((if_neg (by simpa using hgs)).trans ?_)
    rw [hm]
    refine (if_neg (not_any_set_lacks_copy hcopy)).trans (if_neg ?_)
    rw [Bool.not_eq_true, List.any_eq_false]
    intro g hg
    obtain ⟨a, ha, harea, hbuilt⟩ := hfree g hg
    dsimp only [target] at ha ⊢
    rw [ha]
    exact not_area_taken harea hbuilt
  · intro h hd hl hop hgs
    exact weight_exec _ s _ _ _ _ c u _ h rfl hd (fun _ => ⟨hl, hop⟩) (if_neg (by simpa using hgs))
  · intro s rec l k bs f second r hk hf hsrc hr t
    have hguy := shardArrival_guy (bs := bs) (unload := State.loadFails) hf hsrc hr
    exact ⟨fun stored hsize hdig hexp => exec_shardArrival hk (hguy.trans (takeShard_right hr hsize hdig hexp)),
      fun hbad => exec_shardArrival hk (hguy.trans (takeShard_wrong hr hbad))⟩
  · intro s rec k h r hk hrun hration hheld hr words t
    have hscrub := scrubHashed_held hrun hration hheld hr
    exact ⟨fun hgood => exec_scrubShardHashed hk (hscrub.trans (congrArg (State.scrubPass · k.panel) (if_pos hgood))),
      fun hbad => exec_scrubShardHashed hk (hscrub.trans (congrArg (State.scrubPass · k.panel) (if_neg hbad)))⟩

end Sys2Proof.Machine
end

section
/-! SUPPORT. A command whose effect on the state is known, by what the effect comes to. -/

namespace Sys2Proof.Machine

variable {i : Instr} {s t u : State}

theorem next_of_effect (h : exec i s = .next (u.withQueueOf s)) (hu : u = t) : exec i s = .next (t.withQueueOf s) := hu ▸ h

theorem same_of_effect (h : exec i s = .next (u.withQueueOf s)) (hu : u = s) : exec i s = .next s := next_of_effect h hu

end Sys2Proof.Machine
end

section
/-! SUPPORT and SETTLED. What reset leaves (R9, R73, R142, R553); the power inputs and the link at reset, and the values R553 does not
give, are notes/assumptions/1, 3, 4 and 5. -/

namespace Sys2Proof.Machine

theorem mem_nil_wf : Mem.wf [] := ⟨.nil, List.forall_mem_nil _⟩

/-- A core that no command has touched lists nothing in any store. -/
theorem core_untouched_canonical : Core.canonical {} := by
  intro st hst
  interval_cases st <;> exact mem_nil_wf

theorem fn_reset_vf {f : Nat} (h : 0 < f) : State.reset.fn f = {} := if_neg h.ne'

/-- Settles O2: the reset values are the fields' own; no core or function is listed, so each reads as untouched. -/
theorem resetState : Obligations.ResetState :=
  ⟨rfl, rfl, rfl, rfl, rfl, rfl, rfl, ⟨mem_nil_wf, fun _ => core_untouched_canonical⟩, fun _ => rfl, fun _ => fn_reset_vf,
    List.forall_mem_nil _⟩

end Sys2Proof.Machine
end

section
/-! SUPPORT and SETTLED. Which frames a guy link accepts (R377, R379, R381 to R383, R386, R387): what the receiver does with a frame,
case by case, then the two commands for frames that are in error. -/

namespace Sys2Proof.Machine

variable {s t : State} {l : Nat} {f : Frame}

/-- A sequenced frame that is `ahead` of the one awaited, its header taken: one later than awaited brings a NAK, an earlier one an
ACK (R382, R383); the one awaited is taken within its class's credits (R386, R387). -/
def State.rxSequenced (t : State) (l : Nat) (f : Frame) (ahead : Nat) : State × Bool :=
  let i := classOf (fType f)
  let n := frameBlocks f
  if ahead ≠ 0 then
    (if ahead < 2048 then t.mapGuy l fun g => g.nakOnce t.time else t.mapGuy l fun g => { g with owesAck := true }, false)
  else if (t.guy l).granted.toList.getD i 0 < n then (t.creditError l f, false)
  else
    (t.mapGuy l fun h => { h with
      expect := (h.expect + 1) % 4096, owesAck := true, nakSent := false
      granted := h.granted.setIfInBounds i (h.granted.toList.getD i 0 - n)
      freed := h.freed.setIfInBounds i (h.freed.toList.getD i 0 + n) }, true)

theorem rxFrame_down (hup : (s.guy l).up = false) : s.rxFrame l f = (s, false) := if_pos (congrArg not hup)

theorem rxFrame_garbled (hup : (s.guy l).up = true) (hcrc : crcOk f = false) :
    s.rxFrame l f = (if fType f = 4 then s.mapGuy l fun g => g.count 2 1
      else (s.mapGuy l fun g => g.count 2 1).mapGuy l fun g => g.nakOnce s.time, false) :=
  (if_neg (not_bnot_of_eq_true hup)).trans (if_pos (congrArg not hcrc))

theorem rxFrame_malformed (hup : (s.guy l).up = true) (hcrc : crcOk f = true) (hhead : headerOk f = false) :
    s.rxFrame l f = (s, false) :=
  (if_neg (not_bnot_of_eq_true hup)).trans ((if_neg (not_bnot_of_eq_true hcrc)).trans (if_pos (congrArg not hhead)))

theorem rxFrame_sound (hup : (s.guy l).up = true) (hcrc : crcOk f = true) (hhead : headerOk f = true) :
    s.rxFrame l f = if fType f = 4 then (s.rxHeader l f, true)
      else (s.rxHeader l f).rxSequenced l f ((fSeq f + 4096 - (s.guy l).expect) % 4096) :=
  (if_neg (not_bnot_of_eq_true hup)).trans ((if_neg (not_bnot_of_eq_true hcrc)).trans (if_neg (not_bnot_of_eq_true hhead)))

/-- FRAME_CRC_ERROR passes over a frame that is in no error (R382). -/
theorem exec_frameCrcError_none (hl : linkOk l) (hcrc : crcOk f = true) (hseq : fType f = 4 ∨ fSeq f = (s.guy l).expect) :
    exec (.frameCrcError l f) s = .next s := by
  change execFrameCrcError l f s = _
  refine ou_same hl (if_pos ?_)
  rcases hseq with h | h <;> simp [hcrc, h, typLink]

theorem exec_frameCrcError_bad (hl : linkOk l) (hbad : crcOk f = false ∨ (fType f ≠ 4 ∧ fSeq f ≠ (s.guy l).expect)) :
    exec (.frameCrcError l f) s = .next ((s.rxFrame l f).1.withQueueOf s) := by
  change execFrameCrcError l f s = _
  refine ou hl (if_neg ?_)
  rcases hbad with h | ⟨htype, hseq⟩ <;> simp [*, typLink]

/-- Settles O45: the receiver's checks in their order, the sequenced frame by how far it is ahead. -/
theorem frameAcceptance : Obligations.FrameAcceptance := by
  intro s l f hl g t i n ahead
  refine ⟨rxFrame_down, fun hup hcrc => ?_, rxFrame_malformed, fun hup hcrc hhead => ?_, exec_frameCrcError_bad hl,
    exec_frameCrcError_none hl, fun why => ou hl rfl⟩
  · exact rxFrame_garbled hup hcrc
  have hsound : s.rxFrame l f = if fType f = 4 then (t, true) else t.rxSequenced l f ahead := rxFrame_sound hup hcrc hhead
  clear_value t ahead
  refine ⟨fun htype => hsound.trans (if_pos htype), fun htype hnow hfits => ?_, fun htype hnow hover => ?_, fun htype hahead hnear => ?_,
    fun htype hfar => ?_⟩
  · rw [hsound, if_neg htype, State.rxSequenced, if_neg (not_not.mpr hnow)]
    exact if_neg (Nat.not_lt.mpr hfits)
  · rw [hsound, if_neg htype, State.rxSequenced, if_neg (not_not.mpr hnow)]
    exact if_pos hover
  · rw [hsound, if_neg htype, State.rxSequenced, if_pos hahead, if_pos hnear]
  · rw [hsound, if_neg htype, State.rxSequenced, if_pos (by omega), if_neg (Nat.not_lt.mpr hfar)]

end Sys2Proof.Machine
end

section
/-! SUPPORT and SETTLED. Retransmission and idle ACKs, HELLO and lanes of a guy link (R383, R385, R388, R398, R399, R401). That a HELLO is
answered on receipt is notes/assumptions/107, that a link going down fails its requests is notes/assumptions/108. -/

namespace Sys2Proof.Machine

variable {s : State} {l : Nat} {f : Frame} {mask : Byte}

/-! ### The timers (R383) -/

/-- GUY_ACK_TIMEOUT's effect: an ACK has not advanced for 4 µs with frames outstanding. -/
def State.ackTimeout (s : State) (l : Nat) : State :=
  if !(s.guy l).up || (s.guy l).retry.isEmpty || decide (s.time < (s.guy l).lastAckAt + 4000) then s
  else (s.mapGuy l fun g => { g with rewind := some 0, lastAckAt := s.time }).resend l

theorem exec_guyAckTimeout (hl : linkOk l) : exec (.guyAckTimeout l) s = .next ((s.ackTimeout l).withQueueOf s) :=
  ou (f := (State.ackTimeout · l)) hl rfl

theorem ackTimeout_due (hup : (s.guy l).up = true) (hretry : (s.guy l).retry ≠ []) (htime : (s.guy l).lastAckAt + 4000 ≤ s.time) :
    s.ackTimeout l = (s.mapGuy l fun g => { g with rewind := some 0, lastAckAt := s.time }).resend l :=
  if_neg (by simp [hup, hretry, htime])

theorem ackTimeout_not_due (h : (s.guy l).up = false ∨ (s.guy l).retry = [] ∨ s.time < (s.guy l).lastAckAt + 4000) :
    s.ackTimeout l = s :=
  if_pos (by rcases h with h | h | h <;> simp [h])

/-- ACK_IDLE_TIMER's effect: an ACK owed for 1 µs without a frame to carry it. -/
def State.ackIdle (s : State) (l : Nat) : State :=
  if (s.guy l).owesAck && decide ((s.guy l).lastTxAt + 1000 ≤ s.time) then s.mapGuy l fun g => g.sendLink s.time false none else s

theorem exec_ackIdleTimer (hl : linkOk l) : exec (.ackIdleTimer l) s = .next ((s.ackIdle l).withQueueOf s) :=
  ou (f := (State.ackIdle · l)) hl rfl

theorem ackIdle_due (howes : (s.guy l).owesAck = true) (htime : (s.guy l).lastTxAt + 1000 ≤ s.time) :
    s.ackIdle l = s.mapGuy l fun g => g.sendLink s.time false none :=
  if_pos (by simp [howes, htime])

theorem ackIdle_not_due (h : (s.guy l).owesAck = false ∨ s.time < (s.guy l).lastTxAt + 1000) : s.ackIdle l = s :=
  if_neg (by rcases h with h | h <;> simp [h])

/-! ### Training (R398 to R401) -/

/-- HELLO's effect: one that is well-formed is taken by a link in training. -/
def State.hello (s : State) (l : Nat) (f : Frame) : State :=
  if s.power.state = .standby ∨ (s.guy l).training = .none ∨ fType f ≠ 4 ∨ fNb f ≠ 1 ∨ leadOf f % 256 ≠ 3 ∨ !crcOk f ∨ !headerOk f then s
  else s.takeHello l (leadOf f)

theorem exec_hello (hl : linkOk l) : exec (.hello l f) s = .next ((s.hello l f).withQueueOf s) :=
  ou (f := (State.hello · l f)) hl rfl

theorem hello_taken (hpower : s.power.state ≠ .standby) (htrain : (s.guy l).training ≠ .none) (htype : fType f = 4) (hnb : fNb f = 1)
    (hkind : leadOf f % 256 = 3) (hcrc : crcOk f = true) (hhead : headerOk f = true) : s.hello l f = s.takeHello l (leadOf f) :=
  if_neg (by simp [hpower, htrain, htype, hnb, hkind, hcrc, hhead])

theorem hello_passed_over (h : s.power.state = .standby ∨ (s.guy l).training = .none ∨ fType f ≠ 4 ∨ fNb f ≠ 1 ∨ leadOf f % 256 ≠ 3 ∨
    crcOk f = false ∨ headerOk f = false) : s.hello l f = s :=
  if_pos (by simpa using h)

/-! ### Lanes (R399) -/

/-- What a lane error reports: the link, the lanes and the partner. -/
def State.laneEv (s : State) (l : Nat) (mask : Byte) (code : Nat) : Ev :=
  { code := code, cls := .degraded, kind := 5, loc := guyLoc l, arg0 := l + mask.toNat * 2 ^ 8, arg1 := (s.guy l).partner }

theorem exec_laneErrorRate (hl : linkOk l) : exec (.laneErrorRate l mask) s = .next ((s.laneErrors l mask).withQueueOf s) :=
  ou (f := (State.laneErrors · l mask)) hl rfl

theorem laneErrors_low (hlink : (s.guy l).width ≠ 0 ∨ (s.guy l).training ≠ .none) (hlow : mask.toNat % 16 ≠ 0) :
    s.laneErrors l mask =
      ((s.mapGuy l fun g => { g with width := 0, training := .none }).failRequests l).raise (s.laneEv l mask 0x0703) := by
  have hmask : mask ≠ 0#8 := fun h => hlow (by rw [h]; rfl)
  refine (if_neg ?_).trans (if_pos hlow)
  rintro (⟨hwidth, htrain⟩ | h | ⟨-, h⟩)
  · exact hlink.elim (· hwidth) (· htrain)
  · exact hmask h
  · exact hlow h

theorem laneErrors_high (hlink : (s.guy l).width ≠ 0 ∨ (s.guy l).training ≠ .none) (hmask : mask ≠ 0) (hlow : mask.toNat % 16 = 0)
    (hwide : (s.guy l).width ≠ 4) :
    s.laneErrors l mask = (s.mapGuy l fun g => { (g.count 8 1).fast with width := 4 }).raise (s.laneEv l mask 0x0702) := by
  refine (if_neg ?_).trans (if_neg (not_not.mpr hlow))
  rintro (⟨hwidth, htrain⟩ | h | ⟨h, -⟩)
  · exact hlink.elim (· hwidth) (· htrain)
  · exact hmask h
  · exact hwide h

/-- Settles O47: each timer and each lane report by its guard; a HELLO by the link's training and the frame's form. -/
theorem guyTraining : Obligations.GuyTraining := by
  intro s l hl g
  refine ⟨fun hup hretry htime => next_of_effect (exec_guyAckTimeout hl) (ackTimeout_due hup hretry htime),
    fun h => same_of_effect (exec_guyAckTimeout hl) (ackTimeout_not_due h),
    fun howes htime => next_of_effect (exec_ackIdleTimer hl) (ackIdle_due howes htime),
    fun h => same_of_effect (exec_ackIdleTimer hl) (ackIdle_not_due h), ?_, ?_, fun hup => ou hl (if_pos hup),
    fun hup => ou_same hl (if_neg (Bool.eq_false_iff.mp hup))⟩
  · intro f b
    refine ⟨fun hpower htrain htype hnb hkind hcrc hhead => ?_, fun h => same_of_effect (exec_hello hl) (hello_passed_over h)⟩
    exact next_of_effect (exec_hello hl) (hello_taken hpower htrain htype hnb hkind hcrc hhead)
  · intro mask ev
    refine ⟨fun hlink hlow => ?_, fun hlink hmask hlow hwide => ?_, fun h => ?_⟩
    · exact next_of_effect (exec_laneErrorRate hl) (laneErrors_low hlink hlow)
    · exact next_of_effect (exec_laneErrorRate hl) (laneErrors_high hlink hmask hlow hwide)
    · exact same_of_effect (exec_laneErrorRate hl) (if_pos h)

end Sys2Proof.Machine
end

section
/-! SUPPORT and SETTLED. Droops, sense samples and bond checks of a panel (R406, R408 to R411, R413). That each reading counts by itself is
notes/assumptions/85, that a mean error above the setpoint trims down is notes/assumptions/86, that a bond point is reported once until it
comes back is notes/assumptions/87. -/

namespace Sys2Proof.Machine

variable {s : State} {p d point depth excess us vmin : Nat} {err : Int}

/-- A panel's domain. -/
def State.domain (s : State) (p d : Nat) : DomainState := (s.panel p).dom.toList.getD d {}

def State.setDomain (s : State) (p d : Nat) (x : DomainState) : State :=
  s.setPanel p { s.panel p with dom := (s.panel p).dom.setIfInBounds d x }

/-! ### Droops (R409, R410) -/

/-- DROOP_TRIP's effect. -/
def State.droop (s : State) (p point depth : Nat) : State :=
  let x := s.panel p
  if !(x.dom.get VLOG).on ∨ depth < 300 ∨ 8 ≤ point then s
  else
    (s.setPanel p { x with
      clock := min x.clock (max 19 (x.clock * 3 / 4)), droopTrips := x.droopTrips + 1, riseAt := some (s.time + 1000) }).cause p 0

theorem exec_droopTrip (hp : panelOk p) : exec (.droopTrip p point depth) s = .next ((s.droop p point depth).withQueueOf s) :=
  ou (f := (State.droop · p point depth)) hp rfl

theorem droop_trips (hon : ((s.panel p).dom.get VLOG).on = true) (hdepth : 300 ≤ depth) (hpoint : point < 8) :
    s.droop p point depth = (s.setPanel p { s.panel p with
      clock := min (s.panel p).clock (max 19 ((s.panel p).clock * 3 / 4)), droopTrips := (s.panel p).droopTrips + 1
      riseAt := some (s.time + 1000) }).cause p 0 :=
  if_neg (by simp [hon, hdepth, hpoint])

theorem droop_none (h : ((s.panel p).dom.get VLOG).on = false ∨ depth < 300 ∨ 8 ≤ point) : s.droop p point depth = s :=
  if_pos (h.imp_left (congrArg not))

/-- DROOP_RECOVERY's effect. -/
def State.droopRises (s : State) (p : Nat) : State :=
  let x := s.panel p
  match x.riseAt with
  | none => s
  | some t =>
    if s.time < t then s
    else
      let c := min x.cap (x.clock + 1)
      (s.setPanel p { x with clock := c, riseAt := if c < x.cap then some (s.time + 100) else none }).markStretch p

theorem exec_droopRecovery (hp : panelOk p) : exec (.droopRecovery p) s = .next ((s.droopRises p).withQueueOf s) :=
  ou (f := (State.droopRises · p)) hp rfl

theorem droopRises_due {t : Nat} (hrise : (s.panel p).riseAt = some t) (htime : t ≤ s.time) :
    s.droopRises p =
      let c := min (s.panel p).cap ((s.panel p).clock + 1)
      (s.setPanel p { s.panel p with
        clock := c, riseAt := if c < (s.panel p).cap then some (s.time + 100) else none }).markStretch p := by
  rw [State.droopRises, hrise]
  exact if_neg (Nat.not_lt.mpr htime)

theorem droopRises_not_due (h : ∀ t, (s.panel p).riseAt = some t → s.time < t) : s.droopRises p = s := by
  rw [State.droopRises]
  split
  · rfl
  · next t hrise => exact if_pos (h t hrise)

/-! ### Sense samples (R406, R408, R411) -/

/-- Is a reading the lowest of its domain yet? -/
def DomainState.lowest (dm : DomainState) (vmin : Nat) : Bool := match dm.vmin with
  | none => true
  | some (v, _, _) => decide (vmin < v)

/-- A domain with its lowest reading kept. -/
def DomainState.sensed (dm : DomainState) (vmin now point : Nat) : DomainState :=
  if dm.lowest vmin then { dm with vmin := some (vmin, now, point), vminSeq := nextSeqOf dm.vminSeq } else dm

theorem sensed_setpoint (dm : DomainState) (vmin now point : Nat) : (dm.sensed vmin now point).setpoint = dm.setpoint := by
  unfold DomainState.sensed
  split <;> rfl

theorem sensed_errSince (dm : DomainState) (vmin now point : Nat) : (dm.sensed vmin now point).errSince = dm.errSince := by
  unfold DomainState.sensed
  split <;> rfl

/-- Since when a mean error on one side of the setpoint has lasted: as noted before, or as of now. -/
def errFrom (high : Bool) (now : Nat) : Option (Bool × Nat) → Nat
  | some (h, t) => if h = high then t else now
  | none => now

theorem errFrom_noted (high : Bool) (now t : Nat) : errFrom high now (some (high, t)) = t := if_pos rfl

theorem errFrom_new {high : Bool} {now : Nat} {e : Option (Bool × Nat)} (h : ∀ t, e ≠ some (high, t)) : errFrom high now e = now := by
  match e with
  | none => rfl
  | some (h', t) => exact if_neg fun hh => h t (by rw [hh])

/-- The error as a sample beyond 4 mV notes it. -/
def errNoted (high : Bool) (now : Nat) (e : Option (Bool × Nat)) : Option (Bool × Nat) := match e with
  | some (h, t) => if h = high then some (h, t) else some (high, now)
  | none => some (high, now)

theorem errNoted_eq (high : Bool) (now : Nat) (e : Option (Bool × Nat)) : errNoted high now e = some (high, errFrom high now e) := by
  match e with
  | none => rfl
  | some (h, t) =>
    by_cases hh : h = high
    · rw [hh, errFrom_noted]
      exact if_pos rfl
    · rw [errFrom_new (by simpa using hh)]
      exact if_neg hh

/-- What a sample ends with: its error noted, and a trim once the error has lasted 100 µs. -/
def State.senseEnd (s : State) (p d : Nat) (err : Int) (dm : DomainState) (since : Option (Bool × Nat)) : State :=
  let high := decide (40 < err)
  let due := match since with
    | some (_, t) => decide (t + 100000 ≤ s.time)
    | none => false
  let u := s.setDomain p d { dm with errSince := if due then some (high, s.time) else since }
  if due then (u.trim p d (if high then dm.setpoint - 1 else dm.setpoint + 1)).1 else u

theorem senseEnd_lasted {dm : DomainState} {high : Bool} {t : Nat} (h : t + 100000 ≤ s.time) :
    s.senseEnd p d err dm (some (high, t)) = ((s.setDomain p d { dm with errSince := some (decide (40 < err), s.time) }).trim p d
      (if 40 < err then dm.setpoint - 1 else dm.setpoint + 1)).1 := by
  simp only [State.senseEnd, h, decide_true, if_true, decide_eq_true_eq]

theorem senseEnd_lasting {dm : DomainState} {high : Bool} {t : Nat} (h : s.time < t + 100000) :
    s.senseEnd p d err dm (some (high, t)) = s.setDomain p d { dm with errSince := some (high, t) } := by
  simp only [State.senseEnd, Nat.not_le.mpr h, decide_false, if_neg Bool.false_ne_true]

theorem exec_senseSample (hp : panelOk p) (hd : domOk d) :
    exec (.senseSample p d err vmin point) s = .next ((s.senseSample p d err vmin point).withQueueOf s) :=
  ou (f := (State.senseSample · p d err vmin point)) ⟨hp, hd⟩ rfl

theorem senseSample_off (hoff : (s.domain p d).on = false) : s.senseSample p d err vmin point = s := if_pos (congrArg not hoff)

theorem senseSample_within (hon : (s.domain p d).on = true) (hlow : -40 ≤ err) (hhigh : err ≤ 40) :
    s.senseSample p d err vmin point = s.setDomain p d { (s.domain p d).sensed vmin s.time point with errSince := none } := by
  have hright : (decide (40 < err) || decide (err < -40)) = false := by simp [hlow, hhigh]
  refine (if_neg (not_bnot_of_eq_true hon)).trans ?_
  rw [hright]
  rfl

theorem senseSample_beyond (hon : (s.domain p d).on = true) (herr : err < -40 ∨ 40 < err) :
    s.senseSample p d err vmin point = s.senseEnd p d err ((s.domain p d).sensed vmin s.time point)
      (some (decide (40 < err), errFrom (decide (40 < err)) s.time (s.domain p d).errSince)) := by
  have hwrong : (decide (40 < err) || decide (err < -40)) = true := by rcases herr with h | h <;> simp [h]
  refine (if_neg (not_bnot_of_eq_true hon)).trans ?_
  rw [hwrong]
  change s.senseEnd p d err ((s.domain p d).sensed vmin s.time point)
    (errNoted (decide (40 < err)) s.time ((s.domain p d).sensed vmin s.time point).errSince) = _
  rw [errNoted_eq, sensed_errSince]

/-! ### Bond points (R412, R413) -/

theorem exec_bondCheck (hp : panelOk p) (hd : domOk d) :
    exec (.bondCheck p d point excess us) s = .next ((s.bondCheck p d point excess us).withQueueOf s) :=
  ou (f := (State.bondCheck · p d point excess us)) ⟨hp, hd⟩ rfl

theorem bondCheck_reports (hon : (s.domain p d).on = true) (hrise : (s.panel p).riseAt = none) (hover : 150 < excess) (hus : 10000 ≤ us)
    (hnew : point ∉ (s.domain p d).bond) :
    s.bondCheck p d point excess us =
      (s.setDomain p d { s.domain p d with bond := (s.domain p d).bond ++ [point] }).raise
        { code := 0x0805, cls := .degraded, kind := 7, loc := panelIndexLoc p point, arg0 := d + point * 2 ^ 8, arg1 := excess } := by
  have hchecked : ¬((!(s.domain p d).on) = true ∨ (s.panel p).riseAt.isSome = true) := by simp [hon, hrise]
  have hsilent : ¬(excess = 150 ∨ us < 10000 ∨ (s.domain p d).bond.contains point = true) := by simp [hover.ne', hus, hnew]
  exact (if_neg hchecked).trans ((if_neg (Nat.not_lt.mpr hover.le)).trans (if_neg hsilent))

theorem bondCheck_unchecked (h : (s.domain p d).on = false ∨ (s.panel p).riseAt ≠ none) : s.bondCheck p d point excess us = s :=
  if_pos (h.imp (congrArg not) Option.isSome_iff_ne_none.mpr)

theorem bondCheck_silent (hover : 150 ≤ excess) (h : excess = 150 ∨ us < 10000 ∨ point ∈ (s.domain p d).bond) :
    s.bondCheck p d point excess us = s := by
  have hsilent : excess = 150 ∨ us < 10000 ∨ (s.domain p d).bond.contains point = true := by simpa using h
  exact ite_eq_left_iff.mpr fun _ => (if_neg (Nat.not_lt.mpr hover)).trans (if_pos hsilent)

/-- Settles O48: a droop and its recovery by the panel's clock; a sample by the side and the age of its error; a bond point by its guard. -/
theorem panelSensors : Obligations.PanelSensors := by
  intro s p hp x
  refine ⟨?_, fun t hrise htime => next_of_effect (exec_droopRecovery hp) (droopRises_due hrise htime),
    fun h => same_of_effect (exec_droopRecovery hp) (droopRises_not_due h), ?_, ?_⟩
  · intro point depth
    exact ⟨fun hon hdepth hpoint => next_of_effect (exec_droopTrip hp) (droop_trips hon hdepth hpoint),
      fun h => same_of_effect (exec_droopTrip hp) (droop_none h)⟩
  · intro d err vmin point hd dm low kept put
    have hkept : kept = (s.domain p d).sensed vmin s.time point := rfl
    have hset : kept.setpoint = dm.setpoint := sensed_setpoint ..
    refine ⟨fun hoff => same_of_effect (exec_senseSample hp hd) (senseSample_off hoff),
      fun hon hlow hhigh => next_of_effect (exec_senseSample hp hd) (senseSample_within hon hlow hhigh), fun hon herr h hh => ?_⟩
    have hbeyond := next_of_effect (exec_senseSample hp hd) (senseSample_beyond (vmin := vmin) (point := point) hon herr)
    rw [← hkept, ← hh] at hbeyond
    refine ⟨fun hnew => ?_, fun t hsince htime => ?_, fun t hsince htime => ?_⟩
    · rw [errFrom_new (e := (s.domain p d).errSince) hnew] at hbeyond
      exact next_of_effect hbeyond (senseEnd_lasting (by omega))
    · rw [show (s.domain p d).errSince = _ from hsince, errFrom_noted] at hbeyond
      exact next_of_effect hbeyond (senseEnd_lasting htime)
    · rw [show (s.domain p d).errSince = _ from hsince, errFrom_noted] at hbeyond
      rw [hh, ← hset]
      exact next_of_effect hbeyond (senseEnd_lasted htime)
  · intro d point excess us hd dm
    refine ⟨fun hon hrise hover hus hnew => next_of_effect (exec_bondCheck hp hd) (bondCheck_reports hon hrise hover hus hnew), ?_⟩
    rintro (hoff | hrise | ⟨hover, h⟩)
    · exact same_of_effect (exec_bondCheck hp hd) (bondCheck_unchecked (.inl hoff))
    · exact same_of_effect (exec_bondCheck hp hd) (bondCheck_unchecked (.inr hrise))
    · exact same_of_effect (exec_bondCheck hp hd) (bondCheck_silent hover h)

end Sys2Proof.Machine
end

section
/-! SUPPORT and SETTLED. The supply ladder: regulator cells, converters, lugs, sectors and panels switched on (R414 to R417, R427, R428,
R543). That REG_CELL_FAILED is reported for fewer than three cells of a domain other than VLOG is notes/assumptions/88, that the cap of five
to eight failed VLOG cells is the implementation's is notes/assumptions/46. -/

namespace Sys2Proof.Machine

variable {s : State} {p d cell conv pair share amps ms sector us : Nat}

/-! ### Regulator cells (R414, R416) -/

/-- The state with a domain's cell failed. -/
def State.cellFailed (s : State) (p d cell : Nat) : State :=
  let x := s.panel p
  let dm := x.dom.toList.getD d {}
  s.setPanel p { x with dom := x.dom.setIfInBounds d { dm with failed := dm.failed ++ [cell] } }

/-- Is a panel in a soft start? -/
def State.softStart (s : State) (p : Nat) : Bool := s.power.pending.any (·.1 == p)

theorem exec_regCellIsolation (hp : panelOk p) (hd : domOk d) :
    exec (.regCellIsolation p d cell) s = .next ((s.cellFails p d cell).withQueueOf s) :=
  ou (f := (State.cellFails · p d cell)) ⟨hp, hd⟩ rfl

section
variable {dm : DomainState} (hdm : (s.panel p).dom.toList.getD d {} = dm)
include hdm

theorem cellFails_new (hcell : cell < cellsOf d) (hnew : cell ∉ dm.failed) (hfed : dm.on = true ∨ s.softStart p = true) :
    s.cellFails p d cell = if s.softStart p then (s.cellFailed p d cell).mapPanel p fun x => { x with
      softCells := x.softCells ++ [(d, cell)] } else (s.cellFailed p d cell).ladder p d cell := by
  subst hdm
  refine if_neg ?_
  rintro (h | h | h)
  · exact absurd hcell (Nat.not_lt.mpr h)
  · exact hnew (List.contains_iff_mem.mp h)
  · obtain ⟨hoff, hhard⟩ := Bool.and_eq_true_iff.mp h
    exact hfed.elim (not_bnot_of_eq_true · hoff) (not_bnot_of_eq_true · hhard)

theorem cellFails_none (h : cellsOf d ≤ cell ∨ cell ∈ dm.failed ∨ (dm.on = false ∧ s.softStart p = false)) :
    s.cellFails p d cell = s := by
  subst hdm
  refine if_pos (h.imp_right (.imp List.contains_iff_mem.mpr ?_))
  rintro ⟨hoff, hhard⟩
  exact Bool.and_eq_true_iff.mpr ⟨congrArg not hoff, congrArg not hhard⟩

end

/-! ### The ladder's steps (R416, R417) -/

section
variable (hlit : (s.panel p).wentDark = false) (hsome : 0 < (s.panel p).failedIn d)
include hlit hsome

theorem ladder_applies : ¬((s.panel p).wentDark || (s.panel p).failedIn d == 0) = true := by simp [hlit, hsome.ne']

theorem ladder_dark (hmany : (d = 0 ∧ 8 < (s.panel p).failedIn d) ∨ (d ≠ 0 ∧ 3 ≤ (s.panel p).failedIn d)) :
    s.ladder p d cell = s.goDark p d :=
  (if_neg (ladder_applies hlit hsome)).trans (if_pos hmany)

theorem ladder_capped (hd : d = 0) (hlow : 5 ≤ (s.panel p).failedIn d) (hhigh : (s.panel p).failedIn d ≤ 8) :
    s.ladder p d cell =
      let n := (s.panel p).failedIn d
      let cap := min 75 (max 19 (Config.regCap p n))
      ((s.mapPanel p fun x => { x with capReg := cap, pstate := .capped, ballast := 0 }).applyClock p).raise
        { code := 0x0802, cls := .degraded, kind := 7, loc := panelLoc p, count := n, arg0 := cap } :=
  (if_neg (ladder_applies hlit hsome)).trans ((if_neg (by omega)).trans (if_pos ⟨hd, hlow⟩))

theorem ladder_reported (hfew : (d = 0 ∧ (s.panel p).failedIn d < 5) ∨ (d ≠ 0 ∧ (s.panel p).failedIn d < 3)) :
    s.ladder p d cell = s.raise { code := 0x0801, cls := .corrected, kind := 7, loc := panelIndexLoc p cell
                                  count := (s.panel p).failedIn d, arg0 := d + cell * 2 ^ 8 } :=
  (if_neg (ladder_applies hlit hsome)).trans ((if_neg (by omega)).trans (if_neg (by omega)))

end

/-! ### Converters, lugs and sectors (R415, R416, R428, R543) -/

/-- CONVERTER_FAILURE's effect. -/
def State.converterFails (s : State) (conv : Nat) : State :=
  if s.power.convFailed.contains conv ∨ s.power.state = .standby then s
  else
    let t : State := { s with power := { s.power with convFailed := s.power.convFailed ++ [conv] } }
    let n := (s.power.convFailed ++ [conv]).length
    t.raise { code := 0x0804, cls := if n ≤ 2 then .corrected else .degraded, kind := 8, loc := moduleLoc, count := n, arg0 := conv }

theorem exec_converterFailure (hconv : convOk conv) :
    exec (.converterFailure conv) s = .next ((s.converterFails conv).withQueueOf s) :=
  ou (f := (State.converterFails · conv)) hconv rfl

theorem converterFails_new {n : Nat} (hn : n = s.power.convFailed.length + 1) (hnew : conv ∉ s.power.convFailed)
    (hpower : s.power.state ≠ .standby) :
    s.converterFails conv = ({ s with power := { s.power with convFailed := s.power.convFailed ++ [conv] } } : State).raise
      { code := 0x0804, cls := if n ≤ 2 then .corrected else .degraded, kind := 8, loc := moduleLoc, count := n, arg0 := conv } := by
  have hlength : n = (s.power.convFailed ++ [conv]).length := by simpa using hn
  subst hlength
  exact if_neg (by simp [hnew, hpower])

theorem converterFails_none (h : conv ∈ s.power.convFailed ∨ s.power.state = .standby) : s.converterFails conv = s :=
  if_pos (h.imp_left List.contains_iff_mem.mpr)

/-- LUG_IMBALANCE_CHECK's effect. -/
def State.lugCheck (s : State) (pair share amps ms : Nat) : State :=
  if share ≤ 60 ∨ amps ≤ 100 ∨ ms < 1000 then s
  else s.raiseEvery hourNs (0x080C, 0) { code := 0x080C, cls := .degraded, loc := moduleLoc, arg0 := pair, arg1 := share }

theorem exec_lugImbalanceCheck (hpair : lugOk pair) :
    exec (.lugImbalanceCheck pair share amps ms) s = .next ((s.lugCheck pair share amps ms).withQueueOf s) :=
  ou (f := (State.lugCheck · pair share amps ms)) hpair rfl

/-- SECTOR_LIMIT_CHECK's effect. -/
def State.sectorCheck (s : State) (sector amps us : Nat) : State :=
  if amps ≤ 800 ∨ us < 100 then s
  else
    ({ s with power := { s.power with
      sectorCap := if sector ∈ s.power.sectorCap then s.power.sectorCap else s.power.sectorCap ++ [sector] } } : State).raiseEvery
      secNs (0x0807, sector) { code := 0x0807, cls := .note, loc := moduleLoc, arg0 := sector, arg1 := amps }

theorem exec_sectorLimitCheck (hsector : sectorOk sector) :
    exec (.sectorLimitCheck sector amps us) s = .next ((s.sectorCheck sector amps us).withQueueOf s) :=
  ou (f := (State.sectorCheck · sector amps us)) hsector rfl

/-! ### A panel becomes ready (R52, R416, R427) -/

/-- A panel whose soft start has ended: on, its seams realigned, its cells' steps taken, its clock at its cap. -/
def State.becomesReady (s : State) (p : Nat) (set : SwitchSet) : State :=
  let t := ({ s with power := { s.power with pending := s.power.pending.filter fun x => x ≠ (p, set) } } : State).mapPanel p fun x => x.switchOn p set
  let u := if t.tick.running then t.seamAlign p else t
  let v := (u.panel p).softCells.foldl (fun (s : State) c => s.ladder p c.1 c.2) (u.mapPanel p fun x => { x with softCells := [] })
  (v.applyClock p).settleSwitch

theorem exec_panelReady (hp : panelOk p) : exec (.panelReady p) s = .next ((s.panelReady p).withQueueOf s) :=
  ou (f := (State.panelReady · p)) hp rfl

theorem panelReady_none (h : s.power.pending.find? (fun x => x.1 == p) = none) : s.panelReady p = s := by
  rw [State.panelReady, h]

theorem panelReady_pending {q : Nat} {set : SwitchSet} (h : s.power.pending.find? (fun x => x.1 == p) = some (q, set)) :
    s.panelReady p = s.becomesReady p set := by
  rw [State.panelReady, h]
  rfl

/-- Settles O49: each report of the supply by its guard, the ladder's step by the count of failed cells. -/
theorem supplyLadder : Obligations.SupplyLadder := by
  intro s
  refine ⟨?_, ?_, ?_, ?_, ?_, ?_⟩
  · intro p d cell hp hd x dm soft t
    refine ⟨fun hcell hnew => ⟨fun hsoft => ?_, fun hhard hon => ?_⟩, fun h => ?_⟩
    · exact next_of_effect (exec_regCellIsolation hp hd) ((cellFails_new rfl hcell hnew (.inr hsoft)).trans (if_pos hsoft))
    · exact next_of_effect (exec_regCellIsolation hp hd)
        ((cellFails_new rfl hcell hnew (.inl hon)).trans (if_neg (Bool.eq_false_iff.mp hhard)))
    · exact same_of_effect (exec_regCellIsolation hp hd) (cellFails_none rfl h)
  · intro p d cell n hlit hsome
    exact ⟨ladder_dark hlit hsome, ladder_capped hlit hsome, ladder_reported hlit hsome⟩
  · intro conv hconv t n
    exact ⟨fun hnew hpower => next_of_effect (exec_converterFailure hconv) (converterFails_new rfl hnew hpower),
      fun h => same_of_effect (exec_converterFailure hconv) (converterFails_none h)⟩
  · intro pair share amps ms hpair
    exact ⟨fun hshare hamps hms => next_of_effect (exec_lugImbalanceCheck hpair) (if_neg (by omega)),
      fun h => same_of_effect (exec_lugImbalanceCheck hpair) (if_pos h)⟩
  · intro sector amps us hsector
    exact ⟨fun hamps hus => next_of_effect (exec_sectorLimitCheck hsector) (if_neg (by omega)),
      fun h => same_of_effect (exec_sectorLimitCheck hsector) (if_pos h)⟩
  · intro p hp
    exact ⟨fun hnone => same_of_effect (exec_panelReady hp) (panelReady_none hnone),
      fun q set hfind => next_of_effect (exec_panelReady hp) (panelReady_pending hfind)⟩

end Sys2Proof.Machine
end

section
/-! SUPPORT and SETTLED. The governor: the point E and its bounds, and what a sample does in each state (R419 to R423, R426, R432, R520).
That the headroom of the up rate adds up while a switch-on waits is notes/assumptions/47, that a sector over its limit loses a step at
each sample is notes/assumptions/48. -/

namespace Sys2Proof.Machine

variable {s : State} {g : GovSample}

/-! ### E (R419, R422) -/

section
variable (s) (cap demand vin : Nat)

/-- The most that E may be after a sample, in mW: the cap, or what the up rate allows. -/
def State.eHigh : Nat := min (cap * 1000) (s.power.e + s.power.up)

/-- The least that E may be, in mW: the floor, or what the down rate leaves, but never above `eHigh`: the cap binds at once. -/
def State.eLow : Nat := min (max (min (s.powerFloor * 1000) (cap * 1000)) (s.power.e - s.power.dn)) (s.eHigh cap)

theorem nextE_fst : (s.nextE cap demand vin).1 = max (s.eLow cap) (min (demand * 1000) (s.eHigh cap)) := rfl

theorem eLow_le_eHigh : s.eLow cap ≤ s.eHigh cap := Nat.min_le_right ..

theorem nextE_le_eHigh : (s.nextE cap demand vin).1 ≤ s.eHigh cap := by
  rw [nextE_fst]
  exact Nat.max_le.mpr ⟨eLow_le_eHigh s cap, Nat.min_le_right ..⟩

theorem nextE_le_cap : (s.nextE cap demand vin).1 ≤ cap * 1000 := (nextE_le_eHigh ..).trans (Nat.min_le_left ..)

theorem nextE_le_up : (s.nextE cap demand vin).1 ≤ s.power.e + s.power.up := (nextE_le_eHigh ..).trans (Nat.min_le_right ..)

end

/-- E falls faster than the down rate only to the cap. -/
theorem nextE_falls {cap demand vin : Nat} (h : (s.nextE cap demand vin).1 + s.power.dn < s.power.e) :
    (s.nextE cap demand vin).1 = cap * 1000 := by
  have hlow : s.eLow cap ≤ (s.nextE cap demand vin).1 := Nat.le_max_left ..
  have hcap := nextE_le_cap s cap demand vin
  unfold State.eLow State.eHigh at hlow
  omega

section
variable {cap demand : Nat} (hfall : s.power.e ≤ demand * 1000 + s.power.dn) (hrise : demand * 1000 ≤ s.power.e + s.power.up)
  (hcap : demand ≤ cap) (hfloor : s.powerFloor ≤ demand)

include hfall hfloor in
theorem eLow_le_demand : s.eLow cap ≤ demand * 1000 := by
  unfold State.eLow
  omega

include hrise hcap

theorem demand_le_eHigh : demand * 1000 ≤ s.eHigh cap := Nat.le_min.mpr ⟨Nat.mul_le_mul_right _ hcap, hrise⟩

include hfall hfloor

/-- A demand that no limit binds is followed. -/
theorem nextE_follows (vin : Nat) : (s.nextE cap demand vin).1 = demand * 1000 ∧ (s.nextE cap demand vin).2 = 0 := by
  have hhigh := demand_le_eHigh hrise hcap
  have hlow := eLow_le_demand (cap := cap) hfall hfloor
  refine ⟨?_, (if_neg (Nat.not_lt.mpr hhigh)).trans (if_neg (Nat.not_lt.mpr hlow))⟩
  rw [nextE_fst, Nat.min_eq_left hhigh, Nat.max_eq_right hlow]

end

/-! ### A sample in each state of the module (R419 to R423, R426, R520) -/

theorem exec_governorSample : exec (.governorSample g) s = .next ((s.governorSample g).withQueueOf s) :=
  ou (f := (State.governorSample · g)) trivial rfl

/-- The state with a sample's readings and the cap taken. -/
def State.measured (s : State) (g : GovSample) : State :=
  { s with power := { s.power with pin := g.pin, vin := g.vin, iin := g.iin, sectors := g.sectors, cap := s.powerCap g.vin } }

theorem governorSample_off (hoff : s.powered = false) : s.governorSample g = s := if_pos (congrArg not hoff)

theorem governorSample_standby (hon : s.powered = true) (hpower : s.power.state = .standby) : s.governorSample g = s.measured g :=
  (if_neg (not_bnot_of_eq_true hon)).trans (if_pos hpower)

theorem governorSample_frozen (hon : s.powered = true) (hpower : s.power.state ≠ .standby)
    (hfrozen : s.freeze.state = .frozen ∨ s.freeze.state = .dead) :
    s.governorSample g = { s.measured g with power := { (s.measured g).power with
      e := min (s.powerCap g.vin * 1000) (g.pin * 1000), ballast := 0 } } :=
  (if_neg (not_bnot_of_eq_true hon)).trans ((if_neg hpower).trans
    (if_pos (Bool.or_eq_true_iff.mpr (hfrozen.imp beq_iff_eq.mpr beq_iff_eq.mpr))))

/-- What a sample within bounds does: E, then clocks, ballast, floor, sectors and what waits to switch. -/
def State.govern (t : State) (g : GovSample) (cap : Nat) : State :=
  let r := t.nextE cap g.demand g.vin
  let u : State := { t with power := { t.power with e := r.1, bind := r.2 } }
  let excess := max (g.demand - r.1 / 1000) (g.mean10ms - cap)
  let watts := if t.thermal.trip then 0 else r.1 / 1000 - g.demand
  let v := u.setGovCaps (if 0 < excess then shed excess (shedOrder g) else [])
  let w : State := { v with power := { v.power with ballast := watts } }
  let y := if w.calib.running.isSome then w else w.setBallast g watts
  (((((y.checkFloor g watts r.2).sectorCaps g).startWake).admitSwitch g cap).switchOff g.demand).settleSwitch

section
variable (hon : s.powered = true) (hpower : s.power.state ≠ .standby) (hfrozen : s.freeze.state ≠ .frozen) (hdead : s.freeze.state ≠ .dead)
include hon hpower hfrozen hdead

theorem governorSample_runs : s.governorSample g =
    if 31000 < g.pin ∨ 960 < g.iin then
      (s.measured g).setGovCaps (s.panels.map fun e => (e.1, max 19 (e.2.cap * 3 / 4)))
    else (s.measured g).govern g (s.powerCap g.vin) :=
  (if_neg (not_bnot_of_eq_true hon)).trans ((if_neg hpower).trans (if_neg (by simp [hfrozen, hdead])))

end

/-- Settles O50: the bounds of E by its two limits; a sample by the module's state and the input's bounds. -/
theorem governor : Obligations.Governor := by
  intro s g cap t e r
  refine ⟨⟨nextE_le_cap t cap g.demand g.vin, nextE_le_up t cap g.demand g.vin, nextE_falls, ?_⟩,
    fun hoff => same_of_effect exec_governorSample (governorSample_off hoff),
    fun hon hpower => next_of_effect exec_governorSample (governorSample_standby hon hpower),
    fun hon hpower hfrozen => next_of_effect exec_governorSample (governorSample_frozen hon hpower hfrozen),
    fun hon hpower hfrozen hdead => ?_⟩
  · exact fun hfall hrise hcap hfloor => nextE_follows (s := t) hfall hrise hcap hfloor g.vin
  · have hruns := next_of_effect exec_governorSample (governorSample_runs (g := g) hon hpower hfrozen hdead)
    exact ⟨fun hout => next_of_effect hruns (if_pos hout), fun hpin hiin => next_of_effect hruns (if_neg (by omega))⟩

end Sys2Proof.Machine
end

section
/-! SUPPORT and SETTLED. Starting, stopping and resetting the module, its input's bounds, and the power commands of PWR_CMD (R429 to R431,
R433 to R435, R517, R523, R553, R554). That the link is up at POWER_ON is notes/assumptions/5, what is left when the input is lost is
notes/assumptions/84, that ages are kept where module time starts over is notes/assumptions/115. -/

namespace Sys2Proof.Machine

variable {s : State} {p : Pitch} {vin us : Nat}

/-! ### The start slot (R429, R430, R517, R554) -/

/-- PWR_EN_ASSERT's effect: the wait for the slot begins once the controller has started. -/
def State.enable (s : State) : State :=
  if s.power.pwrEn then s
  else { s with power := { s.power with
    pwrEn := true, cycle := false, startAt := if s.mgmt.started then some (s.time + s.power.slot * 250 * 1000000) else none } }

theorem exec_pwrEnAssert : exec .pwrEnAssert s = .next (s.enable.withQueueOf s) := ou (f := State.enable) trivial rfl

/-- START_SLOT_OPEN's effect. -/
def State.slotOpens (s : State) (p : Pitch) : State :=
  match s.power.startAt with
  | some t => if s.powered && s.power.pwrEn && s.power.state == .standby && !s.resetLow && decide (t ≤ s.time) then s.beginPitch p else s
  | none => s

theorem exec_startSlotOpen : exec (.startSlotOpen p) s = .next ((s.slotOpens p).withQueueOf s) :=
  ou (f := (State.slotOpens · p)) trivial rfl

theorem slotOpens_due {t : Nat} (hstart : s.power.startAt = some t) (hon : s.powered = true) (hen : s.power.pwrEn = true)
    (hpower : s.power.state = .standby) (hreset : s.resetLow = false) (htime : t ≤ s.time) : s.slotOpens p = s.beginPitch p := by
  rw [State.slotOpens, hstart]
  exact if_pos (by simp [hon, hen, hpower, hreset, htime])

theorem slotOpens_not_due (h : ∀ t, s.power.startAt = some t → s.powered = false ∨ s.power.pwrEn = false ∨ s.power.state ≠ .standby ∨
    s.resetLow = true ∨ s.time < t) : s.slotOpens p = s := by
  rw [State.slotOpens]
  split
  · next t hstart =>
    refine if_neg ?_
    rcases h t hstart with h | h | h | h | h <;> simp [h]
  · rfl

/-! ### PWR_EN released (R431) -/

/-- The state in which PWR_EN is low and no start waits. -/
def State.enableLow (s : State) : State := { s with power := { s.power with pwrEn := false, startAt := none } }

/-- The state of a module that runs and stops at its next release. -/
def State.stops (s : State) : State := { s with power := { s.power with
  state := .stopping, queue := [], pending := [], waited := 0, pitch := none, resetPitch := none } }

/-- PWR_EN_DEASSERT's effect. -/
def State.disable (s : State) : State :=
  if s.power.state = .standby then s.enableLow
  else
    let u := s.enableLow.stops
    if u.tick.running && u.tickStuck then { u with tick := { u.tick with running := false, stoppedAt := some u.tick.n } } else u

theorem exec_pwrEnDeassert : exec .pwrEnDeassert s = .next (s.disable.withQueueOf s) :=
  ou (f := State.disable) trivial rfl

theorem disable_releases (hpower : s.power.state ≠ .standby)
    (hends : s.enableLow.stops.tick.running = false ∨ s.enableLow.stops.tickStuck = false) : s.disable = s.enableLow.stops :=
  (if_neg hpower).trans (if_neg (by rcases hends with h | h <;> simp [h]))

theorem disable_stuck (hpower : s.power.state ≠ .standby) (hrun : s.enableLow.stops.tick.running = true)
    (hstuck : s.enableLow.stops.tickStuck = true) :
    s.disable =
      let u := s.enableLow.stops
      { u with tick := { u.tick with running := false, stoppedAt := some u.tick.n } } :=
  (if_neg hpower).trans (if_pos (by rw [hrun, hstuck]; rfl))

/-! ### RESET_N (R9, R523, R553) -/

/-- The state with RESET_N released: module time starts at 0. -/
def State.resetReleased (s : State) : State := ({ s with resetLow := false, errors := { s.errors with nextSeq := 1 } } : State).zeroTime

theorem zeroTime_nextSeq (s : State) : s.zeroTime.errors.nextSeq = s.errors.nextSeq := by
  dsimp only [State.zeroTime]
  split <;> rfl

/-- RESET_N's effect once it goes up again. -/
def State.resetUp (s : State) (p : Pitch) : State :=
  if !s.resetLow then s
  else if !s.power.pwrEn || s.power.cycle then s.resetReleased
  else if s.power.state = .standby then s.resetReleased.beginPitch p
  else { s.resetReleased with power := { s.resetReleased.power with resetPitch := some (p, false) } }

theorem exec_resetN_up : exec (.resetN false p) s = .next ((s.resetUp p).withQueueOf s) :=
  ou (f := (State.resetUp · p)) trivial rfl

/-- RESET_N's effect as it goes down. -/
def State.resetDown (s : State) : State :=
  let low : State := { s with resetLow := true }
  if s.power.pwrEn then low.startReset none else low

theorem exec_resetN_down : exec (.resetN true p) s = .next (s.resetDown.withQueueOf s) :=
  ou (f := State.resetDown) trivial rfl

theorem resetUp_high (h : s.resetLow = false) : s.resetUp p = s := if_pos (congrArg not h)

section
variable (hlow : s.resetLow = true)
include hlow

theorem resetUp_disabled (h : s.power.pwrEn = false ∨ s.power.cycle = true) : s.resetUp p = s.resetReleased :=
  (if_neg (not_bnot_of_eq_true hlow)).trans (if_pos (by rcases h with h | h <;> simp [h]))

variable (hen : s.power.pwrEn = true) (hcycle : s.power.cycle = false)
include hen hcycle

omit hlow in
theorem not_disabled : ¬(!s.power.pwrEn || s.power.cycle) = true := by rw [hen, hcycle]; exact Bool.false_ne_true

theorem resetUp_standby (hpower : s.power.state = .standby) : s.resetUp p = s.resetReleased.beginPitch p :=
  (if_neg (not_bnot_of_eq_true hlow)).trans ((if_neg (not_disabled hen hcycle)).trans (if_pos hpower))

theorem resetUp_stopping (hpower : s.power.state ≠ .standby) :
    s.resetUp p = { s.resetReleased with power := { s.resetReleased.power with resetPitch := some (p, false) } } :=
  (if_neg (not_bnot_of_eq_true hlow)).trans ((if_neg (not_disabled hen hcycle)).trans (if_neg hpower))

end

/-! ### The input's bounds (R435) -/

/-- INPUT_UNDERVOLTAGE's effect: the record goes to flash before everything else is lost. -/
def State.undervoltage (s : State) (vin us : Nat) : State :=
  if !s.powered ∨ 3000 ≤ vin ∨ us < 1000 then s
  else (s.raise { code := 0x080A, cls := .fatal, loc := moduleLoc, arg0 := vin }).loseAll

/-- INPUT_OVERVOLTAGE's effect. -/
def State.overvoltage (s : State) (vin us : Nat) : State :=
  if !s.powered ∨ vin ≤ 4200 ∨ us < 100 then s
  else (s.raise { code := 0x080B, cls := .fatal, loc := moduleLoc, arg0 := vin }).loseAll

theorem exec_inputUndervoltage : exec (.inputUndervoltage vin us) s = .next ((s.undervoltage vin us).withQueueOf s) :=
  ou (f := (State.undervoltage · vin us)) trivial rfl

theorem exec_inputOvervoltage : exec (.inputOvervoltage vin us) s = .next ((s.overvoltage vin us).withQueueOf s) :=
  ou (f := (State.overvoltage · vin us)) trivial rfl

/-- Settles O51: each pin and command by its guard; what the resets keep is the fields' own. -/
theorem startAndReset : Obligations.StartAndReset := by
  intro s
  refine ⟨fun hlow => next_of_effect exec_pwrEnAssert (if_neg (Bool.eq_false_iff.mp hlow)),
    fun hhigh => same_of_effect exec_pwrEnAssert (if_pos hhigh), ?_, ?_, ?_, ?_, ?_, rfl, ⟨rfl, rfl, rfl, rfl⟩, rfl, rfl, rfl,
    fun hrun => if_pos hrun, fun hwake => ⟨if_pos hwake, if_pos hwake⟩⟩
  · intro p t hstart hon hen hpower hreset htime
    exact next_of_effect exec_startSlotOpen (slotOpens_due hstart hon hen hpower hreset htime)
  · exact fun p h => same_of_effect exec_startSlotOpen (slotOpens_not_due h)
  · exact ⟨fun hpower => next_of_effect exec_pwrEnDeassert (if_pos hpower),
      fun hpower hends => next_of_effect exec_pwrEnDeassert (disable_releases hpower hends),
      fun hpower hrun hstuck => next_of_effect exec_pwrEnDeassert (disable_stuck hpower hrun hstuck)⟩
  · intro p low t
    refine ⟨fun hen => next_of_effect exec_resetN_down (if_pos hen),
      fun hdis => next_of_effect exec_resetN_down (if_neg (Bool.eq_false_iff.mp hdis)),
      fun hhigh => same_of_effect exec_resetN_up (resetUp_high hhigh), fun hlow => ⟨rfl, zeroTime_nextSeq _, fun hdis => ?_,
        fun hen hcycle hpower => ?_, fun hen hcycle hpower => ?_⟩⟩
    · exact next_of_effect exec_resetN_up (resetUp_disabled hlow hdis)
    · exact next_of_effect exec_resetN_up (resetUp_standby hlow hen hcycle hpower)
    · exact next_of_effect exec_resetN_up (resetUp_stopping hlow hen hcycle hpower)
  · intro vin us
    refine ⟨fun hon hvin hus => ?_, fun h => ?_, fun hon hvin hus => ?_, fun h => ?_⟩
    · exact next_of_effect exec_inputUndervoltage (if_neg (by simp [hon, hvin, hus]))
    · exact same_of_effect exec_inputUndervoltage (if_pos (h.imp_left (congrArg not)))
    · exact next_of_effect exec_inputOvervoltage (if_neg (by simp [hon, hvin, hus]))
    · exact same_of_effect exec_inputOvervoltage (if_pos (h.imp_left (congrArg not)))

end Sys2Proof.Machine
end

section
/-! SUPPORT and SETTLED. Thermal samples: the readings kept, the shutdown at 115 °C, the ladder's steps, the thermal trip and its end
(R442 to R448). -/

namespace Sys2Proof.Machine

variable {s c : State} {t : ThermSample}

/-! ### What a sample looks at -/

/-- The state with a sample's readings kept: each panel's temperatures, the hottest forecast, and since when sensors are over a limit. -/
def State.warmed (s : State) (t : ThermSample) : State :=
  let a := t.sensors.foldl (fun (s : State) r => s.mapPanel r.1 fun x => { x with temps := putK x.temps r.2.1 r.2.2 }) s
  { a with
    thermal := { a.thermal with hot := min (t.forecasts.foldl (fun m f => max m (f.2 / 4).toNat) 0) 255 }
    panels := a.panels.map fun e => (e.1, { e.2 with
      overSince := aboveSince a.time e.2.overSince ((e.2.live.filter fun r => 460 < r.2).map (·.1))
      tripSince := aboveSince a.time e.2.tripSince ((e.2.live.filter fun r => 420 < r.2).map (·.1)) }) }

/-- The sensors that `since` says have been over a limit for `ns`. -/
def State.overFor (s : State) (since : PanelState → List (Nat × Nat)) (ns : Nat) : List (Nat × Nat) :=
  s.panels.flatMap fun e => ((since e.2).filter fun r => decide (r.2 + ns ≤ s.time)).map fun r => (e.1, r.1)

/-- The state in which the ladder's three steps have acted on the forecasts. -/
def State.laddered (b : State) (t : ThermSample) : State :=
  ((t.forecasts.foldl (fun (s : State) f => s.step2 f.1 f.2) (b.step1 t.forecasts t.power)).step3 t.forecasts).step3Idle

/-- Is every reading below 90 °C? -/
def State.cold (s : State) : Bool := s.panels.all fun e => e.2.live.all fun r => r.2 < 360

theorem cold_iff : s.cold = true ↔ ∀ e ∈ s.panels, ∀ r ∈ e.2.live, r.2 < 360 := by
  simp only [State.cold, List.all_eq_true, decide_eq_true_eq]

/-! ### What a sample does (R442, R447, R448) -/

theorem exec_thermalSample : exec (.thermalSample t) s = .next ((s.thermalSample t).withQueueOf s) :=
  ou (f := (State.thermalSample · t)) trivial rfl

/-- The thermal trip after the ladder: in one, how long all has been cold; else a sensor over 105 °C for 1 ms. -/
def State.tripStep (c : State) (watts : Nat) : State :=
  if c.thermal.trip then
    if !c.cold then { c with thermal := { c.thermal with tripClear := none } }
    else
      let since := c.thermal.tripClear.getD c.time
      if since + 100000000 ≤ c.time then c.endTrip else { c with thermal := { c.thermal with tripClear := some since } }
  else match c.overFor PanelState.tripSince 1000000 with
    | (p, i) :: _ => c.thermalTrip p i (getK (c.panel p).temps i 0) watts
    | [] => c

/-- What a sample does by the sensors that have been over 115 °C for 100 µs: the first is reported to flash before the rest is lost. -/
def State.sampleStep (b : State) (t : ThermSample) : List (Nat × Nat) → State
  | (p, i) :: _ =>
    (b.raise { code := 0x0908, cls := .fatal, kind := 9, loc := panelIndexLoc p i, arg0 := (getK (b.panel p).temps i 0).toNat }).loseAll
  | [] => (b.laddered t).tripStep t.power

theorem thermalSample_idle (h : s.powered = false ∨ s.power.state = .standby) : s.thermalSample t = s :=
  if_pos (by rcases h with h | h <;> simp [h])

section
variable (hon : s.powered = true) (hpower : s.power.state ≠ .standby)
include hon hpower

theorem samples_now : ¬(!s.powered || s.power.state == .standby) = true := by simp [hon, hpower]

theorem thermalSample_eq :
    s.thermalSample t = (s.warmed t).sampleStep t ((s.warmed t).overFor PanelState.overSince 100000) :=
  if_neg (samples_now hon hpower)

theorem thermalSample_burns {p i : Nat} {r : List (Nat × Nat)}
    (h : (s.warmed t).overFor PanelState.overSince 100000 = (p, i) :: r) :
    s.thermalSample t = ((s.warmed t).raise { code := 0x0908, cls := .fatal, kind := 9, loc := panelIndexLoc p i
                                              arg0 := (getK ((s.warmed t).panel p).temps i 0).toNat }).loseAll := by
  rw [thermalSample_eq hon hpower, h]
  rfl

theorem thermalSample_acts (h : (s.warmed t).overFor PanelState.overSince 100000 = []) :
    s.thermalSample t = ((s.warmed t).laddered t).tripStep t.power := by
  rw [thermalSample_eq hon hpower, h]
  rfl

end

section
variable {watts : Nat}

theorem tripStep_calm (htrip : c.thermal.trip = false) (h : c.overFor PanelState.tripSince 1000000 = []) : c.tripStep watts = c := by
  rw [State.tripStep, h]
  exact if_neg (Bool.eq_false_iff.mp htrip)

theorem tripStep_trips {p i : Nat} {r : List (Nat × Nat)} (htrip : c.thermal.trip = false)
    (h : c.overFor PanelState.tripSince 1000000 = (p, i) :: r) :
    c.tripStep watts = c.thermalTrip p i (getK (c.panel p).temps i 0) watts := by
  rw [State.tripStep, h]
  exact if_neg (Bool.eq_false_iff.mp htrip)

theorem tripStep_warm (htrip : c.thermal.trip = true) (hwarm : c.cold = false) :
    c.tripStep watts = { c with thermal := { c.thermal with tripClear := none } } :=
  (if_pos htrip).trans (if_pos (congrArg not hwarm))

theorem tripStep_cold (htrip : c.thermal.trip = true) (hcold : c.cold = true) :
    c.tripStep watts =
      let since := c.thermal.tripClear.getD c.time
      if since + 100000000 ≤ c.time then c.endTrip else { c with thermal := { c.thermal with tripClear := some since } } :=
  (if_pos htrip).trans (if_neg (not_bnot_of_eq_true hcold))

end

/-! ### Steps 1 and 2 (R444) -/

theorem step1_hot {fs : List (Nat × Int)} {watts : Nat} (hhot : ∃ f ∈ fs, 380 < f.2) :
    s.step1 fs watts =
      let k := min s.power.thermCeil watts - 250
      ({ s with power := { s.power with thermCeil := k }
                thermal := { s.thermal with step1 := true, step1Rise := s.time } } : State).raiseEvery
        60000000000 (0x0904, 0) { code := 0x0904, cls := .note, loc := moduleLoc, arg0 := k } := by
  obtain ⟨f, hf, hover⟩ := hhot
  exact if_pos (List.any_eq_true.mpr ⟨f, hf, decide_eq_true hover⟩)

theorem step2_hot {p : Nat} {f : Int} (hhot : 400 < f) :
    s.step2 p f =
      let k := max 19 ((s.panel p).capTherm - 1)
      let u := (s.setPanel p { s.panel p with capTherm := k }).applyClock p
      ({ u with thermal := { u.thermal with cool := delK u.thermal.cool p } } : State).raiseEvery
        60000000000 (0x0905, p) { code := 0x0905, cls := .note, kind := 2, loc := panelLoc p, arg0 := k, arg1 := f.toNat } :=
  if_pos hhot

/-- Settles O52: a sample by what stands over 115 °C; else by the ladder's state: in a trip or not, and what is hot or cold in it. -/
theorem thermalLadder : Obligations.ThermalLadder := by
  intro s t a b burn c long cold
  refine ⟨fun h => same_of_effect exec_thermalSample (thermalSample_idle h), fun hon hpower => ⟨fun p i r hburn => ?_, ?_, ?_, ?_, ?_⟩,
    fun fs watts hhot => step1_hot hhot, fun p f hhot => step2_hot hhot⟩
  · exact next_of_effect exec_thermalSample (thermalSample_burns hon hpower hburn)
  all_goals
    have hcold : c.cold = true ↔ cold := cold_iff
    have hacts : burn = [] → exec (.thermalSample t) s = .next ((c.tripStep t.power).withQueueOf s) := fun h =>
      next_of_effect exec_thermalSample (thermalSample_acts hon hpower h)
  · exact fun hburn htrip hlong => next_of_effect (hacts hburn) (tripStep_calm htrip hlong)
  · exact fun p i r hburn htrip hlong => next_of_effect (hacts hburn) (tripStep_trips htrip hlong)
  · intro hburn htrip hwarm
    exact next_of_effect (hacts hburn) (tripStep_warm htrip (Bool.eq_false_iff.mpr (mt hcold.mp hwarm)))
  · intro hburn htrip hall since
    have hstep := next_of_effect (hacts hburn) (tripStep_cold htrip (hcold.mpr hall))
    exact ⟨fun htime => next_of_effect hstep (if_pos htime), fun htime => next_of_effect hstep (if_neg (Nat.not_le.mpr htime))⟩

end Sys2Proof.Machine
end

section
/-! SUPPORT and SETTLED. The tray's messages: coolant reports, their loss, the heat balance, and the operator key (R439 to R441, R509, R514
to R516). That the key is refused while the controller does not run is notes/assumptions/91, that the balance allows a quarter of the
electrical power is notes/assumptions/92. -/

namespace Sys2Proof.Machine

variable {s : State}

/-! ### Coolant reports (R439, R440, R514 to R516) -/

theorem reportOk_iff (s : State) (m : Nat) (pec : Bool) :
    s.reportOk m pec = true ↔ pec = true ∧ bitsOf m 7 0 = 1 ∧ s.thermal.coolSeq ≠ some (bitsOf m 15 8) ∧ bitsOf m 66 64 = 7 ∧
      bitsOf m 31 16 < 1024 ∧ bitsOf m 47 32 < 1024 ∧ bitsOf m 63 48 < 1024 ∧ bitsOf m 71 67 = 0 := by
  simp only [State.reportOk, Bool.and_eq_true, beq_iff_eq, bne_iff_ne, decide_eq_true_eq, and_assoc]

/-- A coolant report answered: its SEQ kept, its readings taken if it is valid, a status message sent. -/
def State.reportAnswered (s : State) (m : Nat) (pec : Bool) : State :=
  let ok := s.reportOk m pec
  let t : State := { s with thermal := { s.thermal with coolSeq := if pec then some (bitsOf m 15 8) else s.thermal.coolSeq } }
  let u := if ok then t.takeCoolant (bitsOf m 31 16) (bitsOf m 47 32) (bitsOf m 63 48) else t
  { u with mgmt := { u.mgmt with tray := u.mgmt.tray ++ [u.trayStatus (bitsOf m 15 8) ok] } }

theorem exec_coolantReport (msg : BitVec 72) (pec : Bool) : exec (.coolantReport msg pec) s =
    .next ((if bitsOf msg.toNat 7 0 ≠ 1 then s else s.reportAnswered msg.toNat pec).withQueueOf s) :=
  ou (f := fun s => if bitsOf msg.toNat 7 0 ≠ 1 then s else s.reportAnswered msg.toNat pec) trivial rfl

/-- COOLANT_DATA_TIMEOUT's effect. -/
def State.coolantTimeout (s : State) : State :=
  if s.thermal.coolLost || decide (s.time < s.thermal.coolAt + 1000000000) then s
  else
    ({ s with thermal := { s.thermal with coolLost := true, lowFlowSince := none } } : State).raise
      { code := 0x0901, cls := .degraded, loc := moduleLoc }

theorem exec_coolantDataTimeout : exec .coolantDataTimeout s = .next (s.coolantTimeout.withQueueOf s) :=
  ou (f := State.coolantTimeout) trivial rfl

theorem coolantTimeout_due (hheld : s.thermal.coolLost = false) (htime : s.thermal.coolAt + 1000000000 ≤ s.time) :
    s.coolantTimeout = ({ s with thermal := { s.thermal with coolLost := true, lowFlowSince := none } } : State).raise
      { code := 0x0901, cls := .degraded, loc := moduleLoc } :=
  if_neg (by simp [hheld, htime])

theorem coolantTimeout_not_due (h : s.thermal.coolLost = true ∨ s.time < s.thermal.coolAt + 1000000000) : s.coolantTimeout = s :=
  if_pos (by rcases h with h | h <;> simp [h])

/-! ### The heat balance (R441) -/

/-- The heat that a coolant reading says is carried away, in W. -/
def coolantHeat (inlet outlet flow : Nat) : Nat := flow * (outlet - inlet) * 4120 / 6000

/-- The state with `n` checks in a row out of balance; the tenth is reported, at most once an hour. -/
def State.balanceCounted (s : State) (heat watts n : Nat) : State :=
  let t : State := { s with thermal := { s.thermal with balanceBad := n } }
  if 10 ≤ n then t.raiseEvery 3600000000000 (0x0903, 0) { code := 0x0903, cls := .note, loc := moduleLoc, arg0 := heat, arg1 := watts }
  else t

/-- COOLANT_BALANCE_CHECK's effect. -/
def State.balanceCheck (s : State) (watts : Nat) : State :=
  match s.thermal.coolant with
  | some (i, o, f) =>
    if s.thermal.coolLost then s
    else
      let off := decide (watts < 4 * (coolantHeat i o f - watts)) || decide (watts < 4 * (watts - coolantHeat i o f))
      s.balanceCounted (coolantHeat i o f) watts (if off then s.thermal.balanceBad + 1 else 0)
  | none => s

theorem exec_coolantBalanceCheck (watts : Nat) : exec (.coolantBalanceCheck watts) s = .next ((s.balanceCheck watts).withQueueOf s) :=
  ou (f := (State.balanceCheck · watts)) trivial rfl

theorem balanceCheck_unknown {watts : Nat} (h : s.thermal.coolant = none ∨ s.thermal.coolLost = true) : s.balanceCheck watts = s := by
  rw [State.balanceCheck]
  split
  · next hread => exact if_pos (h.resolve_left (by simp [hread]))
  · rfl

theorem balanceCheck_known {watts i o f : Nat} (hread : s.thermal.coolant = some (i, o, f)) (hheld : s.thermal.coolLost = false) :
    s.balanceCheck watts = s.balanceCounted (coolantHeat i o f) watts
      (if watts < 4 * (coolantHeat i o f - watts) ∨ watts < 4 * (watts - coolantHeat i o f) then s.thermal.balanceBad + 1 else 0) := by
  rw [State.balanceCheck, hread]
  refine (if_neg (Bool.eq_false_iff.mp hheld)).trans (congrArg (s.balanceCounted _ watts) (if_congr ?_ rfl rfl))
  rw [Bool.or_eq_true, decide_eq_true_eq, decide_eq_true_eq]

/-! ### The operator key (R509, R516) -/

/-- The status that answers an operator key: 1 one is set, 0 this one is, 2 flash did not take it. -/
def State.keyStatus (s : State) (ok : Bool) : Nat := if s.flash.opKey.isSome then 1 else if ok && s.mgmt.running then 0 else 2

/-- The state with a key's status sent to the tray. -/
def State.keyTold (s : State) (status : Nat) : State :=
  { s with mgmt := { s.mgmt with tray := s.mgmt.tray ++ [BitVec.ofNat 64 (0x82 + status * 2 ^ 8)] } }

/-- An operator key answered by a status, and kept under status 0. -/
def State.keyAnswered (s : State) (m status : Nat) : State := { s.keyTold status with
  flash := if status = 0 then { s.flash with opKey := some (BitVec.ofNat 256 (bitsOf m 263 8)) } else s.flash }

theorem exec_operatorKeySet (msg : BitVec 272) (ok : Bool) : exec (.operatorKeySet msg ok) s =
    .next ((if bitsOf msg.toNat 7 0 ≠ 2 then s else s.keyAnswered msg.toNat (s.keyStatus ok)).withQueueOf s) :=
  ou (f := fun s => if bitsOf msg.toNat 7 0 ≠ 2 then s else s.keyAnswered msg.toNat (s.keyStatus ok)) trivial rfl

theorem exec_operatorKeySet_key {msg : BitVec 272} {ok : Bool} {n : Nat} (hkey : bitsOf msg.toNat 7 0 = 2) (hstatus : s.keyStatus ok = n) :
    exec (.operatorKeySet msg ok) s = .next ((s.keyAnswered msg.toNat n).withQueueOf s) := by
  subst hstatus
  exact next_of_effect (exec_operatorKeySet msg ok) (if_neg (not_not.mpr hkey))

theorem keyStatus_set {ok : Bool} (h : s.flash.opKey ≠ none) : s.keyStatus ok = 1 := if_pos (Option.isSome_iff_ne_none.mpr h)

theorem keyStatus_taken {ok : Bool} (h : s.flash.opKey = none) (hok : ok = true) (hrun : s.mgmt.running = true) : s.keyStatus ok = 0 := by
  rw [State.keyStatus, h, hok, hrun]
  rfl

theorem keyStatus_failed {ok : Bool} (h : s.flash.opKey = none) (hbad : ok = false ∨ s.mgmt.running = false) : s.keyStatus ok = 2 := by
  rw [State.keyStatus, h]
  exact (if_neg Bool.false_ne_true).trans (if_neg (by rcases hbad with h | h <;> simp [h]))

/-- Settles O53: each message by its command byte, then by what the module holds already. -/
theorem trayMessages : Obligations.TrayMessages := by
  intro s
  refine ⟨?_, fun hheld htime => next_of_effect exec_coolantDataTimeout (coolantTimeout_due hheld htime),
    fun h => same_of_effect exec_coolantDataTimeout (coolantTimeout_not_due h), ?_, ?_⟩
  · intro msg pec m ok t u
    exact ⟨fun hother => same_of_effect (exec_coolantReport msg pec) (if_pos hother),
      fun hreport => next_of_effect (exec_coolantReport msg pec) (if_neg (not_not.mpr hreport)), reportOk_iff s m pec⟩
  · intro watts
    refine ⟨fun h => same_of_effect (exec_coolantBalanceCheck watts) (balanceCheck_unknown h), fun i o f hread hheld => ?_⟩
    exact next_of_effect (exec_coolantBalanceCheck watts) (balanceCheck_known hread hheld)
  · intro msg ok m tell
    exact ⟨fun hother => same_of_effect (exec_operatorKeySet msg ok) (if_pos hother),
      fun hkey hset => exec_operatorKeySet_key hkey (keyStatus_set hset),
      fun hkey hnone hok hrun => exec_operatorKeySet_key hkey (keyStatus_taken hnone hok hrun),
      fun hkey hnone hbad => exec_operatorKeySet_key hkey (keyStatus_failed hnone hbad)⟩

end Sys2Proof.Machine
end

section
/-! SUPPORT and SETTLED. Calibrations: when one is due, when it starts, and what its end does (R450 to R454). That the SEQ which CAL_STATUS
shows is that of the CAL_DUE or of the refusing record is notes/assumptions/93. -/

namespace Sys2Proof.Machine

variable {s t w : State} {temps : List Int} {d : List Nat} {at_ mask : Nat} {c : CalResult}

theorem State.raise_calib (s : State) (e : Ev) : (s.raise e).calib = s.calib := by rw [reported_raise s e]

/-! ### A calibration that is due (R450, R451) -/

/-- Does a due calibration wait: one is scheduled or runs, or the last was refused within 60 s? -/
def State.calWaits (w : State) : Prop := w.calib.scheduled = true ∨ w.calib.running ≠ none ∨ w.time < w.calib.notBefore

/-- Is there no package, or no tick in motion, or has the calibration been due for as long as it may be deferred? -/
def State.calTime (w : State) (at_ : Nat) : Prop :=
  w.loaded = none ∨ w.tick.stoppedAt ≠ none ∨ at_ + w.calib.defer * 1000000 ≤ w.time

/-- The state with a calibration scheduled. -/
def State.calScheduled (w : State) : State := { w with calib := { w.calib with scheduled := true } }

/-- The state with a calibration forced by a drift of 12 °C. -/
def State.calForced (w : State) : State := { w with calib := { w.calib with
  scheduled := true, forced := true, sticky := w.calib.sticky ||| 0b01#2, seq := w.calib.dueSeq } }

/-- What becomes of a calibration that has been due since a time, the canopies' drift `d` known. -/
def State.calSchedule (w : State) (d : List Nat) : Option Nat → State
  | none => w
  | some t =>
    if w.calib.scheduled || w.calib.running.isSome || decide (w.time < w.calib.notBefore) then w
    else if d.any fun x => 48 ≤ x then w.calForced
    else if w.loaded.isNone || w.tick.stoppedAt.isSome || decide (t + w.calib.defer * msNs ≤ w.time) then w.calScheduled
    else w

theorem calWaits_iff :
    (w.calib.scheduled || w.calib.running.isSome || decide (w.time < w.calib.notBefore)) = true ↔ w.calWaits := by
  simp only [State.calWaits, Bool.or_eq_true, Option.isSome_iff_ne_none, decide_eq_true_eq, or_assoc]

theorem calTime_iff :
    (w.loaded.isNone || w.tick.stoppedAt.isSome || decide (at_ + w.calib.defer * msNs ≤ w.time)) = true ↔ w.calTime at_ := by
  simp only [Bool.or_eq_true, Option.isNone_iff_eq_none, Option.isSome_iff_ne_none, decide_eq_true_eq, or_assoc]
  rfl

theorem any_far_iff : (d.any fun x => 48 ≤ x) = true ↔ ∃ x ∈ d, 48 ≤ x := by simp only [List.any_eq_true, decide_eq_true_eq]

theorem calSchedule_waits (h : w.calWaits) : w.calSchedule d (some at_) = w := if_pos (calWaits_iff.mpr h)

section
variable (hnow : ¬w.calWaits)
include hnow

theorem calSchedule_forced (hfar : ∃ x ∈ d, 48 ≤ x) : w.calSchedule d (some at_) = w.calForced :=
  (if_neg (mt calWaits_iff.mp hnow)).trans (if_pos (any_far_iff.mpr hfar))

variable (hnear : ¬∃ x ∈ d, 48 ≤ x)
include hnear

theorem calSchedule_time (h : w.calTime at_) : w.calSchedule d (some at_) = w.calScheduled :=
  (if_neg (mt calWaits_iff.mp hnow)).trans ((if_neg (mt any_far_iff.mp hnear)).trans (if_pos (calTime_iff.mpr h)))

theorem calSchedule_later (h : ¬w.calTime at_) : w.calSchedule d (some at_) = w :=
  (if_neg (mt calWaits_iff.mp hnow)).trans ((if_neg (mt any_far_iff.mp hnear)).trans (if_neg (mt calTime_iff.mp h)))

end

/-- The state with the canopies' temperatures taken. -/
def State.calTemps (s : State) (temps : List Int) : State := { s with calib := { s.calib with temps := temps } }

/-- The canopies whose drift is past the threshold. -/
def State.dueMaskOf (t : State) : Nat := (List.range 4).foldl (fun m c => m + if t.calib.thresh * 4 ≤ t.calDrift.getD c 0 then 2 ^ c else 0) 0

def State.calMasked (t : State) : State := { t with calib := { t.calib with dueMask := t.dueMaskOf } }

/-- The state with a calibration due as of now, reported. -/
def State.calDue (u : State) : State :=
  ({ u with calib := { u.calib with due := some u.time, dueSeq := u.errors.nextSeq } } : State).raise
    { code := 0x090A, cls := .note, loc := moduleLoc, arg0 := u.calib.dueMask }

theorem calDue_due (u : State) : u.calDue.calib.due = some u.time := congrArg Calib.due (State.raise_calib ..)

/-- The state with the drift's mask taken, and a calibration due by it if none is yet. -/
def State.calNoted (t : State) : State := if t.calib.due.isNone && t.dueMaskOf != 0 then t.calMasked.calDue else t.calMasked

theorem calNoted_new (hdue : t.calib.due = none) (hmask : t.dueMaskOf ≠ 0) : t.calNoted = t.calMasked.calDue :=
  if_pos (by simp [hdue, hmask])

theorem calNoted_same (h : t.calib.due ≠ none ∨ t.dueMaskOf = 0) : t.calNoted = t.calMasked :=
  if_neg (by rcases h with h | h <;> simp [h])

theorem exec_calTriggerEval (temps : List Int) : exec (.calTriggerEval temps) s = .next ((s.calTrigger temps).withQueueOf s) :=
  ou (f := (State.calTrigger · temps)) trivial rfl

theorem calTrigger_barred (h : s.calMay = false) : s.calTrigger temps = s.calTemps temps := if_pos (congrArg not h)

section
variable (hmay : s.calMay = true)
include hmay

theorem calTrigger_may : s.calTrigger temps =
    (s.calTemps temps).calNoted.calSchedule (s.calTemps temps).calDrift (s.calTemps temps).calNoted.calib.due :=
  if_neg (not_bnot_of_eq_true hmay)

theorem calTrigger_undrifted (hdue : s.calib.due = none) (hmask : (s.calTemps temps).dueMaskOf = 0) :
    s.calTrigger temps = (s.calTemps temps).calMasked := by
  have hnone : (s.calTemps temps).calMasked.calib.due = none := hdue
  rw [calTrigger_may hmay, calNoted_same (.inr hmask), hnone, State.calSchedule]

theorem calTrigger_falls_due (hdue : s.calib.due = none) (hmask : (s.calTemps temps).dueMaskOf ≠ 0) :
    s.calTrigger temps = (s.calTemps temps).calMasked.calDue.calSchedule (s.calTemps temps).calDrift (some s.time) := by
  rw [calTrigger_may hmay, calNoted_new (t := s.calTemps temps) hdue hmask, calDue_due]
  rfl

theorem calTrigger_due (hdue : s.calib.due = some at_) :
    s.calTrigger temps = (s.calTemps temps).calMasked.calSchedule (s.calTemps temps).calDrift (some at_) := by
  have hsome : (s.calTemps temps).calMasked.calib.due = some at_ := hdue
  rw [calTrigger_may hmay, calNoted_same (t := s.calTemps temps) (.inl (Option.ne_none_iff_exists'.mpr ⟨at_, hdue⟩)), hsome]

end

theorem calDue_waits : t.calDue.calWaits ↔ t.calWaits := by
  simp only [State.calWaits, State.calDue, State.raise_calib, State.raise_time]

theorem calDue_time : t.calDue.calTime t.time ↔ t.loaded = none ∨ t.tick.stoppedAt ≠ none ∨ t.calib.defer = 0 := by
  simp only [State.calTime, State.calDue, State.raise_calib, State.raise_time, State.raise_loaded, State.raise_tick]
  refine or_congr_right (or_congr_right ?_)
  omega

/-! ### A calibration that starts and ends (R452 to R454) -/

theorem calReady_iff : s.calReady = true ↔ s.calib.scheduled = true ∧ s.calib.running = none ∧ s.calMay = true ∧ s.calib.notBefore ≤ s.time ∧
    ∀ l, s.loaded = some l → s.tick.running = true → s.tick.start + l.t - 240 ≤ s.time ∧ s.allDone = true := by
  unfold State.calReady
  cases s.loaded with
  | none => simp [and_assoc]
  | some l => cases s.tick.running <;> simp [and_assoc]

/-- CALIBRATION_START's effect: a loaded module is held. -/
def State.calStart (s : State) : State :=
  if !s.calReady then s
  else
    let t : State := { s with calib := { s.calib with running := some s.time, scheduled := false } }
    if s.loaded.isSome then t.placeHold 1 else t

theorem exec_calibrationStart : exec .calibrationStart s = .next (s.calStart.withQueueOf s) :=
  ou (f := State.calStart) trivial rfl

theorem exec_calDone : exec (.calDone c) s = .next ((s.calDone c).withQueueOf s) := ou (f := (State.calDone · c)) trivial rfl

/-- The state with no calibration running. -/
def State.calEnds (s : State) : State := { s with calib := { s.calib with running := none } }

/-- A calibration refused for its readings of REFV, which waits 60 s. -/
def State.refvRefused (t : State) (refv : List Nat) : State :=
  let r := fun i => refv.getD i 0 % 65536
  ({ t with calib := { t.calib with
    notBefore := t.time + 60000000000, forced := false, sticky := t.calib.sticky ||| 0b10#2, seq := t.errors.nextSeq } } : State).raise
      { code := 0x090C, cls := .degraded, loc := moduleLoc, arg0 := r 0 + r 1 * 2 ^ 16 + r 2 * 2 ^ 32 + r 3 * 2 ^ 48 }

theorem calDone_none (h : s.calib.running = none) : s.calDone c = s := if_pos (Option.isNone_iff_eq_none.mpr h)

theorem calDone_running (h : s.calib.running ≠ none) :
    s.calDone c = ((if refvOk c.refv then s.calEnds.applyCal c else s.calEnds.refvRefused c.refv).liftHold 1).retryTrims :=
  if_neg (mt Option.isNone_iff_eq_none.mp h)

/-- Settles O54: a trigger by whether a calibration is due already, then by the drift and the deferral; its start by what it needs; its
end by the readings of REFV. -/
theorem calibration : Obligations.Calibration := by
  intro s
  refine ⟨?_, rfl, ?_, fun hnot => same_of_effect exec_calibrationStart (if_pos (congrArg not hnot)), calReady_iff, ?_⟩
  · intro temps t d mask u
    refine ⟨fun hbar => next_of_effect (exec_calTriggerEval temps) (calTrigger_barred hbar),
      fun hmay hdue hmask => next_of_effect (exec_calTriggerEval temps) (calTrigger_undrifted (temps := temps) hmay hdue hmask),
      fun hmay hdue hmask => ?_, fun hmay at_ hdue => ?_⟩
    · refine next_of_effect (exec_calTriggerEval temps) ((calTrigger_falls_due (temps := temps) hmay hdue hmask).trans ?_)
      have hwaits : u.calDue.calWaits ↔ s.calib.scheduled = true ∨ s.calib.running ≠ none ∨ s.time < s.calib.notBefore := calDue_waits
      have htimes : u.calDue.calTime s.time ↔ s.loaded = none ∨ s.tick.stoppedAt ≠ none ∨ s.calib.defer = 0 := calDue_time (t := u)
      dsimp only
      split_ifs with hwait hfar htime
      · exact calSchedule_waits (hwaits.mpr hwait)
      · exact calSchedule_forced (mt hwaits.mp hwait) hfar
      · exact calSchedule_time (mt hwaits.mp hwait) hfar (htimes.mpr htime)
      · exact calSchedule_later (mt hwaits.mp hwait) hfar (mt htimes.mp htime)
    · have heval := next_of_effect (exec_calTriggerEval temps) (calTrigger_due (temps := temps) hmay hdue)
      refine ⟨fun hwait => next_of_effect heval (calSchedule_waits hwait), fun hidle hnone htime => ?_⟩
      have hnow : ¬u.calWaits := by
        rintro (h | h | h)
        · exact Bool.eq_false_iff.mp hidle h
        · exact h hnone
        · exact absurd htime (Nat.not_le.mpr h)
      have hnear : (∀ x ∈ d, x < 48) → ¬∃ x ∈ d, 48 ≤ x := fun h ⟨x, hx, hfar⟩ => absurd (h x hx) (Nat.not_lt.mpr hfar)
      refine ⟨fun hfar => next_of_effect heval (calSchedule_forced hnow hfar),
        fun hall h => next_of_effect heval (calSchedule_time hnow (hnear hall) h), fun hall hloaded hmoves hlater => ?_⟩
      refine next_of_effect heval (calSchedule_later hnow (hnear hall) ?_)
      rintro (h | h | h)
      · exact hloaded h
      · exact h hmoves
      · exact absurd hlater (Nat.not_lt.mpr h)
  · exact fun hready => next_of_effect exec_calibrationStart (if_neg (not_bnot_of_eq_true hready))
  · intro c t
    refine ⟨fun hnone => same_of_effect exec_calDone (calDone_none hnone), fun hrun hgood => ?_, fun hrun hbad => ?_⟩
    · rw [next_of_effect exec_calDone (calDone_running hrun), if_pos hgood]
      rfl
    · rw [next_of_effect exec_calDone (calDone_running hrun), if_neg (Bool.eq_false_iff.mp hbad)]
      rfl

end Sys2Proof.Machine
end

section
/-! SUPPORT and SETTLED. Neighbour tests, the end of an observation, and DARN_OVR (R483 to R485, R493). -/

namespace Sys2Proof.Machine

variable {s : State} {k : Site} {router : Bool} {testers : List Site} {votes : List Vote}

/-! ### Neighbour tests (R484) -/

/-- The record of a unit's test that found no room, or of its observation's end. -/
def State.unitEv (s : State) (k : Site) (router : Bool) (code : Nat) : Ev :=
  { code := code, cls := .note, kind := if router then 1 else 0, loc := if router then physLoc k else s.coreLoc k }

/-- How many testers vote against a unit. -/
def badVotes (k : Site) (router : Bool) (testers : List Site) (votes : List Vote) : Nat :=
  (testers.eraseDups.filter fun t => votes.any fun v => v.tester == t && v.unit == k && v.loopback == router).length

theorem testFails_iff : testFails k router testers votes = true ↔
    2 ≤ badVotes k router testers votes ∨ (testers.eraseDups.length < 2 ∧ 0 < badVotes k router testers votes) := by
  simp only [testFails, badVotes, Bool.or_eq_true, Bool.and_eq_true, decide_eq_true_eq]

theorem exec_neighbourTest (hk : k.ok) :
    exec (.neighbourTest k router testers votes) s = .next ((s.neighbourTest k router testers votes).withQueueOf s) :=
  ou (f := (State.neighbourTest · k router testers votes)) hk rfl

theorem neighbourTest_dead (hdead : s.deadAt k = true) : s.neighbourTest k router testers votes = s := if_pos hdead

section
variable (hlive : s.deadAt k = false)
include hlive

theorem neighbourTest_deferred : s.neighbourTest k router [] votes = s.deferTest k router := if_neg (Bool.eq_false_iff.mp hlive)

theorem neighbourTest_made (htesters : testers ≠ []) : s.neighbourTest k router testers votes =
    let t : State := { s with errors := { s.errors with testWaits := delK s.errors.testWaits (k, router) } }
    if testFails k router testers votes then (t.observe k router 4).settleDying else t :=
  (if_neg (Bool.eq_false_iff.mp hlive)).trans (if_neg (mt List.isEmpty_iff.mp htesters))

end

theorem deferTest_first (h : s.errors.testWaits.find? (fun w => w.1 = (k, router)) = none) :
    s.deferTest k router = { s with errors := { s.errors with testWaits := s.errors.testWaits ++ [((k, router), s.time)] } } := by
  dsimp only [State.deferTest]
  rw [h]

section
variable {w : Site × Bool} {t : Nat} (h : s.errors.testWaits.find? (fun w => w.1 = (k, router)) = some (w, t))
include h

theorem deferTest_waits (htime : s.time < t + 60000000000) : s.deferTest k router = s := by
  dsimp only [State.deferTest]
  rw [h]
  exact if_pos htime

theorem deferTest_reported (htime : t + 60000000000 ≤ s.time) :
    s.deferTest k router = ({ s with errors := { s.errors with
      testWaits := putK s.errors.testWaits (k, router) s.time } } : State).raise (s.unitEv k router 0x0A08) := by
  dsimp only [State.deferTest]
  rw [h]
  exact if_neg (Nat.not_lt.mpr htime)

end

/-! ### Observations (R485) -/

/-- OBSERVATION_END's effect. -/
def State.observationEnds (s : State) (k : Site) (router : Bool) : State :=
  match s.errors.observed.find? (fun o => o.unit = k ∧ o.isRouter = router) with
  | none => s
  | some o =>
    if s.time < o.since + 24 * hourNs then s
    else ({ s with errors := { s.errors with observed := s.errors.observed.filter (· ≠ o) } } : State).raise (s.unitEv k router 0x0A06)

theorem exec_observationEnd (hk : k.ok) : exec (.observationEnd k router) s = .next ((s.observationEnds k router).withQueueOf s) :=
  ou (f := (State.observationEnds · k router)) hk rfl

theorem observationEnds_none (h : s.errors.observed.find? (fun o => o.unit = k ∧ o.isRouter = router) = none) :
    s.observationEnds k router = s := by
  rw [State.observationEnds, h]

section
variable {o : Observed} (h : s.errors.observed.find? (fun o => o.unit = k ∧ o.isRouter = router) = some o)
include h

theorem observationEnds_over (htime : o.since + 24 * 3600000000000 ≤ s.time) :
    s.observationEnds k router =
      ({ s with errors := { s.errors with observed := s.errors.observed.filter (· ≠ o) } } : State).raise (s.unitEv k router 0x0A06) := by
  rw [State.observationEnds, h]
  exact if_neg (Nat.not_lt.mpr htime)

theorem observationEnds_lasts (htime : s.time < o.since + 24 * 3600000000000) : s.observationEnds k router = s := by
  rw [State.observationEnds, h]
  exact if_pos htime

end

/-! ### DARN_OVR (R492, R493) -/

theorem exec_darnOvr (v : Word) : exec (.darnOvr v) s = .next ((s.setDarnOvr (some 0) v).withQueueOf s) :=
  ou (f := (State.setDarnOvr · (some 0) v)) trivial rfl

theorem darnOvrOk_iff (v : Word) : darnOvrOk v = true ↔ bitsOf v.toNat 6 3 ≤ 11 ∧ bitsOf v.toNat 17 14 ≤ 11 := by
  simp only [darnOvrOk, Bool.and_eq_true, decide_eq_true_eq]

/-- Settles O55: a test by its testers and their votes, an observation by its age, DARN_OVR by its fields. -/
theorem unitTests : Obligations.UnitTests := by
  intro s k router hk ev
  refine ⟨?_, fun o ho => ⟨fun htime => next_of_effect (exec_observationEnd hk) (observationEnds_over ho htime),
    fun htime => same_of_effect (exec_observationEnd hk) (observationEnds_lasts ho htime)⟩,
    fun hnone => same_of_effect (exec_observationEnd hk) (observationEnds_none hnone), fun v => ⟨fun hrow hcol => ?_, fun hbad => ?_⟩⟩
  · intro testers votes bad
    refine ⟨fun hdead => same_of_effect (exec_neighbourTest hk) (neighbourTest_dead hdead), ?_, ?_⟩
    · rintro hlive rfl
      have hdefer := next_of_effect (exec_neighbourTest hk) (neighbourTest_deferred (router := router) (votes := votes) hlive)
      exact ⟨fun hnone => next_of_effect hdefer (deferTest_first hnone), fun w t hsome =>
        ⟨fun htime => same_of_effect hdefer (deferTest_waits hsome htime), fun htime => next_of_effect hdefer (deferTest_reported hsome htime)⟩⟩
    · intro hlive htesters t
      have hmade := next_of_effect (exec_neighbourTest hk) (neighbourTest_made (router := router) (votes := votes) hlive htesters)
      refine ⟨fun hfails => next_of_effect hmade (if_pos (testFails_iff.mpr hfails)), fun hfew hsome => ?_⟩
      refine next_of_effect hmade (if_neg (mt testFails_iff.mp ?_))
      change ¬(2 ≤ bad ∨ (testers.eraseDups.length < 2 ∧ 0 < bad))
      omega
  · exact next_of_effect (exec_darnOvr v) (if_pos ((darnOvrOk_iff v).mpr ⟨hrow, hcol⟩))
  · refine next_of_effect (exec_darnOvr v) (if_neg (mt (darnOvrOk_iff v).mp ?_))
    omega

end Sys2Proof.Machine
end

section
/-! SUPPORT and SETTLED. Which datagrams are taken as requests (R507 to R509, R511). That none is while the controller does not run is
notes/assumptions/116, which malformed ones are ignored is notes/assumptions/118, that a repeat without a cached answer gets none is
notes/assumptions/122. -/

namespace Sys2Proof.Machine

variable {s : State} {d : Datagram} {x : Session} {i : Instr} {typ : Nat} {least : Nat → Nat} {lay : Nat → Layout}
  {run : State → Session → Nat → Reply}

/-! ### The requests of trust -/

theorem asks_quote : asks s (.quote d) 15 d (fun _ => 32) (fun _ => [(0, 256)]) fun s _ _ => s.quote (d.body.take 32) := rfl

theorem asks_opkey : asks s (.opkey d) 20 d (fun _ => 32) (fun _ => [(0, 256)]) fun s _ v =>
    replyOk [] { s with flash := { s.flash with opKey := some (BitVec.ofNat 256 v) } } := rfl

theorem asks_keyRotateGenerate (hbit : bodyBit d = false) :
    asks s (.keyRotateGenerate d) 16 d (fun _ => 1) (fun _ => [(0, 1)]) fun s _ _ => s.makeSuccessor := asks_bit_clear rfl hbit

theorem asks_keyRotateConfirm (hbit : bodyBit d = true) :
    asks s (.keyRotateConfirm d) 16 d (fun _ => 1) (fun _ => [(0, 1)]) fun s _ _ => s.takeSuccessor := asks_bit_set rfl hbit

/-- COLLECTORS' reply. -/
def State.collectorsReply (s : State) (body : List Byte) (v : Nat) : Reply :=
  if 4 < v % 8 then reply stRange s
  else replyOk [] ({ s with flash := { s.flash with
    collectors := (List.range (v % 8)).map (collectorAt body), classMask := BitVec.ofNat 8 (bitsOf v 15 8) } } : State).openCollectors

theorem asks_collectors : asks s (.collectors d) 17 d collectorsLeast collectorsLayout fun s _ v => s.collectorsReply d.body v := rfl

theorem asks_fwStage : asks s (.fwStage d) 13 d fwStageLeast fwStageLayout fun s _ v =>
    s.fwStage (bitsOf v 31 0) (bitsOf v 63 32) (bytesAt d.body 16 (bitsOf v 79 64)) := rfl

/-- FW_ACTIVATE's reply. -/
def State.activateReply (s : State) : Reply :=
  let b := !s.mgmt.runningB
  if s.slotOk (s.slotOf b) then reply stOk ({ s with flash := { s.flash with preferB := b, trial := true } } : State).stopController
  else reply stState s

theorem asks_fwActivate : asks s (.fwActivate d) 14 d (fun _ => 0) (fun _ => []) fun s _ _ => s.activateReply := rfl

/-! ### The commands of one datagram -/

/-- A command for datagrams of a TYPE: it serves those whose body `fits` it, and passes over the rest. -/
def serves (s : State) (d : Datagram) (c : Instr × Nat × Bool) : Prop :=
  (c.2.2 = true → ∃ least lay run, asks s c.1 c.2.1 d least lay run) ∧ (c.2.2 = false → exec c.1 s = .next s)

theorem serves_of_asks (h : asks s i typ d least lay run) : serves s d (i, typ, true) := ⟨fun _ => ⟨least, lay, run, h⟩, nofun⟩

theorem serves_clear (hi : exec i s = onUnit True s fun s => if bodyBit d then s else s.viumond typ d least lay run) :
    serves s d (i, typ, !bodyBit d) := by
  refine ⟨fun h => ⟨least, lay, run, asks_bit_clear hi (by simpa using h)⟩, fun h => exec_same i s _ hi (if_pos (by simpa using h))⟩

theorem serves_set (hi : exec i s = onUnit True s fun s => if bodyBit d then s.viumond typ d least lay run else s) :
    serves s d (i, typ, bodyBit d) :=
  ⟨fun h => ⟨least, lay, run, asks_bit_set hi h⟩, fun h => exec_same i s _ hi (if_neg (Bool.eq_false_iff.mp h))⟩

/-- The commands of Viumond's requests, each with its TYPE and whether a datagram's body fits it. -/
def viuCommands (d : Datagram) : List (Instr × Nat × Bool) :=
  [(.readReg d, 2, true), (.writeReg d, 3, true), (.readMem d, 4, true), (.events d, 5, true), (.holdPlace d, 8, !bodyBit d),
    (.holdLift d, 8, bodyBit d), (.freezeTickAligned d, 9, !bodyBit d), (.freezeImmediate d, 9, bodyBit d), (.resume d, 10, true),
    (.fwStage d, 13, true), (.fwActivate d, 14, true), (.quote d, 15, true), (.keyRotateGenerate d, 16, !bodyBit d),
    (.keyRotateConfirm d, 16, bodyBit d), (.collectors d, 17, true), (.trace d, 18, true), (.scan d, 19, true), (.opkey d, 20, true)]

theorem viuCommands_serve : ∀ c ∈ viuCommands d, serves s d c := by
  simp only [viuCommands, List.forall_mem_cons]
  exact ⟨serves_of_asks asks_readReg, serves_of_asks asks_writeReg, serves_of_asks asks_readMem, serves_of_asks asks_events,
    serves_clear rfl, serves_set rfl, serves_clear rfl, serves_set rfl, serves_of_asks asks_resume, serves_of_asks asks_fwStage,
    serves_of_asks asks_fwActivate, serves_of_asks asks_quote, serves_clear rfl, serves_set rfl, serves_of_asks asks_collectors,
    serves_of_asks asks_trace, serves_of_asks asks_scan, serves_of_asks asks_opkey, fun _ h => absurd h List.not_mem_nil⟩

/-! ### A datagram by its session, its tag and its number (R508, R509) -/

/-- Is a datagram for the command of a TYPE, on a module whose controller runs? -/
def State.forRequest (s : State) (typ : Nat) (d : Datagram) : Prop :=
  s.powered = true ∧ s.mgmt.running = true ∧ datagramOk d = true ∧ (typeKnown d.typ.toNat = true → d.typ.toNat = typ)

theorem forRequest_iff :
    (!s.powered || !s.mgmt.running || !datagramOk d || (typeKnown d.typ.toNat && d.typ.toNat != typ)) = false ↔ s.forRequest typ d := by
  simp [State.forRequest, and_assoc]

theorem viumond_passes (h : ¬s.forRequest typ d) : s.viumond typ d least lay run = s :=
  if_pos (Bool.eq_true_of_not_eq_false (mt forRequest_iff.mp h))

section
variable (h : s.forRequest typ d)
include h

theorem viumond_noSession (hnone : s.mgmt.sessions.find? (fun y => y.id == d.session) = none) :
    s.viumond typ d least lay run = s.dropTag := by
  unfold State.viumond
  rw [if_neg (Bool.eq_false_iff.mp (forRequest_iff.mpr h)), hnone]

variable (hsession : s.mgmt.sessions.find? (fun y => y.id == d.session) = some x)
include hsession

theorem viumond_badTag (htag : d.tag ≠ tagOf x.key d) : s.viumond typ d least lay run = s.dropTag := by
  unfold State.viumond
  rw [if_neg (Bool.eq_false_iff.mp (forRequest_iff.mpr h)), hsession]
  exact if_pos htag

variable {m : Nat} (htag : d.tag = tagOf x.key d) (hlast : x.lastReqId = some m)
include htag hlast

theorem viumond_repeat (hm : m = d.reqid.toNat) : s.viumond typ d least lay run =
    match x.cached with
    | some r => (s.mapSession x.id fun y => { y with lastReq := s.mclock }).send r
    | none => s.mapSession x.id fun y => { y with lastReq := s.mclock } := by
  unfold State.viumond
  rw [if_neg (Bool.eq_false_iff.mp (forRequest_iff.mpr h)), hsession]
  exact (if_neg (not_not.mpr htag)).trans (if_pos (hlast.trans (congrArg some hm)))

theorem viumond_stale (hm : d.reqid.toNat < m) : s.viumond typ d least lay run =
    let t := s.mapSession x.id fun y => { y with lastReq := s.mclock }
    t.send (t.response d x.key 2 []) := by
  have hother : x.lastReqId ≠ some d.reqid.toNat := by simp [hlast, hm.ne']
  have hlower : (x.lastReqId.any fun m => decide (d.reqid.toNat < m)) = true := by simp [hlast, hm]
  unfold State.viumond
  rw [if_neg (Bool.eq_false_iff.mp (forRequest_iff.mpr h)), hsession]
  exact (if_neg (not_not.mpr htag)).trans ((if_neg hother).trans (if_pos hlower))

end

/-- Settles O56: a command passes over what is not its request; a request goes by its session, its tag and its number. -/
theorem viumondRequests : Obligations.ViumondRequests := by
  intro s d bit cs c hc
  obtain ⟨hasks, hother⟩ : serves s d c := viuCommands_serve c hc
  refine ⟨fun h => ?_, fun hfits hon hrun hgood htyp => ?_⟩
  · cases hfits : c.2.2 with
    | false => exact hother hfits
    | true =>
      obtain ⟨least, lay, run, hi⟩ := hasks hfits
      refine same_of_effect hi (viumond_passes ?_)
      rintro ⟨hon, hrun, hgood, htyp⟩
      rcases h with h | h | h | h | ⟨hknown, hne⟩
      · exact Bool.eq_false_iff.mp h hfits
      · exact Bool.eq_false_iff.mp h hon
      · exact Bool.eq_false_iff.mp h hrun
      · exact Bool.eq_false_iff.mp h hgood
      · exact hne (htyp hknown)
  · obtain ⟨least, lay, run, hi⟩ := hasks hfits
    have hfor : s.forRequest c.2.1 d := ⟨hon, hrun, hgood, fun _ => htyp⟩
    refine ⟨fun hnone => next_of_effect hi (viumond_noSession hfor hnone), fun x hsession => ⟨fun htag => ?_, fun htag m hlast => ?_⟩⟩
    · exact next_of_effect hi (viumond_badTag hfor hsession htag)
    · exact ⟨fun hm => next_of_effect hi (viumond_repeat hfor hsession htag hlast hm),
        fun hm => next_of_effect hi (viumond_stale hfor hsession htag hlast hm)⟩

end Sys2Proof.Machine
end

section
/-! SUPPORT and SETTLED. The requests of trust: quotes, the successor key, the operator key, collectors, and firmware (R497, R502 to R506,
R511 to R513). That signatures are the implementation's is notes/assumptions/50, when a staging begins anew and that an image not accepted is
answered STATE is notes/assumptions/128, the successor key is notes/assumptions/137. -/

namespace Sys2Proof.Machine

variable {s u : State} {q : Nat}

/-! ### Signatures (R505, R506) -/

section
variable {nonce : List Byte}

theorem quote_unsigned (h : s.signNext false = none) : s.quote nonce = reply 5 s := by
  rw [State.quote, h]
  rfl

theorem quote_signed (h : s.signNext false = some (q, u)) :
    s.quote nonce =
      let ev := nonce ++ u.attest q ++ List.replicate 64 0#8
      replyOk (ev ++ u.sign q ev) u := by
  rw [State.quote, h]

end

theorem makeSuccessor_unsigned (h : s.signNext true = none) : s.makeSuccessor = reply 5 s := by
  rw [State.makeSuccessor, h]
  rfl

theorem makeSuccessor_signed (h : s.signNext true = some (q, u)) :
    s.makeSuccessor =
      let pub := natLe 56 (Config.lmsPublic u.free).toNat
      replyOk (pub ++ u.sign q pub)
        { u with mgmt := { u.mgmt with successor := some (u.free + 1, Config.lmsPublic u.free) }, free := u.free + 1 } := by
  rw [State.makeSuccessor, h]

theorem takeSuccessor_none (h : s.mgmt.successor = none) : s.takeSuccessor = reply 5 s := by
  rw [State.takeSuccessor, h]
  rfl

theorem takeSuccessor_some {k : Nat} {p : BitVec 448} (h : s.mgmt.successor = some (k, p)) :
    s.takeSuccessor = replyOk [] { s with
      flash := { s.flash with keyId := k, keyIndex := 0, reservation := 0 }, mgmt := { s.mgmt with successor := none } } := by
  rw [State.takeSuccessor, h]

/-! ### Firmware (R502) -/

/-- A chunk that is empty or too long, or lies outside an image of 48 MB at most. -/
def chunkBad (off total : Nat) (chunk : List Byte) : Prop :=
  chunk.length = 0 ∨ 4000 < chunk.length ∨ total = 0 ∨ 48 * 2 ^ 20 < total ∨ total < off + chunk.length

/-- The slot that a chunk of an image of `total` bytes joins: the one under way, or a new one. -/
def FwSlot.forTotal (old : FwSlot) (total : Nat) : FwSlot :=
  if old.factory || old.complete || old.total != total then { total := total } else old

def FwSlot.withChunk (f : FwSlot) (off : Nat) (chunk : List Byte) : FwSlot :=
  { f with bytes := Mem.write f.bytes off chunk, got := f.got ++ [(off, chunk.length)] }

section
variable {off total : Nat} {chunk : List Byte}

theorem fwStage_bad (h : chunkBad off total chunk) : s.fwStage off total chunk = reply 4 s := if_pos h

theorem fwStage_good (h : ¬chunkBad off total chunk) :
    s.fwStage off total chunk =
      let b := !s.mgmt.runningB
      let f := ((s.slotOf b).forTotal total).withChunk off chunk
      let u := s.setSlot b f
      reply (if f.complete && !u.slotOk f then 5 else 0) u := by
  refine (if_neg h).trans ?_
  dsimp only
  exact (apply_ite (reply · _) ..).symm

end

theorem activateReply_ok (h : s.slotOk (s.slotOf !s.mgmt.runningB) = true) :
    s.activateReply = reply 0 ({ s with flash := { s.flash with preferB := !s.mgmt.runningB, trial := true } } : State).stopController :=
  if_pos h

theorem activateReply_refused (h : s.slotOk (s.slotOf !s.mgmt.runningB) = false) : s.activateReply = reply 5 s :=
  if_neg (Bool.eq_false_iff.mp h)

/-- Settles O58: each request is taken up by the one session's number and tag, then replies by what it finds. -/
theorem viumondTrust : Obligations.ViumondTrust := by
  intro s d x t v bit
  refine ⟨fun hreq hbody => ?_, fun hreq hbody => ?_, fun hreq hbody => answers_of_run asks_opkey hreq rfl hbody rfl,
    fun hreq hbody => ?_, fun hreq hbody => ?_, fun hreq hbody => ?_⟩
  · exact ⟨fun hnone => answers_of_run asks_quote hreq rfl hbody (quote_unsigned hnone),
      fun q u hsign => answers_of_run asks_quote hreq rfl hbody (quote_signed hsign)⟩
  · refine ⟨fun hbit hnone => ?_, fun hbit q u hsign => ?_, fun hbit hnone => ?_, fun hbit k p hsome => ?_⟩
    · exact answers_of_run (asks_keyRotateGenerate hbit) hreq rfl hbody (makeSuccessor_unsigned hnone)
    · exact answers_of_run (asks_keyRotateGenerate hbit) hreq rfl hbody (makeSuccessor_signed hsign)
    · exact answers_of_run (asks_keyRotateConfirm hbit) hreq rfl hbody (takeSuccessor_none hnone)
    · exact answers_of_run (asks_keyRotateConfirm hbit) hreq rfl hbody (takeSuccessor_some hsome)
  · exact ⟨fun hmany => answers_of_run asks_collectors hreq rfl hbody (if_pos hmany),
      fun hfew => answers_of_run asks_collectors hreq rfl hbody (if_neg (Nat.not_lt.mpr hfew))⟩
  · exact ⟨fun hbad => answers_of_run asks_fwStage hreq rfl hbody (fwStage_bad hbad),
      fun hgood => answers_of_run asks_fwStage hreq rfl hbody (fwStage_good hgood)⟩
  · exact ⟨fun hok => answers_of_run asks_fwActivate hreq rfl hbody (activateReply_ok hok),
      fun hbad => answers_of_run asks_fwActivate hreq rfl hbody (activateReply_refused hbad)⟩

end Sys2Proof.Machine
end

section
/-! SUPPORT and SETTLED. Sessions and event pushes, the supervisor and the controller's images, the freeze pin and the end of a resumable
freeze (R496, R497, R501, R502, R509, R510, R513, R520, R522). That a challenge is a free value is notes/assumptions/2, the answer to an
EVENT_ACK is notes/assumptions/126, what a roll-back counts is notes/assumptions/129, that FREEZE_N waits until pitching ends is
notes/assumptions/133. -/

namespace Sys2Proof.Machine

variable {s : State} {d : Datagram}

/-! ### Sessions and pushes (R509, R510, R513) -/

/-- Is a datagram of a TYPE taken by a module whose controller runs? -/
def State.takesTyp (s : State) (typ : Byte) (d : Datagram) : Bool := s.powered && s.mgmt.running && datagramOk d && d.typ == typ

theorem takesTyp_iff {typ : Byte} :
    s.takesTyp typ d = true ↔ s.powered = true ∧ s.mgmt.running = true ∧ datagramOk d = true ∧ d.typ = typ := by
  simp only [State.takesTyp, Bool.and_eq_true, beq_iff_eq, and_assoc]

theorem not_takesTyp (s : State) (typ : Byte) (d : Datagram) :
    (!s.powered || !s.mgmt.running || !datagramOk d || d.typ != typ) = !s.takesTyp typ d := by
  simp only [State.takesTyp, Bool.not_and, bne]

/-- SESSION_OPEN's effect. -/
def State.sessionOpens (s : State) (d : Datagram) : State :=
  if !s.powered || !s.mgmt.running || !datagramOk d || d.typ != 1#8 then s
  else
    match s.flash.opKey with
    | none => s.dropTag
    | some k => if d.tag ≠ tagOf k d then s.dropTag else s.openSession d k

theorem exec_sessionOpen : exec (.sessionOpen d) s = .next ((s.sessionOpens d).withQueueOf s) :=
  ou (f := (State.sessionOpens · d)) trivial rfl

theorem sessionOpens_other (h : s.takesTyp 1#8 d = false) : s.sessionOpens d = s := if_pos ((not_takesTyp s 1#8 d).trans (congrArg not h))

section
variable (h : s.takesTyp 1#8 d = true)
include h

theorem sessionOpens_noKey (hkey : s.flash.opKey = none) : s.sessionOpens d = s.dropTag := by
  rw [State.sessionOpens, hkey, not_takesTyp, h]
  rfl

theorem sessionOpens_key {k : BitVec 256} (hkey : s.flash.opKey = some k) :
    s.sessionOpens d = if d.tag ≠ tagOf k d then s.dropTag else s.openSession d k := by
  rw [State.sessionOpens, hkey, not_takesTyp, h]
  rfl

end

/-- EVENT_ACK's effect. -/
def State.eventAcked (s : State) (d : Datagram) : State :=
  if !s.powered || !s.mgmt.running || !datagramOk d || d.typ != 7#8 then s
  else
    match s.mgmt.collectors.find? (fun c => c.session == d.session) with
    | none => s.dropTag
    | some c =>
      if d.tag ≠ tagOf c.key d then s.dropTag
      else if !bodyOk d 2 [(0, 16)] then s.send (s.response d c.key stRange [])
      else
        ({ s with mgmt := { s.mgmt with collectors := s.mgmt.collectors.map fun x =>
          if x.session = c.session then { x with unacked := ackTo x.unacked (fieldAt d.body 0 2) } else x } } : State).send
            (s.response d c.key stOk [])

theorem exec_eventAck : exec (.eventAck d) s = .next ((s.eventAcked d).withQueueOf s) :=
  ou (f := (State.eventAcked · d)) trivial rfl

section
variable (h : s.takesTyp 7#8 d = true)
include h

theorem eventAcked_unknown (hnone : s.mgmt.collectors.find? (fun c => c.session == d.session) = none) : s.eventAcked d = s.dropTag := by
  rw [State.eventAcked, hnone, not_takesTyp, h]
  rfl

theorem eventAcked_known {c : Collector} (hsome : s.mgmt.collectors.find? (fun c => c.session == d.session) = some c)
    (htag : d.tag = tagOf c.key d) (hbody : bodyOk d 2 [(0, 16)] = true) :
    s.eventAcked d = ({ s with mgmt := { s.mgmt with collectors := s.mgmt.collectors.map fun x =>
      if x.session = c.session then { x with unacked := ackTo x.unacked (fieldAt d.body 0 2) } else x } } : State).send
        (s.response d c.key 0 []) := by
  rw [State.eventAcked, hsome, not_takesTyp, h]
  exact (if_neg (not_not.mpr htag)).trans (if_neg (not_bnot_of_eq_true hbody))

end

/-- EVENT_PUSH_REPEAT's effect. -/
def State.pushesRepeat (s : State) : State :=
  if !s.powered || !s.mgmt.running then s
  else
    let rs := s.mgmt.collectors.map (repush s.mclock s.flash.modId)
    { s with mgmt := { s.mgmt with
      collectors := rs.map (·.2)
      pushes := s.mgmt.pushes ++ ((List.range rs.length).zip rs).flatMap fun x => x.2.1.map fun d => (x.1, d) } }

theorem exec_eventPushRepeat : exec .eventPushRepeat s = .next (s.pushesRepeat.withQueueOf s) := ou (f := State.pushesRepeat) trivial rfl

/-! ### The supervisor and the controller's images (R496, R497, R501, R502) -/

/-- The state with the next challenge made. -/
def State.challenged (s : State) : State :=
  { s with mgmt := { s.mgmt with challenge := Config.freeWord s.free }, free := s.free + 1 }

/-- SUPERVISOR_CHALLENGE's effect: the answer to the last challenge judged, and the next one made. -/
def State.challenge (s : State) (answer : Option Word) : State :=
  if !s.powered then s
  else if !s.mgmt.running then s.challenged
  else if answer == some (mix s.mgmt.challenge) then
    { s.challenged with mgmt := { s.challenged.mgmt with lastGood := s.challenged.mclock } }
  else if decide (s.mgmt.lastGood + secNs ≤ s.mclock) then s.challenged.supervise
  else s.challenged

theorem exec_supervisorChallenge (answer : Option Word) :
    exec (.supervisorChallenge answer) s = .next ((s.challenge answer).withQueueOf s) :=
  ou (f := (State.challenge · answer)) trivial rfl

section
variable {answer : Option Word} (hon : s.powered = true)
include hon

theorem challenge_stopped (hrun : s.mgmt.running = false) : s.challenge answer = s.challenged :=
  (if_neg (not_bnot_of_eq_true hon)).trans (if_pos (congrArg not hrun))

variable (hrun : s.mgmt.running = true)
include hrun

theorem challenge_answered (hgood : answer = some (mix s.mgmt.challenge)) :
    s.challenge answer = { s.challenged with mgmt := { s.challenged.mgmt with lastGood := s.challenged.mclock } } :=
  (if_neg (not_bnot_of_eq_true hon)).trans ((if_neg (not_bnot_of_eq_true hrun)).trans (if_pos (beq_iff_eq.mpr hgood)))

theorem challenge_failed (hbad : answer ≠ some (mix s.mgmt.challenge)) :
    s.challenge answer = if s.mgmt.lastGood + 1000000000 ≤ s.mclock then s.challenged.supervise else s.challenged :=
  (if_neg (not_bnot_of_eq_true hon)).trans ((if_neg (not_bnot_of_eq_true hrun)).trans ((if_neg (mt beq_iff_eq.mp hbad)).trans
    (if_congr decide_eq_true_iff rfl rfl)))

end

/-- CONTROLLER_START's effect: the preferred image, then the other one. -/
def State.startController (s : State) : State :=
  if !s.powered || s.mgmt.running || s.mgmt.heldInReset then s
  else
    let b := s.flash.preferB
    if s.slotOk (s.slotOf b) then s.bootController b
    else if s.slotOk (s.slotOf !b) then s.bootController !b
    else s.raise { code := 0x0B02, cls := .fatal, kind := 12, loc := mgmtLoc }

theorem exec_controllerStart : exec .controllerStart s = .next (s.startController.withQueueOf s) :=
  ou (f := State.startController) trivial rfl

theorem startController_none (h : s.powered = false ∨ s.mgmt.running = true ∨ s.mgmt.heldInReset = true) : s.startController = s :=
  if_pos (by rcases h with h | h | h <;> simp [h])

theorem startController_starts (hon : s.powered = true) (hrun : s.mgmt.running = false) (hheld : s.mgmt.heldInReset = false) :
    s.startController =
      if s.slotOk (s.slotOf s.flash.preferB) then s.bootController s.flash.preferB
      else if s.slotOk (s.slotOf !s.flash.preferB) then s.bootController !s.flash.preferB
      else s.raise { code := 0x0B02, cls := .fatal, kind := 12, loc := mgmtLoc } :=
  if_neg (by simp [hon, hrun, hheld])

/-- FIRMWARE_TRIAL's effect. -/
def State.trialEnds (s : State) (good : Bool) : State :=
  match s.mgmt.trialSince with
  | none => s
  | some t =>
    if !good then s.supervise
    else if s.mclock < t + 60 * secNs then s
    else { s with flash := { s.flash with trial := false }, mgmt := { s.mgmt with trialSince := none } }

theorem exec_firmwareTrial (good : Bool) : exec (.firmwareTrial good) s = .next ((s.trialEnds good).withQueueOf s) :=
  ou (f := (State.trialEnds · good)) trivial rfl

theorem trialEnds_none {good : Bool} (h : s.mgmt.trialSince = none) : s.trialEnds good = s := by rw [State.trialEnds, h]

theorem trialEnds_some {good : Bool} {t : Nat} (h : s.mgmt.trialSince = some t) :
    s.trialEnds good = if good = false then s.supervise
      else if s.mclock < t + 60000000000 then s
      else { s with flash := { s.flash with trial := false }, mgmt := { s.mgmt with trialSince := none } } := by
  rw [State.trialEnds, h]
  exact if_congr (Bool.not_eq_true' good).to_iff rfl rfl

/-! ### The freeze pin and a freeze's end (R520, R522) -/

/-- FREEZE_N_ASSERT's effect: it counts after 1 µs, and waits until pitching ends. -/
def State.pinFreeze (s : State) (ns : Nat) : State :=
  if !s.powered ∨ ns < 1000 then s
  else if s.freezeWaits || s.resetLow then { s with freeze := { s.freeze with spin := true } }
  else s.requestFreeze .pin s.freeze.immediate

theorem exec_freezeNAssert (ns : Nat) : exec (.freezeNAssert ns) s = .next ((s.pinFreeze ns).withQueueOf s) :=
  ou (f := (State.pinFreeze · ns)) trivial rfl

theorem pinFreeze_none {ns : Nat} (h : s.powered = false ∨ ns < 1000) : s.pinFreeze ns = s := if_pos (h.imp_left (congrArg not))

theorem pinFreeze_held {ns : Nat} (hon : s.powered = true) (hns : 1000 ≤ ns) :
    s.pinFreeze ns = if s.freezeWaits || s.resetLow then { s with freeze := { s.freeze with spin := true } }
      else s.requestFreeze .pin s.freeze.immediate :=
  if_neg (not_or.mpr ⟨not_bnot_of_eq_true hon, Nat.not_lt.mpr hns⟩)

theorem pinWaits_iff : (s.freezeWaits || s.resetLow) = true ↔
    s.power.state = .standby ∨ s.power.state = .pitching ∨ s.resetLow = true := by
  simp only [State.freezeWaits, Bool.or_eq_true, beq_iff_eq, or_assoc]

/-- FREEZE_EXPIRY's effect: a freeze that has lasted 100 ms is no longer resumable. -/
def State.freezeExpires (s : State) : State :=
  if s.freeze.state == .frozen && decide (s.freeze.since + freezeLimit ≤ s.time) then
    ({ s with freeze := { s.freeze with state := .dead, expired := true, seq := s.errors.nextSeq } } : State).raise
      { code := 0x0B0B, cls := .note, loc := moduleLoc }
  else s

theorem exec_freezeExpiry : exec .freezeExpiry s = .next (s.freezeExpires.withQueueOf s) := ou (f := State.freezeExpires) trivial rfl

theorem freezeExpires_iff : (s.freeze.state == .frozen && decide (s.freeze.since + freezeLimit ≤ s.time)) = true ↔
    s.freeze.state = .frozen ∧ s.freeze.since + 100000000 ≤ s.time := by
  rw [Bool.and_eq_true, beq_iff_eq, decide_eq_true_eq]
  rfl

/-- Settles O59: each command by whether the module or its controller takes it, then by what it finds. -/
theorem controllerEvents : Obligations.ControllerEvents := by
  intro s
  refine ⟨fun d => ⟨?_, ?_, ?_⟩, fun id => rfl, ?_, ?_, ?_, ?_, ?_, ?_, rfl, ?_, ?_⟩
  · intro hon hrun hgood htyp
    have htakes : s.takesTyp 1#8 d = true := takesTyp_iff.mpr ⟨hon, hrun, hgood, htyp⟩
    refine ⟨fun hnone => next_of_effect exec_sessionOpen (sessionOpens_noKey htakes hnone), fun k hkey => ?_⟩
    have hopen := next_of_effect exec_sessionOpen (sessionOpens_key htakes hkey)
    exact ⟨fun htag => next_of_effect hopen (if_pos htag), fun htag => next_of_effect hopen (if_neg (not_not.mpr htag))⟩
  · intro hother
    refine same_of_effect exec_sessionOpen (sessionOpens_other (Bool.eq_false_iff.mpr fun h => ?_))
    obtain ⟨hon, hrun, hgood, htyp⟩ := takesTyp_iff.mp h
    simp [hon, hrun, hgood, htyp] at hother
  · intro hon hrun hgood htyp
    have htakes : s.takesTyp 7#8 d = true := takesTyp_iff.mpr ⟨hon, hrun, hgood, htyp⟩
    exact ⟨fun hnone => next_of_effect exec_eventAck (eventAcked_unknown htakes hnone),
      fun c hsome htag hbody => next_of_effect exec_eventAck (eventAcked_known htakes hsome htag hbody)⟩
  · exact fun hon hrun => next_of_effect exec_eventPushRepeat (if_neg (by simp [hon, hrun]))
  · intro a
    refine ⟨fun hoff => same_of_effect (exec_supervisorChallenge a) (if_pos (congrArg not hoff)),
      fun hon hrun hgood => next_of_effect (exec_supervisorChallenge a) (challenge_answered hon hrun hgood), fun hon hrun hbad => ?_,
      fun hon hrun => next_of_effect (exec_supervisorChallenge a) (challenge_stopped hon hrun)⟩
    have hfails := next_of_effect (exec_supervisorChallenge a) (challenge_failed hon hrun hbad)
    exact ⟨fun hlate => next_of_effect hfails (if_pos hlate), fun hsoon => next_of_effect hfails (if_neg (Nat.not_le.mpr hsoon))⟩
  · intro hon hrun hheld
    have hstart := next_of_effect exec_controllerStart (startController_starts hon hrun hheld)
    exact ⟨fun hok => next_of_effect hstart (if_pos hok),
      fun hbad hok => next_of_effect hstart ((if_neg (Bool.eq_false_iff.mp hbad)).trans (if_pos hok)),
      fun hbad hbad' => next_of_effect hstart ((if_neg (Bool.eq_false_iff.mp hbad)).trans (if_neg (Bool.eq_false_iff.mp hbad')))⟩
  · exact fun h => same_of_effect exec_controllerStart (startController_none h)
  · exact fun good => ⟨fun hnone => same_of_effect (exec_firmwareTrial good) (trialEnds_none hnone),
      fun t hsome => next_of_effect (exec_firmwareTrial good) (trialEnds_some hsome)⟩
  · intro ns
    refine ⟨fun h => same_of_effect (exec_freezeNAssert ns) (pinFreeze_none h), fun hon hns => ?_⟩
    have hpin := next_of_effect (exec_freezeNAssert ns) (pinFreeze_held hon hns)
    refine ⟨fun hwaits => next_of_effect hpin (if_pos (pinWaits_iff.mpr hwaits)), fun hstandby hpitch hreset => ?_⟩
    exact next_of_effect hpin (if_neg (mt pinWaits_iff.mp (by simp [hstandby, hpitch, hreset])))
  · exact fun hfrozen htime => next_of_effect exec_freezeExpiry (if_pos (freezeExpires_iff.mpr ⟨hfrozen, htime⟩))
  · intro h
    refine same_of_effect exec_freezeExpiry (if_neg (mt freezeExpires_iff.mp ?_))
    rintro ⟨hfrozen, htime⟩
    exact h.elim (· hfrozen) (Nat.not_lt.mpr htime)

end Sys2Proof.Machine
end
